-- ==== Sys2Proof/Word.lean ====
section
/-! DEFINITION. The plain words of the part: bytes of the two kinds of line, the 16-bit check value, codes of
the character set, and the moments of the elapsed-time count (08 R164, 09 introduction, 11 R203). -/

namespace Sys2Proof

/-- A byte on the station line or on a sign string. -/
abbrev Byte := BitVec 8

/-- The 16-bit check value of 00_scope 1.10 and R203. -/
abbrev Check := BitVec 16

/-- One of the 64 codes of the part's character set (R216). -/
abbrev Code := Fin 64

/-- A reading of the part's elapsed-time count, in microseconds since the start (assumption 2). -/
abbrev Moment := Nat

/-- Microseconds in a millisecond. -/
def usPerMs : Nat := 1000

/-- Microseconds in a second. -/
def usPerSecond : Nat := 1000000

/-- The two sign strings (R163). -/
inductive StringId where
  | a
  | b
  deriving DecidableEq, Repr

end Sys2Proof
end

