-- ==== Sys2Proof/Syntax.lean ====
section
/-! DEFINITION. The commands: one constructor for each row of spec/opcode_table.json, in the table's order. -/

namespace Sys2Proof

/-- The commands of the part. `t` is the moment at which the command is taken (assumption 1); a moment already past
stands for the present one. A request's `tag` and `fields` are the first byte and the rest of the body of the frame
that is taken from the inbound queue (R184, R205; assumption 5). -/
inductive Instr where
  | timeSet (t : Moment) (tag : Byte) (fields : List Byte)
  | noticePost (t : Moment) (tag : Byte) (fields : List Byte)
  | noticeWithdraw (t : Moment) (tag : Byte) (fields : List Byte)
  | pageWrite (t : Moment) (tag : Byte) (fields : List Byte)
  | pageSwap (t : Moment) (tag : Byte) (fields : List Byte)
  | textLoad (t : Moment) (tag : Byte) (fields : List Byte)
  | gateRaise (t : Moment) (tag : Byte) (fields : List Byte)
  | gateClear (t : Moment) (tag : Byte) (fields : List Byte)
  | pathFloor (t : Moment) (tag : Byte) (fields : List Byte)
  | restart (t : Moment) (tag : Byte) (fields : List Byte)
  | definePath (t : Moment) (tag : Byte) (fields : List Byte)
  | defineSegment (t : Moment) (tag : Byte) (fields : List Byte)
  | defineGate (t : Moment) (tag : Byte) (fields : List Byte)
  | defineSign (t : Moment) (tag : Byte) (fields : List Byte)
  | defineProfile (t : Moment) (tag : Byte) (fields : List Byte)
  | defineGroup (t : Moment) (tag : Byte) (fields : List Byte)
  | removePath (t : Moment) (tag : Byte) (fields : List Byte)
  | removeSegment (t : Moment) (tag : Byte) (fields : List Byte)
  | removeGate (t : Moment) (tag : Byte) (fields : List Byte)
  | removeSign (t : Moment) (tag : Byte) (fields : List Byte)
  | removeProfile (t : Moment) (tag : Byte) (fields : List Byte)
  | removeGroup (t : Moment) (tag : Byte) (fields : List Byte)
  | calibrate (t : Moment) (tag : Byte) (fields : List Byte)
  | linkSet (t : Moment) (tag : Byte) (fields : List Byte)
  | saveSettings (t : Moment) (tag : Byte) (fields : List Byte)
  | queryStatus (t : Moment) (tag : Byte) (fields : List Byte)
  | queryPath (t : Moment) (tag : Byte) (fields : List Byte)
  | querySegment (t : Moment) (tag : Byte) (fields : List Byte)
  | queryGate (t : Moment) (tag : Byte) (fields : List Byte)
  | querySign (t : Moment) (tag : Byte) (fields : List Byte)
  | queryNotices (t : Moment) (tag : Byte) (fields : List Byte)
  | queryStep (t : Moment) (tag : Byte) (fields : List Byte)
  | queryText (t : Moment) (tag : Byte) (fields : List Byte)
  /-- The oldest frame, whose kind names no request or whose body is empty (R184). -/
  | unknownKind (t : Moment) (kind : Byte) (body : List Byte)
  /-- Bytes arrive on the station line; a complete frame ends with its second check byte (R180). -/
  | stationFrameReceived (t : Moment) (bytes : List Byte)
  | gapExpiry (t : Moment)
  | replySent (t : Moment)
  | reportAgeExpiry (t : Moment)
  | reportFrameSent (t : Moment)
  | silenceLimitReached (t : Moment)
  /-- The store write completes; `accepted` says whether every byte was accepted and the read-back agreed (R197). -/
  | storeWriteEnd (t : Moment) (accepted : Bool)
  | storeWriteTimeout (t : Moment)
  /-- The supply monitor releases the part. `retainedKept` says whether the retained supply kept the Retained Area;
  `phase` is the time from the release to the Pass Clock's next second (R68, R199; assumptions 16, 17). -/
  | start (retainedKept : Bool) (phase : Moment)
  /-- The main supply is lost; `areaCut` says whether it was lost between a write of the Retained Area and the update
  of the area check (R199). -/
  | supplyLoss (t : Moment) (areaCut : Bool)
  /-- The level on field input `line` (1 to 16) becomes `high`. -/
  | fieldLineChange (t : Moment) (line : Nat) (high : Bool)
  | changeEvent (t : Moment) (line : Nat)
  /-- A transition on field input `line`, the source of a WIDTH channel. -/
  | widthEdge (t : Moment) (line : Nat) (high : Bool)
  | vaneSample (t : Moment)
  | stepEnd (t : Moment)
  | clockTick (t : Moment)
  | holdDeadline (t : Moment) (gate : Nat)
  | clearZoneExpiry (t : Moment) (gate : Nat)
  | travelTimeout (t : Moment) (gate : Nat)
  | refreshDue (t : Moment) (sign : Nat)
  | retryDue (t : Moment) (sign : Nat)
  | imageFrameSent (t : Moment) (string : StringId)
  /-- Bytes arrive on a sign string; `none` is a byte with its stop bit missing (R212). -/
  | shownFrameReceived (t : Moment) (string : StringId) (bytes : List (Option Byte))
  | replyWindowEnd (t : Moment) (string : StringId)
  /-- The byte `length` arrives with the station receiver in LENGTH. -/
  | badLength (t : Moment) (length : Byte)
  | missingStopBit (t : Moment)
  deriving DecidableEq, Repr

end Sys2Proof
end

