-- ==== Sys2Proof/Decode.lean ====
section
/-! DEFINITION. The command a table word spells. spec/opcode_table.json gives no row any bits, so no word spells a
command (assumption 27). -/

namespace Sys2Proof

/-- The command that `nbits` bits with value `w` spell by the table: none of them spells one. -/
def decodeTableWord (_nbits _w : Nat) : Option Instr := none

end Sys2Proof
end

