-- ==== Sys2Proof/Machine/Types.lean ====
section
/-! DEFINITION. The records the blocks of the part hold: settings records, notices, step records, gate, segment,
sign and panel states, station frames, replies and report records. Plain data; what they mean is in the files of the
families. A number of an item (path, segment, gate, sign, profile, group, line, channel) is a Nat numbered from 1, as
00_scope 1.8 numbers them; 0 stands for none where the layouts of chapter 11 send 0. -/

namespace Sys2Proof.Machine

/-! ## Settings (R195) -/

/-- Mode of a counter channel (R7). -/
inductive ChannelMode where
  | off | event | width | vane
  deriving DecidableEq, Repr

/-- Role of a counter channel (section 1.3 of chapter 1). -/
inductive ChannelRole where
  | noRole | precip | wind | temp | vane
  deriving DecidableEq, Repr

/-- What the calibration set says of one channel: source and VANE_OK line are 0 for none. -/
structure ChannelConfig where
  mode : ChannelMode
  role : ChannelRole
  source : Nat
  vaneOk : Nat
  deriving DecidableEq, Repr

/-- The calibration set (section 1.7 of chapter 1). Debounce times in ms, tip size in 0.01 mm, air run in mm. -/
structure Calibration where
  debounce : Vector Nat 16
  channels : Vector ChannelConfig 6
  tipSize : Nat
  airRun : Nat
  deriving DecidableEq, Repr

/-- A path record (R48) less its number. `lee` has bit k set for sector k; the settings S, W, M and R are spelled out. -/
structure PathRecord where
  nameEntry : Nat
  lee : BitVec 8
  snow : Nat
  wind : Nat
  warming : Nat
  settling : Nat
  t1 : Nat
  t2 : Nat
  t3 : Nat
  t4 : Nat
  band : Nat
  segments : List Nat
  deriving DecidableEq, Repr

/-- A segment record (R88) less its number. -/
structure SegmentRecord where
  nameEntry : Nat
  caution : Nat
  permit : Nat
  deriving DecidableEq, Repr

/-- A gate record (R105) less its number. Presence and key are 0 for none; times in s. -/
structure GateRecord where
  segment : Nat
  warnHold : Nat
  travel : Nat
  clearHold : Nat
  upSwitch : Nat
  downSwitch : Nat
  presence : Nat
  key : Nat
  lower : Nat
  raise : Nat
  flasher : Nat
  approach : List Nat
  deriving DecidableEq, Repr

/-- A sign record (R134) less its number. -/
structure SignRecord where
  string : StringId
  address : Nat
  cells : Nat
  lines : Nat
  lineLength : Nat
  profile : Nat
  segments : List Nat
  deriving DecidableEq, Repr

/-- Readout form of a profile (R138). -/
inductive ReadoutForm where
  | temp | wind | both
  deriving DecidableEq, Repr

/-- Closure style of a profile (R138). -/
inductive ClosureStyle where
  | full | top
  deriving DecidableEq, Repr

/-- A profile record (R138) less its number. -/
structure ProfileRecord where
  hazard : Bool
  showLevel : Nat
  restriction : Bool
  base : Bool
  weather : Bool
  form : ReadoutForm
  style : ClosureStyle
  deriving DecidableEq, Repr

/-- Auto-close setting (R193). -/
inductive AutoClose where
  | off | unattendedOnly | always
  deriving DecidableEq, Repr

/-- The settings (R195): the working ones, and the contents of a saved copy. A group is the ascending list of its
signs. -/
structure Settings where
  calibration : Calibration
  paths : Vector (Option PathRecord) 12
  segments : Vector (Option SegmentRecord) 8
  gates : Vector (Option GateRecord) 8
  signs : Vector (Option SignRecord) 16
  profiles : Vector (Option ProfileRecord) 8
  groups : Vector (Option (List Nat)) 8
  texts : Vector (List Code) 256
  silenceLimit : Nat
  autoClose : AutoClose
  deriving DecidableEq, Repr

/-! ## Field Interface -/

/-- A candidate level of an input (R1): the level, when the line took it, and the debounce time in ms under which it
began (R3). -/
structure Candidate where
  level : Bool
  since : Moment
  debounce : Nat
  deriving DecidableEq, Repr

/-- The held part of a field input (R1). -/
structure InputState where
  accepted : Bool
  candidate : Option Candidate
  deriving DecidableEq, Repr

/-- Measuring state of a WIDTH channel (R7, R9). -/
inductive Measuring where
  | idle
  | measuring (since : Moment)
  | blind
  deriving DecidableEq, Repr

/-- The accumulators of a channel's mode (R7). -/
inductive ChannelTotals where
  | off
  | event (count : Nat)
  | width (count : Nat) (sum : Nat) (state : Measuring)
  | vane (bins : Vector Nat 8) (invalid : Nat)
  deriving DecidableEq, Repr

/-- A clear-zone timer (R15). -/
inductive ClearZone where
  | idle
  | occupied
  | holding (endTime : Moment)
  deriving DecidableEq, Repr

/-- What an input does and for which gate or channel (the function table of section 1.1, R1). -/
inductive InputFunction where
  | unused
  | upSwitch (gate : Nat)
  | downSwitch (gate : Nat)
  | presence (gate : Nat)
  | key (gate : Nat)
  | counter (channel : Nat)
  | vaneLine (channel : Nat)
  | vaneOk (channel : Nat)
  deriving DecidableEq, Repr

/-- The Field Interface. -/
structure FieldInterface where
  lines : Vector Bool 16
  inputs : Vector InputState 16
  outputs : Vector Bool 16
  channels : Vector ChannelTotals 6
  clearZones : Vector ClearZone 8
  deriving DecidableEq, Repr

/-! ## Weather Unit -/

/-- State of the temperature of a step (R30). -/
inductive TempState where
  | valid
  | held (k : Nat)
  | fault
  deriving DecidableEq, Repr

/-- Input flags (R40) and result flags (R41) of a step. -/
structure StepFlags where
  noPrecip : Bool
  tHeld : Bool
  tFault : Bool
  vane : Bool
  pClamp : Bool
  uClamp : Bool
  hClamp : Bool
  deriving DecidableEq, Repr

/-- One path's entry in a step record (R44). -/
structure PathEntry where
  path : Nat
  h : Nat
  clamped : Bool
  deriving DecidableEq, Repr

/-- A step record (R44). A sector or end time is absent as `none`. -/
structure StepRecord where
  number : Nat
  endTime : Option Nat
  tips : Nat
  p : Nat
  tempPulses : Nat
  t : Option Int
  tState : TempState
  pulses : Nat
  u : Nat
  sector : Option Nat
  bins : Vector Nat 8
  invalid : Nat
  flags : StepFlags
  entries : List PathEntry
  deriving DecidableEq, Repr

/-- The Weather Unit less its two memories, which are retained. `began` is the moment the present step began. -/
structure WeatherUnit where
  timer : Nat
  began : Moment
  number : Nat
  history : List StepRecord
  deriving DecidableEq, Repr

/-! ## Retained Area (R199) -/

/-- A floor of a path (R49). -/
structure Floor where
  level : Nat
  remaining : Nat
  deriving DecidableEq, Repr

/-- The retained figures of a path number (R49). -/
structure PathFigures where
  h : Nat
  level : Nat
  floor : Option Floor
  deriving DecidableEq, Repr

/-- The last-temperature memory when it is not empty (R30). -/
structure TempMemory where
  value : Int
  held : Nat
  deriving DecidableEq, Repr

inductive NoticeKind where
  | closure | restriction | advisory
  deriving DecidableEq, Repr

inductive Reason where
  | avalanche | snow | wind | ice | works | event | other
  deriving DecidableEq, Repr

inductive Origin where
  | station | held | autonomous
  deriving DecidableEq, Repr

/-- State of a notice with its activation time (R71): in ACTIVE, `none` is the value "unset". -/
inductive NoticeState where
  | pending
  | active (since : Option Nat)
  deriving DecidableEq, Repr

/-- A notice record (R71). -/
structure Notice where
  number : Nat
  kind : NoticeKind
  segments : List Nat
  reason : Reason
  startTime : Option Nat
  endTime : Option Nat
  text : Option Nat
  origin : Origin
  state : NoticeState
  deriving DecidableEq, Repr

/-- The Retained Area (R199). The clock is `none` while UNSET. The area check is held as whether it holds
(assumption 16). -/
structure Retained where
  clock : Option Nat
  paths : Vector PathFigures 12
  lastTemp : Option TempMemory
  prevSector : Option Nat
  notices : List Notice
  checkHolds : Bool
  deriving DecidableEq, Repr

/-! ## Segment Evaluator and Gate Sequencer -/

/-- A segment's state (R93); OPEN is `free`. -/
inductive RoadState where
  | free | caution | closing | closed | released
  deriving DecidableEq, Repr

/-- A segment state record (R89). CIF and RIF are whether a closure and a restriction govern. -/
structure SegmentState where
  closure : Option Nat
  restriction : Option Nat
  hmax : Nat
  state : RoadState
  toldCif : Bool
  deriving DecidableEq, Repr

inductive StopCause where
  | position | switches | timeout | obstruction | forced
  deriving DecidableEq, Repr

inductive RaiseKind where
  | requested | obstruction
  deriving DecidableEq, Repr

/-- A gate's state, with its stop cause in STOPPED and its raise kind in RAISING (R109). -/
inductive GatePosition where
  | up
  | warning
  | lowering
  | down
  | raising (kind : RaiseKind)
  | stopped (cause : StopCause)
  | inLocal
  deriving DecidableEq, Repr

/-- A gate state (R109). Hold start and travel expiry are seconds of the elapsed-time count. -/
structure GateState where
  position : GatePosition
  holdStart : Option Nat
  reversals : Nat
  travelExpiry : Option Nat
  deriving DecidableEq, Repr

/-- Causes of a GATE report (R132). -/
inductive GateCause where
  | closure | closureEnded | hold | limit | obstruction | timeout | forced | switches | key | request | define
  deriving DecidableEq, Repr

/-! ## Sign Composer -/

/-- The temperature readout (R154). -/
inductive TempReadout where
  | noStep
  | valid (t : Int)
  | held (t : Int)
  | fault
  deriving DecidableEq, Repr

/-- A page (R144): P1, P2 and L1 to L3; `none` is transparent. -/
structure Page where
  cells : Vector (Option Nat) 2
  lines : Vector (Option Nat) 3
  deriving DecidableEq, Repr

/-- The layers (chapter 7). -/
inductive Layer where
  | closure | hazard | restriction | base | weather
  deriving DecidableEq, Repr

/-- What a line is drawn from (R147). -/
inductive LineSource where
  | entry (number : Nat)
  | temperature
  | wind
  deriving DecidableEq, Repr

/-- The claims of an image (R147): for each cell its layer, for each line its layer and source, none for a blank slot;
and the closure segment. -/
structure Claims where
  cells : List (Option Layer)
  lines : List (Option (Layer × LineSource))
  closureSegment : Option Nat
  deriving DecidableEq, Repr

/-- A composed, sent or confirmed image (R158): slot contents, claims and identity. -/
structure Image where
  cells : List Nat
  lines : List (List Code)
  claims : Claims
  identity : Check
  deriving DecidableEq, Repr

/-- What the Sign Composer holds for a sign: pages, composed image, delivery mark. -/
structure SignState where
  front : Page
  back : Page
  image : Image
  marked : Bool
  deriving DecidableEq, Repr

/-- The Sign Composer. The wind readout is `none` for NO STEP. -/
structure SignComposer where
  temp : TempReadout
  wind : Option Nat
  signs : Vector (Option SignState) 16
  deriving DecidableEq, Repr

/-! ## String Controller -/

inductive PanelState where
  | unknown | sending | showing | fault
  deriving DecidableEq, Repr

inductive Failure where
  | noReply | badFrame | wrongIdentity
  deriving DecidableEq, Repr

/-- A panel record (R164). -/
structure PanelRecord where
  state : PanelState
  confirmed : Option Image
  shownSince : Option Moment
  lastConfirmation : Option Moment
  attempts : Nat
  lastAttemptEnd : Option Moment
  lastFailure : Option Failure
  deriving DecidableEq, Repr

/-- Phase of an attempt (R163). In WAITING: the window end, and the bytes of the reply frame begun, start byte
included (empty while no frame has begun, R212). -/
inductive Phase where
  | sendingFrame
  | waiting (windowEnd : Moment) (received : List Byte)
  deriving DecidableEq, Repr

/-- The transfer record of a BUSY string (R163), with the panel address the IMAGE frame was sent to, by which the reply is
judged (R166; for an orphaned attempt, assumption 33). -/
structure Attempt where
  sign : Nat
  address : Nat
  sent : Image
  number : Nat
  phase : Phase
  orphaned : Bool
  deriving DecidableEq, Repr

/-- The String Controller: panel records and the transfer records of both strings (`none` is FREE). `due` and `tells`
are given inside one command and empty between commands: strings whose arbiter has a choice to take (R172) and signs
whose panel state change the gates have still to be told (R173). -/
structure StringController where
  panels : Vector (Option PanelRecord) 16
  transferA : Option Attempt
  transferB : Option Attempt
  due : List StringId
  tells : List Nat
  deriving DecidableEq, Repr

/-! ## Report records (R187, R210) -/

inductive NoticeEvent where
  | created | activated | expired | withdrawn
  deriving DecidableEq, Repr

/-- The event of a SIGN report with what it carries (R174). -/
inductive SignEvent where
  | enteredFault (failure : Option Failure) (imageKept : Bool)
  | confirmed (identity : Check) (closureSegment : Option Nat)
  | moved
  | removed
  deriving DecidableEq, Repr

inductive StartKind where
  | warm | cold
  deriving DecidableEq, Repr

inductive StartCause where
  | supply | request
  deriving DecidableEq, Repr

inductive ColdReason where
  | requested | retainedInvalid
  deriving DecidableEq, Repr

/-- The fields of each kind of report record. `none` as a segment or gate state is UNDEFINED. -/
inductive ReportBody where
  | step (number p : Nat) (t : Option Int) (tState : TempState) (u : Nat) (sector : Option Nat) (flags : StepFlags)
  | level (path before after h : Nat)
  | notice (number : Nat) (event : NoticeEvent) (kind : NoticeKind) (origin : Origin)
  | segment (segment : Nat) (before after : Option RoadState) (hmax : Nat) (closure : Option Nat)
  | gate (gate : Nat) (before after : Option GatePosition) (reversals : Nat) (cause : GateCause)
  | sign (sign : Nat) (string : StringId) (address : Nat) (event : SignEvent)
  | linkUnattended (limit : Nat)
  | linkAttended (silence : Nat)
  | restart (kind : StartKind) (cause : StartCause) (coldReason : Option ColdReason) (factory : Bool)
      (paths segments gates signs notices : Nat)
  deriving DecidableEq, Repr

/-- A report record with the fields every record shares (R187). -/
structure ReportRecord where
  sequence : Nat
  clock : Option Nat
  body : ReportBody
  deriving DecidableEq, Repr

/-- A record in the report buffer: when it was queued (R187) and whether the report frame being sent carries it
(R188, R189). -/
structure Buffered where
  record : ReportRecord
  queuedAt : Moment
  inFrame : Bool
  deriving DecidableEq, Repr

/-! ## Station Line Controller -/

/-- A valid station frame (R179). -/
structure Frame where
  kind : Byte
  body : List Byte
  deriving DecidableEq, Repr

/-- The receiver with what it has kept (R180). Body bytes in order of arrival. -/
inductive Receiver where
  | hunting
  | length
  | kind (length : Byte)
  | body (length kind : Byte) (received : List Byte)
  | check (length kind : Byte) (body : List Byte) (first : Option Byte)
  deriving DecidableEq, Repr

/-- Refusal codes (R185). -/
inductive RefusalCode where
  | malformed | unknownKind | range | unknownItem | full | conflict | inMotion | wrongState | interlock | noClock
  | busy | storeFail
  deriving DecidableEq, Repr

/-- Sub-reasons of a REFUSED reply (R185). -/
inductive SubReason where
  | noReason | closure | hazard
  deriving DecidableEq, Repr

/-- What a reply says: DONE with its result body, or REFUSED. -/
inductive Answer where
  | done (result : List Byte)
  | refused (code : RefusalCode) (sub : SubReason)
  deriving DecidableEq, Repr

/-- A reply in the outbox (R183, R185). -/
structure Reply where
  tag : Byte
  kind : Byte
  answer : Answer
  deriving DecidableEq, Repr

/-- The transmitter (R190); a report frame carries a copy of its records (R188). -/
inductive Transmitter where
  | free
  | sendingReply
  | sendingReports (records : List ReportRecord)
  deriving DecidableEq, Repr

/-- The Station Line Controller. `carrying` is the tag of a SAVE SETTINGS being carried out (R184); `restartDue` is
the kind of a RESTART whose reply has still to be sent (R201); the silence timer is the whole seconds since
`lastValid` (R191). -/
structure StationLine where
  receiver : Receiver
  lastByte : Moment
  inbound : List Frame
  carrying : Option Byte
  restartDue : Option StartKind
  outbox : List Reply
  transmitter : Transmitter
  buffer : List Buffered
  nextSequence : Nat
  lastValid : Moment
  attended : Bool
  deriving DecidableEq, Repr

/-! ## Settings Store -/

/-- A store write in progress (R196). -/
structure StoreWrite where
  copy : Settings
  began : Moment
  deriving DecidableEq, Repr

/-- The Settings Store: working settings, saved copy (`none` is invalid), store write. `writes` counts the
successful writes and feeds the free values of their replies (assumption 8). -/
structure SettingsStore where
  working : Settings
  saved : Option Settings
  write : Option StoreWrite
  writes : Nat
  deriving DecidableEq, Repr

end Sys2Proof.Machine
end

