-- ==== Sys2Proof/Machine/Codes.lean ====
section
/-! DEFINITION. The codes that stand for names on the lines (R213 to R215) and the bytes of numbers (R203). -/

namespace Sys2Proof.Machine

/-! ## Numbers on the lines (R203): most significant byte first -/

/-- A one-byte field. -/
def byte (n : Nat) : Byte := BitVec.ofNat 8 n

/-- A two-byte field. -/
def word (n : Nat) : List Byte := [byte (n / 256), byte n]

/-- A four-byte field. -/
def long (n : Nat) : List Byte := [byte (n / 16777216), byte (n / 65536), byte (n / 256), byte n]

/-- A check value or identity as two bytes. -/
def checkBytes (c : Check) : List Byte := word c.toNat

/-- A Pass Clock time; 0xFFFFFFFF stands for unset or absent. -/
def timeBytes (t : Option Nat) : List Byte := long (t.getD 4294967295)

/-- A temperature in 0.1 degrees, two's complement; 0x8000 stands for an absent one. -/
def tempBytes (t : Option Int) : List Byte :=
  match t with
  | none => word 0x8000
  | some v => checkBytes (BitVec.ofInt 16 v)

/-- The sector, 0xFF for NONE. -/
def sectorByte (sector : Option Nat) : Byte := byte (sector.getD 255)

/-- 1 for true, 0 for false. -/
def flagByte (b : Bool) : Byte := if b then 1 else 0

/-- The field of `n` bytes at offset `i` of a body, as a number. -/
def byteAt (b : List Byte) (i : Nat) : Nat := (b.getD i 0).toNat
def wordAt (b : List Byte) (i : Nat) : Nat := byteAt b i * 256 + byteAt b (i + 1)
def longAt (b : List Byte) (i : Nat) : Nat := wordAt b i * 65536 + wordAt b (i + 2)

/-- `count` one-byte fields from offset `i`. -/
def bytesAt (b : List Byte) (i count : Nat) : List Nat := ((b.drop i).take count).map (·.toNat)

/-- A list of numbers as one byte each, filled with 0 to `n` bytes (assumption 15). -/
def filled (n : Nat) (xs : List Nat) : List Byte := (xs.map byte ++ List.replicate n 0).take n

/-! ## Frame kinds (R213) -/

def kindTimeSet : Byte := 0x10
def kindNoticePost : Byte := 0x11
def kindNoticeWithdraw : Byte := 0x12
def kindPageWrite : Byte := 0x13
def kindPageSwap : Byte := 0x14
def kindTextLoad : Byte := 0x15
def kindGateRaise : Byte := 0x16
def kindGateClear : Byte := 0x17
def kindPathFloor : Byte := 0x18
def kindRestart : Byte := 0x19
def kindDefinePath : Byte := 0x20
def kindDefineSegment : Byte := 0x21
def kindDefineGate : Byte := 0x22
def kindDefineSign : Byte := 0x23
def kindDefineProfile : Byte := 0x24
def kindDefineGroup : Byte := 0x25
def kindRemoveItem : Byte := 0x26
def kindCalibrate : Byte := 0x27
def kindLinkSet : Byte := 0x28
def kindSaveSettings : Byte := 0x29
def kindQueryStatus : Byte := 0x30
def kindQueryPath : Byte := 0x31
def kindQuerySegment : Byte := 0x32
def kindQueryGate : Byte := 0x33
def kindQuerySign : Byte := 0x34
def kindQueryNotices : Byte := 0x35
def kindQueryStep : Byte := 0x36
def kindQueryText : Byte := 0x37
def kindDone : Byte := 0x80
def kindRefused : Byte := 0x81
def kindReport : Byte := 0x82

/-- The kinds that name a request (R213, section 9.4). -/
def requestKinds : List Byte :=
  [kindTimeSet, kindNoticePost, kindNoticeWithdraw, kindPageWrite, kindPageSwap, kindTextLoad, kindGateRaise,
   kindGateClear, kindPathFloor, kindRestart, kindDefinePath, kindDefineSegment, kindDefineGate, kindDefineSign,
   kindDefineProfile, kindDefineGroup, kindRemoveItem, kindCalibrate, kindLinkSet, kindSaveSettings,
   kindQueryStatus, kindQueryPath, kindQuerySegment, kindQueryGate, kindQuerySign, kindQueryNotices, kindQueryStep,
   kindQueryText]

/-- Whether a kind byte names a request. -/
def isRequestKind (k : Byte) : Bool := requestKinds.contains k

/-- The item kinds of REMOVE ITEM (R213). -/
def itemPath : Nat := 1
def itemSegment : Nat := 2
def itemGate : Nat := 3
def itemSign : Nat := 4
def itemProfile : Nat := 5
def itemGroup : Nat := 6

/-! ## Refusals (R214) and reasons -/

def RefusalCode.code : RefusalCode → Byte
  | .malformed => 1
  | .unknownKind => 2
  | .range => 3
  | .unknownItem => 4
  | .full => 5
  | .conflict => 6
  | .inMotion => 7
  | .wrongState => 8
  | .interlock => 9
  | .noClock => 10
  | .busy => 11
  | .storeFail => 12

def SubReason.code : SubReason → Byte
  | .noReason => 0
  | .closure => 1
  | .hazard => 2

/-! ## Named values (R215) -/

def StopCause.code : StopCause → Byte
  | .position => 1
  | .switches => 2
  | .timeout => 3
  | .obstruction => 4
  | .forced => 5

def GatePosition.code : GatePosition → Byte
  | .up => 1
  | .warning => 2
  | .lowering => 3
  | .down => 4
  | .raising _ => 5
  | .stopped _ => 6
  | .inLocal => 7

/-- The stop cause of a state, 0 outside STOPPED. -/
def GatePosition.stopCode : GatePosition → Byte
  | .stopped c => c.code
  | _ => 0

def RaiseKind.code : RaiseKind → Byte
  | .requested => 1
  | .obstruction => 2

/-- The raise kind of a state, 0 outside RAISING. -/
def GatePosition.raiseCode : GatePosition → Byte
  | .raising k => k.code
  | _ => 0

def GateCause.code : GateCause → Byte
  | .closure => 1
  | .closureEnded => 2
  | .hold => 3
  | .limit => 4
  | .obstruction => 5
  | .timeout => 6
  | .forced => 7
  | .switches => 8
  | .key => 9
  | .request => 10
  | .define => 11

def RoadState.code : RoadState → Byte
  | .free => 1
  | .caution => 2
  | .closing => 3
  | .closed => 4
  | .released => 5

def NoticeKind.code : NoticeKind → Byte
  | .closure => 0
  | .restriction => 1
  | .advisory => 2

def NoticeKind.ofCode : Nat → Option NoticeKind
  | 0 => some .closure
  | 1 => some .restriction
  | 2 => some .advisory
  | _ => none

/-- Index of a reason (R71), which is its code. -/
def Reason.index : Reason → Nat
  | .avalanche => 0
  | .snow => 1
  | .wind => 2
  | .ice => 3
  | .works => 4
  | .event => 5
  | .other => 6

def Reason.ofCode : Nat → Option Reason
  | 0 => some .avalanche
  | 1 => some .snow
  | 2 => some .wind
  | 3 => some .ice
  | 4 => some .works
  | 5 => some .event
  | 6 => some .other
  | _ => none

def Origin.code : Origin → Byte
  | .station => 0
  | .held => 1
  | .autonomous => 2

def NoticeEvent.code : NoticeEvent → Byte
  | .created => 1
  | .activated => 2
  | .expired => 3
  | .withdrawn => 4

def NoticeState.code : NoticeState → Byte
  | .pending => 0
  | .active _ => 1

def PanelState.code : PanelState → Byte
  | .unknown => 0
  | .sending => 1
  | .showing => 2
  | .fault => 3

def Failure.code : Failure → Byte
  | .noReply => 1
  | .badFrame => 2
  | .wrongIdentity => 3

/-- The last failure, 0 for none. -/
def failureCode (f : Option Failure) : Byte :=
  match f with
  | none => 0
  | some f => f.code

def TempState.code : TempState → Byte
  | .valid => 0
  | .held k => byte k
  | .fault => 4

def ChannelMode.code : ChannelMode → Byte
  | .off => 0
  | .event => 1
  | .width => 2
  | .vane => 3

def ChannelMode.ofCode : Nat → Option ChannelMode
  | 0 => some .off
  | 1 => some .event
  | 2 => some .width
  | 3 => some .vane
  | _ => none

def ChannelRole.ofCode : Nat → Option ChannelRole
  | 0 => some .noRole
  | 1 => some .precip
  | 2 => some .wind
  | 3 => some .temp
  | 4 => some .vane
  | _ => none

def AutoClose.code : AutoClose → Byte
  | .off => 0
  | .unattendedOnly => 1
  | .always => 2

def AutoClose.ofCode : Nat → Option AutoClose
  | 0 => some .off
  | 1 => some .unattendedOnly
  | 2 => some .always
  | _ => none

/-- 1 ATTENDED, 2 UNATTENDED. -/
def attendedCode (attended : Bool) : Byte := if attended then 1 else 2

/-- A profile switch: 0 off, 1 on. -/
def switchOfCode : Nat → Option Bool
  | 0 => some false
  | 1 => some true
  | _ => none

def ReadoutForm.ofCode : Nat → Option ReadoutForm
  | 1 => some .temp
  | 2 => some .wind
  | 3 => some .both
  | _ => none

def ClosureStyle.ofCode : Nat → Option ClosureStyle
  | 1 => some .full
  | 2 => some .top
  | _ => none

def stringCode (s : StringId) : Byte :=
  match s with
  | .a => 0
  | .b => 1

def stringOfCode : Nat → Option StringId
  | 0 => some .a
  | 1 => some .b
  | _ => none

def StartKind.code : StartKind → Byte
  | .warm => 1
  | .cold => 2

def StartKind.ofCode : Nat → Option StartKind
  | 1 => some .warm
  | 2 => some .cold
  | _ => none

def Layer.code : Layer → Byte
  | .closure => 1
  | .hazard => 2
  | .restriction => 3
  | .base => 4
  | .weather => 5

/-- The claim layer of a slot, 0 for a blank one. -/
def layerCode (l : Option Layer) : Byte :=
  match l with
  | none => 0
  | some l => l.code

end Sys2Proof.Machine
end

