-- ==== Sys2Proof/Config.lean ====
section
/-! DEFINITION. What is fixed in the part: the constants of 00_scope 1.5 and 1.6 that no chapter makes a setting,
and the free values, which the spec leaves open (opaque: nothing can be proved of their value). -/

namespace Sys2Proof.Config

/-- Length of a weather step, in seconds (R21). -/
def stepSeconds : Nat := 600
/-- Step records kept in the history (R45). -/
def historySize : Nat := 36
/-- Records the report buffer holds (R188). -/
def bufferSize : Nat := 32
/-- Records a report frame carries at most, and the number that makes one due (R189). -/
def frameRecords : Nat := 8
/-- Frames the inbound queue holds, and BUSY replies the outbox holds (R182). -/
def queueSize : Nat := 4
/-- Station notices the Notice List holds (R72). -/
def stationNotices : Nat := 24
/-- The last time the Pass Clock counts to (R68). -/
def clockEnd : Nat := 4294967294
/-- The largest body of a station frame (R179). -/
def maxBody : Nat := 240
/-- Gap limit between the bytes of a station frame (R181). -/
def gapLimit : Moment := 50 * usPerMs
/-- Age of the oldest record that makes a report frame due (R189). -/
def reportAge : Moment := 2 * usPerSecond
/-- The panel reply window (R165). -/
def replyWindow : Moment := 250 * usPerMs
/-- Age of a confirmation that makes a refresh due (R171). -/
def refreshAge : Moment := 60 * usPerSecond
/-- Time after the last attempt that makes a panel in FAULT due (R171). -/
def retryAge : Moment := 30 * usPerSecond
/-- The time a settings store write may take (R196). -/
def storeLimit : Moment := 3 * usPerSecond

/-- FREE VALUE (assumption 8): the count of bytes written that the reply to a successful SAVE SETTINGS carries. The
spec gives no layout of the store; applied to the number of the write. -/
opaque storeByteCount : Nat → BitVec 16
/-- FREE VALUE (assumption 8): the check value over the bytes written that the same reply carries. -/
opaque storeCheck : Nat → Check
/-- FREE VALUE (assumption 9): the order choices the part will take from the first start on. -/
opaque scheduleSeed : Nat

end Sys2Proof.Config
end

