-- ==== Sys2Proof/Machine/Factory.lean ====
section
/-! DEFINITION. The factory settings (R198) with the standard texts of 00_scope 1.8, and the cleared Retained Area
(R199). -/

namespace Sys2Proof.Machine

/-- The factory texts of entries 240 to 255 (00_scope 1.8) in the codes of R216. 240 AVALANCHE: AVALANCHE DANGER; 241
SNOW: HEAVY SNOW; 242 WIND: STORM; 243 ICE: ICE; 244 WORKS: ROAD WORKS; 245 EVENT: EVENT; 246 OTHER: CLOSED; 247
closure default: PASS CLOSED; 248 level 1: AVAL. DANGER 1; 249 level 2: AVAL. DANGER 2; 250 level 3: AVAL. DANGER 3;
251 level 4: AVAL. DANGER 4; 252 restriction default: CHAINS REQUIRED; 253 temperature readout: TEMP; 254 wind
readout: WIND; 255 blank-line filler: empty. -/
def factoryStandardTexts : List (List Code) :=
  [
   [1, 22, 1, 12, 1, 14, 3, 8, 5, 0, 4, 1, 14, 7, 5, 18],
   [8, 5, 1, 22, 25, 0, 19, 14, 15, 23],
   [19, 20, 15, 18, 13],
   [9, 3, 5],
   [18, 15, 1, 4, 0, 23, 15, 18, 11, 19],
   [5, 22, 5, 14, 20],
   [3, 12, 15, 19, 5, 4],
   [16, 1, 19, 19, 0, 3, 12, 15, 19, 5, 4],
   [1, 22, 1, 12, 37, 0, 4, 1, 14, 7, 5, 18, 0, 28],
   [1, 22, 1, 12, 37, 0, 4, 1, 14, 7, 5, 18, 0, 29],
   [1, 22, 1, 12, 37, 0, 4, 1, 14, 7, 5, 18, 0, 30],
   [1, 22, 1, 12, 37, 0, 4, 1, 14, 7, 5, 18, 0, 31],
   [3, 8, 1, 9, 14, 19, 0, 18, 5, 17, 21, 9, 18, 5, 4],
   [20, 5, 13, 16],
   [23, 9, 14, 4],
   []
  ]

/-- The factory text table: entries 0 to 239 empty (R141, R198). -/
def factoryTexts : Vector (List Code) 256 :=
  ⟨(List.replicate 240 [] ++ factoryStandardTexts).toArray, by
    rw [List.size_toArray, List.length_append, List.length_replicate]; rfl⟩

/-- The factory calibration set (R198): 20 ms, every channel OFF, tip size 20, air run 700 mm. -/
def factoryCalibration : Calibration where
  debounce := Vector.replicate 16 20
  channels := Vector.replicate 6 ⟨.off, .noRole, 0, 0⟩
  tipSize := 20
  airRun := 700

/-- The factory settings (R198). -/
def factorySettings : Settings where
  calibration := factoryCalibration
  paths := Vector.replicate 12 none
  segments := Vector.replicate 8 none
  gates := Vector.replicate 8 none
  signs := Vector.replicate 16 none
  profiles := Vector.replicate 8 none
  groups := Vector.replicate 8 none
  texts := factoryTexts
  silenceLimit := 300
  autoClose := .off

/-- The figures of a path number that has none (R49, R199). -/
def PathFigures.cleared : PathFigures := ⟨0, 0, none⟩

/-- The Retained Area after it has been cleared (R199); its check does not agree. -/
def Retained.cleared : Retained where
  clock := none
  paths := Vector.replicate 12 PathFigures.cleared
  lastTemp := none
  prevSector := none
  notices := []
  checkHolds := false

end Sys2Proof.Machine
end

