-- ==== Sys2Proof/Machine/State.lean ====
section
/-! DEFINITION. The state of the part, the reasons a step can stop (none), and the state after the first start. -/

namespace Sys2Proof.Machine

/-- The state of the part, block by block (00_scope 1.3). -/
structure State where
  /-- The commands that are waiting, first in first out (the model's interface, assumption 1). -/
  pending : List Instr
  /-- The main supply is within limits and the part has been released (00_scope 1.12, R200). -/
  powered : Bool
  /-- The elapsed-time count (R164, R109, R200), in microseconds. -/
  now : Moment
  field : FieldInterface
  weather : WeatherUnit
  /-- The Retained Area (R199): Pass Clock, path figures, Weather Unit memories, Notice List. -/
  retained : Retained
  /-- The moment at which a SET Pass Clock next counts (R68, R69). -/
  clockNext : Moment
  segments : Vector (Option SegmentState) 8
  gates : Vector (Option GateState) 8
  composer : SignComposer
  strings : StringController
  line : StationLine
  store : SettingsStore
  /-- Kind of the last start (R186, R200). -/
  lastStart : StartKind
  /-- The order choices still to be taken, one bit each, least significant first (the model's own field,
  assumption 9). -/
  schedule : Nat
  deriving DecidableEq, Repr

/-- The part never stops with a fault (INVENTORY.md, Faults): no reason exists. Safe, since nothing is cut off. -/
inductive Fault where
  deriving DecidableEq, Repr

/-- The one reason the host's interface asks for. -/
inductive Refusal where
  /-- Raised by an arm of exec whose command has no meaning yet; no arm is one. Safe: nothing is claimed of it. -/
  | notModelled (mnemonic : String)
  deriving DecidableEq, Repr

/-- The outcome of a command. -/
abbrev Result := Host.Outcome State Fault Refusal

/-- The panel record made for a new or moved sign and at every start (R164). -/
def PanelRecord.fresh : PanelRecord := ⟨.unknown, none, none, none, 0, none, none⟩

/-- A page with every slot transparent (R144). -/
def Page.transparent : Page := ⟨Vector.replicate 2 none, Vector.replicate 3 none⟩

/-- The volatile state while the part is held in reset, before a start gives every block its start state: nothing is
held, every output is off (R6, R163, R194; assumption 19). The input pins, the Retained Area and the saved copy live
on; `schedule` and `clockNext` are carried through. -/
def State.heldInReset (pending : List Instr) (lines : Vector Bool 16) (retained : Retained) (saved : Option Settings)
    (writes : Nat) (clockNext : Moment) (schedule : Nat) (lastStart : StartKind) : State where
  pending := pending
  powered := false
  now := 0
  field := ⟨lines, Vector.replicate 16 ⟨false, none⟩, Vector.replicate 16 false, Vector.replicate 6 .off,
    Vector.replicate 8 .idle⟩
  weather := ⟨0, 0, 0, []⟩
  retained := retained
  clockNext := clockNext
  segments := Vector.replicate 8 none
  gates := Vector.replicate 8 none
  composer := ⟨.noStep, none, Vector.replicate 16 none⟩
  strings := ⟨Vector.replicate 16 none, none, none, [], []⟩
  line := ⟨.hunting, 0, [], none, none, [], .free, [], 0, 0, true⟩
  store := ⟨factorySettings, saved, none, writes⟩
  lastStart := lastStart
  schedule := schedule

/-- The part before its first start: never written store, lost Retained Area, every pin low (assumption 7). -/
def State.neverStarted : State :=
  State.heldInReset [] (Vector.replicate 16 false) Retained.cleared none 0 usPerSecond Config.scheduleSeed .cold

/-- The report the first start queues (R202): cold, by the supply, retained contents invalid, factory settings. -/
def resetReport : Buffered where
  record := ⟨0, none, .restart .cold .supply (some .retainedInvalid) true 0 0 0 0 0⟩
  queuedAt := 0
  inFrame := false

/-- The part right after reset: its first start has just been taken (R200), which is cold and loads the factory
settings, since neither the Retained Area nor the store has ever been written (R198, R199; assumption 7). -/
def State.reset : State :=
  { State.neverStarted with
    powered := true
    retained := { Retained.cleared with checkHolds := true }
    line := { State.neverStarted.line with buffer := [resetReport], nextSequence := 1 } }

end Sys2Proof.Machine
end

