-- ==== Sys2Proof/Machine/Tables.lean ====
section
/-! DEFINITION. Tables numbered from 1 (00_scope 1.8): reading and writing one item of a fixed table, and the
ascending numbers of a table. Every read and write of a table of the part goes through these. -/

namespace Sys2Proof.Machine

/-- The numbers 1 to n, ascending. -/
def numbers (n : Nat) : List Nat := List.range' 1 n

/-- Item `k` of a table numbered from 1. -/
def itemAt {α : Type} {n : Nat} (v : Vector α n) (k : Nat) : Option α :=
  if k = 0 then none else v[k - 1]?

/-- The table with item `k` replaced; a number outside the table changes nothing. -/
def putItem {α : Type} {n : Nat} (v : Vector α n) (k : Nat) (x : α) : Vector α n :=
  if k = 0 then v else v.setIfInBounds (k - 1) x

/-- The record of number `k`, where one is defined. -/
def lookup {α : Type} {n : Nat} (v : Vector (Option α) n) (k : Nat) : Option α := (itemAt v k).join

/-- The numbers that have a record, ascending. -/
def defined {α : Type} {n : Nat} (v : Vector (Option α) n) : List Nat :=
  (numbers n).filter fun k => (lookup v k).isSome

/-- The records with their numbers, ascending. -/
def entries {α : Type} {n : Nat} (v : Vector (Option α) n) : List (Nat × α) :=
  (numbers n).filterMap fun k => (lookup v k).map fun r => (k, r)

/-- The level of output or input `k` in a table of levels; a number outside it reads low. -/
def levelAt {n : Nat} (v : Vector Bool n) (k : Nat) : Bool := (itemAt v k).getD false

end Sys2Proof.Machine
end

