-- ==== Sys2Proof/Machine/Ops.lean ====
section
/-! DEFINITION. Operations every block uses: the check value, the elapsed-time count, queueing a report record,
free order choices, and the views one block takes of another (entry gates, announcing signs, threatening paths,
governing notices, closure in force). -/

namespace Sys2Proof.Machine

/-! ## The check value (R203) -/

/-- One shift of the check register. -/
def checkShift (r : Check) : Check := if r.msb then (r <<< 1) ^^^ 0x1021 else r <<< 1

/-- One byte taken into the check register: into the upper eight bits, then eight shifts. -/
def checkByte (r : Check) (b : Byte) : Check :=
  checkShift (checkShift (checkShift (checkShift (checkShift (checkShift (checkShift (checkShift
    (r ^^^ (b.setWidth 16 <<< 8)))))))))

/-- The check value over bytes in the order sent. -/
def checkValue (bs : List Byte) : Check := bs.foldl checkByte 0xFFFF

/-! ## The elapsed-time count -/

/-- The count read in whole seconds (R109). -/
def State.seconds (s : State) : Nat := s.now / usPerSecond

/-- Time passes to the moment of the command; it never runs back (assumption 1). -/
def State.elapse (t : Moment) (s : State) : State := { s with now := max s.now t }

/-- The time since a moment, both read from the count held to the millisecond (R164; chapter 9, whose every moment is
such a reading). -/
def State.msSince (s : State) (m : Moment) : Moment := (s.now / usPerMs - m / usPerMs) * usPerMs

/-- The silence timer, in whole seconds since the last valid frame (R191). -/
def State.silence (s : State) : Nat := s.msSince s.line.lastValid / usPerSecond

/-! ## Updates of one block -/

def State.withField (x : FieldInterface) (s : State) : State := { s with field := x }
def State.withWeather (x : WeatherUnit) (s : State) : State := { s with weather := x }
def State.withRetained (x : Retained) (s : State) : State := { s with retained := x }
def State.withSegments (x : Vector (Option SegmentState) 8) (s : State) : State := { s with segments := x }
def State.withGates (x : Vector (Option GateState) 8) (s : State) : State := { s with gates := x }
def State.withComposer (x : SignComposer) (s : State) : State := { s with composer := x }
def State.withStrings (x : StringController) (s : State) : State := { s with strings := x }
def State.withLine (x : StationLine) (s : State) : State := { s with line := x }
def State.withStore (x : SettingsStore) (s : State) : State := { s with store := x }
def State.withSchedule (x : Nat) (s : State) : State := { s with schedule := x }

/-- The working settings (R195). -/
def State.settings (s : State) : Settings := s.store.working

/-- The working settings replaced. -/
def State.withSettings (x : Settings) (s : State) : State := s.withStore { s.store with working := x }

/-! ## Reports (R187, R188) -/

/-- The weather class (section 9.5): STEP records; every other record is of the safety class. -/
def ReportBody.isWeather : ReportBody → Bool
  | .step .. => true
  | .level .. => false
  | .notice .. => false
  | .segment .. => false
  | .gate .. => false
  | .sign .. => false
  | .linkUnattended .. => false
  | .linkAttended .. => false
  | .restart .. => false

/-- Whether a record in the buffer is a weather record. -/
def Buffered.isWeather (r : Buffered) : Bool := r.record.body.isWeather

/-- The buffer with one record discarded: the oldest weather record if there is one, otherwise the oldest (R188). -/
def discardOne (buffer : List Buffered) : List Buffered :=
  if buffer.any Buffered.isWeather then buffer.eraseP Buffered.isWeather else buffer.drop 1

/-- A record joins the buffer at its newest end, one being discarded first when it is full (R188). -/
def joinBuffer (buffer : List Buffered) (r : Buffered) : List Buffered :=
  (if buffer.length < Config.bufferSize then buffer else discardOne buffer) ++ [r]

/-- Queue a report record (R187, R188). -/
def State.report (b : ReportBody) (s : State) : State :=
  s.withLine { s.line with
    buffer := joinBuffer s.line.buffer ⟨⟨s.line.nextSequence, s.retained.clock, b⟩, s.now, false⟩
    nextSequence := (s.line.nextSequence + 1) % 65536 }

/-- Queue report records in order. -/
def State.reports (bs : List ReportBody) (s : State) : State := bs.foldl (fun s b => s.report b) s

/-! ## Free order choices (assumptions 9, 10) -/

/-- The next order choice. -/
def State.nextChoice (s : State) : Bool := s.schedule % 2 == 1

/-- The state after an order choice has been taken. -/
def State.choiceTaken (s : State) : State := s.withSchedule (s.schedule / 2)

/-! ## Notices: list order (R72) and governing notices (R80) -/

/-- A time as a place in an order in which "unset" is earlier than every time. -/
def timeKey (t : Option Nat) : Nat :=
  match t with
  | none => 0
  | some t => t + 1

/-- Effective start (R72): the activation time of an ACTIVE record, the start of a PENDING one. -/
def Notice.effectiveKey (n : Notice) : Nat :=
  match n.state with
  | .active since => timeKey since
  | .pending => timeKey n.startTime

/-- List order: effective start, then number (R72). -/
def Notice.precedes (a b : Notice) : Bool :=
  a.effectiveKey < b.effectiveKey || (a.effectiveKey == b.effectiveKey && a.number < b.number)

/-- Whether the record is ACTIVE. -/
def Notice.isActive (n : Notice) : Bool :=
  match n.state with
  | .active _ => true
  | .pending => false

/-- Whether a record is a candidate to govern a segment in a kind (R80). -/
def Notice.covers (kind : NoticeKind) (segment : Nat) (n : Notice) : Bool :=
  n.isActive && n.kind == kind && n.segments.contains segment

/-- The first of some records in list order. -/
def earliest : List Notice → Option Notice
  | [] => none
  | n :: rest =>
    match earliest rest with
    | none => some n
    | some m => if m.precedes n then some m else some n

/-- The governing notice of a segment in a kind, from the list as it stands (R80). -/
def State.governing (s : State) (kind : NoticeKind) (segment : Nat) : Option Notice :=
  earliest (s.retained.notices.filter (Notice.covers kind segment))

/-! ## Views of the records -/

/-- The entry gates of a segment, ascending (R88). -/
def Settings.entryGates (c : Settings) (segment : Nat) : List Nat :=
  (numbers 8).filter fun k =>
    match lookup c.gates k with
    | some r => r.segment == segment
    | none => false

/-- The signs that announce one of some segments, ascending (R88, R159). -/
def Settings.announcing (c : Settings) (segments : List Nat) : List Nat :=
  (numbers 16).filter fun k =>
    match lookup c.signs k with
    | some r => r.segments.any segments.contains
    | none => false

/-- The gates that name a sign as an approach sign, ascending: the order in which they are told of the sign (R105, R114).
That QUERY SIGN lists them in this order is the model's choice (assumption 32). -/
def Settings.approached (c : Settings) (sign : Nat) : List Nat :=
  (numbers 8).filter fun k =>
    match lookup c.gates k with
    | some r => r.approach.contains sign
    | none => false

/-- The paths that threaten one of some segments, ascending (R88). -/
def Settings.threatening (c : Settings) (segments : List Nat) : List Nat :=
  (numbers 12).filter fun k =>
    match lookup c.paths k with
    | some r => r.segments.any segments.contains
    | none => false

/-- Effective level (R60): the larger of L and the floor level. -/
def PathFigures.effective (f : PathFigures) : Nat :=
  match f.floor with
  | none => f.level
  | some fl => max f.level fl.level

/-- The retained figures of a path number. -/
def State.figures (s : State) (path : Nat) : PathFigures := (itemAt s.retained.paths path).getD ⟨0, 0, none⟩

/-- The largest effective level among the paths that threaten one of some segments, 0 when there is none (R91, R150). -/
def State.highest (s : State) (segments : List Nat) : Nat :=
  (s.settings.threatening segments).foldl (fun m k => max m (s.figures k).effective) 0

/-- Closure in force of a segment as the Segment Evaluator holds it (R89, R96). -/
def State.cif (s : State) (segment : Nat) : Bool :=
  match lookup s.segments segment with
  | some g => g.closure.isSome
  | none => false

/-- The accepted level of an input (R1); an input that is not named reads low. -/
def State.accepted (s : State) (line : Nat) : Bool :=
  match itemAt s.field.inputs line with
  | some i => i.accepted
  | none => false

/-- Whether a gate's clear-zone timer is running (R15). -/
def State.zoneRunning (s : State) (gate : Nat) : Bool :=
  match itemAt s.field.clearZones gate with
  | some .idle => false
  | some .occupied => true
  | some (.holding _) => true
  | none => false

/-- The distinct numbers of a list that lie in 1 to n, ascending. -/
def ascending (n : Nat) (ks : List Nat) : List Nat := (numbers n).filter ks.contains

end Sys2Proof.Machine
end

