-- ==== Sys2Proof/Machine/Frames.lean ====
section
/-! DEFINITION. The frames the part sends, byte by byte: replies, report frames and IMAGE frames (R204, R210, R211).
The part sends these bytes; no state depends on them but the check and the identity a panel echoes. -/

namespace Sys2Proof.Machine

/-! ## Station frames (R204) -/

/-- A station frame with a kind and a body. -/
def stationFrame (kind : Byte) (body : List Byte) : List Byte :=
  let covered := byte body.length :: kind :: body
  0xA5 :: (covered ++ checkBytes (checkValue covered))

/-- Kind of the reply frame that carries an answer (R185, R213). -/
def Answer.kind : Answer → Byte
  | .done _ => kindDone
  | .refused _ _ => kindRefused

/-- The body of a reply frame (R204). -/
def Reply.body (r : Reply) : List Byte :=
  match r.answer with
  | .done result => r.tag :: r.kind :: result
  | .refused code sub => [r.tag, r.kind, code.code, sub.code]

/-- The frame of a reply (R185, R204). -/
def Reply.frame (r : Reply) : List Byte := stationFrame r.answer.kind r.body

/-! ## Report frames (R210) -/

/-- The flags byte of a step (R210). -/
def StepFlags.toByte (f : StepFlags) : Byte :=
  BitVec.ofNat 8 (f.noPrecip.toNat + 2 * f.tHeld.toNat + 4 * f.tFault.toNat + 8 * f.vane.toNat + 16 * f.pClamp.toNat +
    32 * f.uClamp.toNat + 64 * f.hClamp.toNat)

/-- A segment state, 0 for UNDEFINED (R215). -/
def roadCode (r : Option RoadState) : Byte :=
  match r with
  | none => 0
  | some r => r.code

/-- A gate state, 0 for UNDEFINED (R215). -/
def gateCode (g : Option GatePosition) : Byte :=
  match g with
  | none => 0
  | some g => g.code

/-- The stop cause of a gate state, 0 for none (R215). -/
def gateStopCode (g : Option GatePosition) : Byte :=
  match g with
  | none => 0
  | some g => g.stopCode

/-- Event, detail, image kept, identity and closure segment of a SIGN record (R210). -/
def SignEvent.bytes : SignEvent → List Byte
  | .enteredFault failure kept => [1, failureCode failure, flagByte kept, 0, 0, 0]
  | .confirmed identity closureSegment => 2 :: 1 :: 0 :: (checkBytes identity ++ [byte (closureSegment.getD 0)])
  | .moved => [2, 2, 0, 0, 0, 0]
  | .removed => [2, 3, 0, 0, 0, 0]

/-- Code of a cold reason, 0 for a warm start (R210). -/
def coldCode (c : Option ColdReason) : Byte :=
  match c with
  | none => 0
  | some .requested => 1
  | some .retainedInvalid => 2

/-- Code of the cause of a start (R210). -/
def StartCause.code : StartCause → Byte
  | .supply => 1
  | .request => 2

/-- The kind code of a report record (R210). -/
def ReportBody.code : ReportBody → Byte
  | .step .. => 1
  | .level .. => 2
  | .notice .. => 3
  | .segment .. => 4
  | .gate .. => 5
  | .sign .. => 6
  | .linkUnattended .. => 7
  | .linkAttended .. => 7
  | .restart .. => 8

/-- The fields of a report record after its header (R210). -/
def ReportBody.fields : ReportBody → List Byte
  | .step number p t tState u sector flags =>
    word number ++ word p ++ tempBytes t ++ [tState.code] ++ word u ++ [sectorByte sector, flags.toByte]
  | .level path before after h => [byte path, byte before, byte after] ++ word h
  | .notice number event kind origin => word number ++ [event.code, kind.code, origin.code]
  | .segment k before after hmax closure =>
    [byte k, roadCode before, roadCode after, byte hmax] ++ word (closure.getD 0)
  | .gate k before after reversals cause =>
    [byte k, gateCode before, gateCode after, gateStopCode after, byte reversals, cause.code]
  | .sign k string address event => [byte k, stringCode string, byte address] ++ event.bytes
  | .linkUnattended limit => 1 :: long limit
  | .linkAttended silence => 2 :: long silence
  | .restart kind cause coldReason factory paths segments gates signs notices =>
    [kind.code, cause.code, coldCode coldReason, if factory then 2 else 1, byte paths, byte segments, byte gates,
     byte signs, byte notices]

/-- A report record (R210). -/
def ReportRecord.bytes (r : ReportRecord) : List Byte :=
  r.body.code :: (word r.sequence ++ timeBytes r.clock ++ r.body.fields)

/-- A report frame (R210). -/
def reportFrame (records : List ReportRecord) : List Byte :=
  stationFrame kindReport (byte records.length :: records.flatMap ReportRecord.bytes)

/-- The frame the transmitter is sending (R189, R190). -/
def StationLine.sending (l : StationLine) : List Byte :=
  match l.transmitter with
  | .free => []
  | .sendingReply =>
    match l.outbox with
    | [] => []
    | r :: _ => r.frame
  | .sendingReports records => reportFrame records

/-! ## String frames (R211) -/

/-- A string frame with a kind, a panel address and a body. -/
def stringFrame (kind address : Byte) (body : List Byte) : List Byte :=
  let covered := byte (body.length + 2) :: kind :: address :: body
  0x5A :: (covered ++ checkBytes (checkValue covered))

/-- The body of an IMAGE frame (R165, R211): cell count, line count and line length are those of the image's slots,
which are the sign's (assumption 29). -/
def Image.body (i : Image) : List Byte :=
  checkBytes i.identity ++
    [byte i.cells.length, byte i.lines.length, byte (i.lines.headD []).length] ++
    i.cells.map byte ++ i.lines.flatten.map fun c => byte c.val

/-- The IMAGE frame of an attempt (R165, R211). -/
def Attempt.frame (a : Attempt) : List Byte := stringFrame 0x01 (byte a.address) a.sent.body

/-- The SHOWN frame a panel answers an identity with (R211). -/
def shownFrame (address : Byte) (identity : Check) : List Byte := stringFrame 0x02 address (checkBytes identity)

/-- Whether a string's driver enable is asserted (R212). -/
def driverEnabled (a : Option Attempt) : Bool :=
  match a with
  | none => false
  | some a =>
    match a.phase with
    | .sendingFrame => true
    | .waiting _ _ => false

end Sys2Proof.Machine
end

