-- ==== Sys2Proof/Machine/Operands.lean ====
section
/-! DEFINITION. Operand forms: reading the fields of a request body into records, and writing records back as the
queries return them (R205 to R209). Offsets count from the first byte after the tag. -/

namespace Sys2Proof.Machine

/-! ## Range checks -/

/-- Whether a number lies in a range, both ends included. -/
def within (low high n : Nat) : Bool := decide (low ≤ n) && decide (n ≤ high)

/-- Whether every number of a list lies in a range. -/
def allWithin (low high : Nat) (ns : List Nat) : Bool := ns.all (within low high)

/-- Whether a list of numbers names none twice. -/
def distinct (ns : List Nat) : Bool := decide ns.Nodup

/-! ## Paths (R48, R205) -/

/-- The path record of a DEFINE PATH body of 22 bytes. -/
def pathOf (f : List Byte) : PathRecord where
  nameEntry := byteAt f 1
  lee := f.getD 2 0
  snow := byteAt f 3
  wind := byteAt f 4
  warming := byteAt f 5
  settling := byteAt f 6
  t1 := wordAt f 7
  t2 := wordAt f 9
  t3 := wordAt f 11
  t4 := wordAt f 13
  band := wordAt f 15
  segments := bytesAt f 18 (min (byteAt f 17) 4)

/-- The fields of DEFINE PATH for a record. -/
def pathBytes (number : Nat) (r : PathRecord) : List Byte :=
  [byte number, byte r.nameEntry, r.lee, byte r.snow, byte r.wind, byte r.warming, byte r.settling] ++ word r.t1 ++
    word r.t2 ++ word r.t3 ++ word r.t4 ++ word r.band ++ [byte r.segments.length] ++ filled 4 r.segments

/-- Whether every field of a path record lies in its range (R48, R50). -/
def PathRecord.inRange (r : PathRecord) : Bool :=
  allWithin 0 200 [r.snow, r.wind, r.warming] && within 0 100 r.settling &&
    allWithin 1 10000 [r.t1, r.t2, r.t3, r.t4] && decide (r.t1 < r.t2) && decide (r.t2 < r.t3) && decide (r.t3 < r.t4) &&
    within 0 2000 r.band && decide (r.band < r.t1) && allWithin 1 8 r.segments && distinct r.segments

/-! ## Segments (R88, R205) -/

/-- The segment record of a DEFINE SEGMENT body of 4 bytes. -/
def segmentOf (f : List Byte) : SegmentRecord := ⟨byteAt f 1, byteAt f 2, byteAt f 3⟩

/-- The fields of DEFINE SEGMENT for a record. -/
def segmentBytes (number : Nat) (r : SegmentRecord) : List Byte :=
  [byte number, byte r.nameEntry, byte r.caution, byte r.permit]

/-- Whether every field of a segment record lies in its range (R99). -/
def SegmentRecord.inRange (r : SegmentRecord) : Bool :=
  within 1 4 r.caution && within 1 4 r.permit && decide (r.caution ≤ r.permit)

/-! ## Gates (R105, R208) -/

/-- The gate record of a DEFINE GATE body of 17 bytes. -/
def gateOf (f : List Byte) : GateRecord where
  segment := byteAt f 1
  warnHold := wordAt f 2
  travel := byteAt f 4
  clearHold := byteAt f 5
  upSwitch := byteAt f 6
  downSwitch := byteAt f 7
  presence := byteAt f 8
  key := byteAt f 9
  lower := byteAt f 10
  raise := byteAt f 11
  flasher := byteAt f 12
  approach := bytesAt f 14 (min (byteAt f 13) 3)

/-- The fields of DEFINE GATE for a record. -/
def gateBytes (number : Nat) (r : GateRecord) : List Byte :=
  [byte number, byte r.segment] ++ word r.warnHold ++
    [byte r.travel, byte r.clearHold, byte r.upSwitch, byte r.downSwitch, byte r.presence, byte r.key, byte r.lower,
     byte r.raise, byte r.flasher, byte r.approach.length] ++ filled 3 r.approach

/-- Whether every field of a gate record lies in its range (R19, R105, R106). -/
def GateRecord.inRange (r : GateRecord) : Bool :=
  within 1 8 r.segment && within 30 600 r.warnHold && within 5 120 r.travel && within 2 30 r.clearHold &&
    allWithin 1 16 [r.upSwitch, r.downSwitch, r.lower, r.raise, r.flasher] &&
    allWithin 0 16 [r.presence, r.key] && allWithin 1 16 r.approach && distinct r.approach

/-! ## Signs, profiles, groups (R134, R138, R140, R205) -/

/-- The sign record of a DEFINE SIGN body with its segments; `none` where the string byte names no string. -/
def signOf (f : List Byte) : Option SignRecord :=
  (stringOfCode (byteAt f 1)).map fun x =>
    ⟨x, byteAt f 2, byteAt f 3, byteAt f 4, byteAt f 5, byteAt f 6, bytesAt f 8 (byteAt f 7)⟩

/-- The fields of DEFINE SIGN for a record. -/
def signBytes (number : Nat) (r : SignRecord) : List Byte :=
  [byte number, stringCode r.string, byte r.address, byte r.cells, byte r.lines, byte r.lineLength, byte r.profile,
   byte r.segments.length] ++ r.segments.map byte

/-- Whether every field of a sign record lies in its range (R134, R135). -/
def SignRecord.inRange (r : SignRecord) : Bool :=
  within 1 8 r.address && within 0 2 r.cells && within 1 3 r.lines && within 8 20 r.lineLength &&
    within 1 8 r.profile && within 1 4 r.segments.length && allWithin 1 8 r.segments && distinct r.segments

/-- The profile record of a DEFINE PROFILE body of 8 bytes; `none` where a field is not one of its values (R138). -/
def profileOf (f : List Byte) : Option ProfileRecord :=
  match switchOfCode (byteAt f 1), switchOfCode (byteAt f 3), switchOfCode (byteAt f 4), switchOfCode (byteAt f 5),
      ReadoutForm.ofCode (byteAt f 6), ClosureStyle.ofCode (byteAt f 7) with
  | some hazard, some restriction, some base, some weather, some form, some style =>
    if within 1 4 (byteAt f 2) then some ⟨hazard, byteAt f 2, restriction, base, weather, form, style⟩ else none
  | _, _, _, _, _, _ => none

/-! ## Calibration (R18, R205) -/

/-- The mode a role requires (section 1.3 of chapter 1). -/
def ChannelRole.mode : ChannelRole → ChannelMode
  | .precip => .event
  | .wind => .event
  | .temp => .width
  | .vane => .vane
  | .noRole => .off

/-- Channel `i` (0 to 5) of a CALIBRATE body; `none` where mode or role is not one of its values. -/
def channelOf (f : List Byte) (i : Nat) : Option ChannelConfig :=
  match ChannelMode.ofCode (byteAt f (16 + 4 * i)), ChannelRole.ofCode (byteAt f (17 + 4 * i)) with
  | some mode, some role => some ⟨mode, role, byteAt f (18 + 4 * i), byteAt f (19 + 4 * i)⟩
  | _, _ => none

/-- Whether a channel's lines fit its mode and its mode its role (R18). -/
def ChannelConfig.inRange (c : ChannelConfig) : Bool :=
  decide (c.mode = c.role.mode) &&
    (match c.mode with
    | .off => c.source == 0 && c.vaneOk == 0
    | .event => within 1 16 c.source && c.vaneOk == 0
    | .width => within 1 16 c.source && c.vaneOk == 0
    | .vane => within 1 14 c.source && within 0 16 c.vaneOk)

/-- The calibration set of a CALIBRATE body of 43 bytes; `none` where a mode or role is not one of its values. -/
def calibrationOf (f : List Byte) : Option Calibration :=
  match channelOf f 0, channelOf f 1, channelOf f 2, channelOf f 3, channelOf f 4, channelOf f 5 with
  | some a, some b, some c, some d, some e, some g =>
    some
      { debounce := Vector.ofFn fun (i : Fin 16) => byteAt f i.val
        channels := #v[a, b, c, d, e, g]
        tipSize := byteAt f 40
        airRun := wordAt f 41 }
  | _, _, _, _, _, _ => none

/-- Whether every field of a calibration set lies in its range (R18). -/
def Calibration.inRange (c : Calibration) : Bool :=
  c.debounce.all (within 5 200) && c.channels.all ChannelConfig.inRange && within 10 100 c.tipSize &&
    within 100 2000 c.airRun

/-! ## Notices (R206) -/

/-- The fields of a NOTICE POST body as they stand, before any range check. -/
structure PostedNotice where
  number : Nat
  kind : Nat
  reason : Nat
  startTime : Option Nat
  endTime : Option Nat
  text : Option Nat
  segments : List Nat
  deriving DecidableEq, Repr

/-- The fields of a NOTICE POST body; `none` where marker, count and size do not fit (R206). -/
def postedOf (f : List Byte) : Option PostedNotice :=
  let marker := f.getD 4 0
  let startSize := if marker.getLsbD 0 then 4 else 0
  let endSize := if marker.getLsbD 1 then 4 else 0
  let textSize := if marker.getLsbD 2 then 1 else 0
  let count := 5 + startSize + endSize + textSize
  if f.length ≤ count || 8 ≤ marker.toNat || f.length ≠ count + 1 + byteAt f count then none
  else some
    { number := wordAt f 0
      kind := byteAt f 2
      reason := byteAt f 3
      startTime := if marker.getLsbD 0 then some (longAt f 5) else none
      endTime := if marker.getLsbD 1 then some (longAt f (5 + startSize)) else none
      text := if marker.getLsbD 2 then some (byteAt f (5 + startSize + endSize)) else none
      segments := bytesAt f (count + 1) (byteAt f count) }

/-- A notice record as QUERY NOTICES returns it (R209). -/
def noticeBytes (n : Notice) : List Byte :=
  word n.number ++ [n.kind.code, byte n.reason.index] ++ timeBytes n.startTime ++ timeBytes n.endTime ++
    [flagByte n.text.isSome, byte (n.text.getD 0), n.origin.code, n.state.code] ++
    timeBytes (match n.state with
      | .active since => since
      | .pending => none) ++
    [byte n.segments.length] ++ filled 8 n.segments

/-! ## Texts (R142, R143) -/

/-- The texts of a TEXT LOAD body after its count; `none` where the lengths do not add up to the size (R142). -/
def textsOf : Nat → List Byte → Option (List (List Byte))
  | 0, [] => some []
  | 0, _ :: _ => none
  | _ + 1, [] => none
  | n + 1, b :: rest =>
    if rest.length < b.toNat then none
    else (textsOf n (rest.drop b.toNat)).map fun ts => rest.take b.toNat :: ts

/-- Whether a text fits an entry: at most 20 codes, each at most 63 (R141, R142). -/
def textFits (t : List Byte) : Bool := decide (t.length ≤ 20) && t.all fun b => decide (b.toNat ≤ 63)

/-- A text entry as QUERY TEXT returns it. -/
def textBytes (t : List Code) : List Byte := byte t.length :: t.map fun c => byte c.val

/-! ## Pages (R144, R207) -/

/-- One slot entry of PAGE WRITE (R207). -/
inductive SlotEntry where
  | transparent
  | pictogram (number : Nat)
  | text (entry : Nat)
  deriving DecidableEq, Repr

/-- The slot entry at an offset; `none` where the entry kind is not one of the three (R145, R207). -/
def slotOf (f : List Byte) (i : Nat) : Option SlotEntry :=
  match byteAt f i with
  | 0 => some .transparent
  | 1 => some (.pictogram (byteAt f (i + 1)))
  | 2 => some (.text (byteAt f (i + 1)))
  | _ => none

/-- What a slot entry gives a cell; `none` where it does not fit one (R145). -/
def SlotEntry.asCell : SlotEntry → Option (Option Nat)
  | .transparent => some none
  | .pictogram n => if n ≤ 31 then some (some n) else none
  | .text _ => none

/-- What a slot entry gives a line; `none` where it does not fit one (R145). -/
def SlotEntry.asLine : SlotEntry → Option (Option Nat)
  | .transparent => some none
  | .pictogram _ => none
  | .text n => some (some n)

/-- The page of a PAGE WRITE body of 12 bytes; `none` where an entry does not fit its slot (R145). -/
def pageOf (f : List Byte) : Option Page :=
  match (slotOf f 2).bind SlotEntry.asCell, (slotOf f 4).bind SlotEntry.asCell, (slotOf f 6).bind SlotEntry.asLine,
      (slotOf f 8).bind SlotEntry.asLine, (slotOf f 10).bind SlotEntry.asLine with
  | some p1, some p2, some l1, some l2, some l3 => some ⟨#v[p1, p2], #v[l1, l2, l3]⟩
  | _, _, _, _, _ => none

/-- A cell slot as QUERY SIGN returns it. -/
def cellSlotBytes (slot : Option Nat) : List Byte :=
  match slot with
  | none => [0, 0]
  | some n => [1, byte n]

/-- A line slot as QUERY SIGN returns it. -/
def lineSlotBytes (slot : Option Nat) : List Byte :=
  match slot with
  | none => [0, 0]
  | some n => [2, byte n]

/-- A page as QUERY SIGN returns it. -/
def pageBytes (p : Page) : List Byte := p.cells.toList.flatMap cellSlotBytes ++ p.lines.toList.flatMap lineSlotBytes

/-- The target of PAGE WRITE and PAGE SWAP (R145, R146). -/
inductive PageTarget where
  | sign (number : Nat)
  | group (number : Nat)
  deriving DecidableEq, Repr

/-- The target of a page request; `none` where its kind or number is out of range. -/
def targetOf (f : List Byte) : Option PageTarget :=
  match byteAt f 0 with
  | 0 => if within 1 16 (byteAt f 1) then some (.sign (byteAt f 1)) else none
  | 1 => if within 1 8 (byteAt f 1) then some (.group (byteAt f 1)) else none
  | _ => none

end Sys2Proof.Machine
end

