-- ==== Sys2Proof/Machine/Compose.lean ====
section
/-! DEFINITION. Composing a sign's image from the five layers (R147 to R158). -/

namespace Sys2Proof.Machine

/-! ## Claiming slots -/

/-- Claim slot `i` if no earlier layer has (R147). -/
def claimAt {α : Type} (i : Nat) (x : α) (slots : List (Option α)) : List (Option α) :=
  match slots, i with
  | [], _ => []
  | none :: rest, 0 => some x :: rest
  | some y :: rest, 0 => some y :: rest
  | slot :: rest, i + 1 => slot :: claimAt i x rest

/-- Claim the first unclaimed slot, if there is one (R150). -/
def claimFirst {α : Type} (x : α) (slots : List (Option α)) : List (Option α) :=
  match slots with
  | [] => []
  | none :: rest => some x :: rest
  | some y :: rest => some y :: claimFirst x rest

/-- The slots of a sign as claimed so far: cells with their pictogram, lines with their source. -/
structure Draft where
  cells : List (Option (Layer × Nat))
  lines : List (Option (Layer × LineSource))
  deriving DecidableEq, Repr

/-- All slots of a sign unclaimed (R147). -/
def Draft.empty (r : SignRecord) : Draft := ⟨List.replicate r.cells none, List.replicate r.lines none⟩

/-- A cell and a line claimed independently, each the first unclaimed (R150, R151). -/
def Draft.claimPair (d : Draft) (layer : Layer) (pictogram entry : Nat) : Draft :=
  ⟨claimFirst (layer, pictogram) d.cells, claimFirst (layer, .entry entry) d.lines⟩

/-! ## The layers -/

/-- The guarded segments of the gates that name a sign as approach sign and stand in a state (R148). -/
def State.guardedBy (s : State) (sign : Nat) (position : GatePosition) : List Nat :=
  (s.settings.approached sign).filterMap fun k =>
    match lookup s.settings.gates k, lookup s.gates k with
    | some r, some g => if g.position = position then some r.segment else none
    | _, _ => none

/-- Whether a segment's state is CLOSING or CLOSED. -/
def State.isClosing (s : State) (segment : Nat) : Bool :=
  match lookup s.segments segment with
  | some g => g.state == .closing || g.state == .closed
  | none => false

/-- The closure segment of a sign, in three rounds (R148). -/
def State.closureSegment (s : State) (sign : Nat) (r : SignRecord) : Option Nat :=
  match (s.guardedBy sign .warning).min? with
  | some k => some k
  | none =>
    match (s.guardedBy sign .lowering).min? with
    | some k => some k
    | none => (r.segments.filter s.isClosing).min?

/-- Entry of the closure layer's first line (R149). -/
def closureText (governing : Option Notice) : Nat :=
  match governing with
  | some n => if n.origin = .station then n.text.getD 247 else 247
  | none => 247

/-- Entry of the closure layer's third line (R149). -/
def reasonText (governing : Option Notice) : Nat :=
  match governing with
  | some n => 240 + n.reason.index
  | none => 246

/-- The name entry of a segment; 0 where it is not defined, which no closure segment is. -/
def Settings.segmentName (c : Settings) (segment : Nat) : Nat :=
  match lookup c.segments segment with
  | some r => r.nameEntry
  | none => 0

/-- The closure layer acting for a segment (R149). -/
def closureLayer (s : State) (style : ClosureStyle) (segment : Option Nat) (d : Draft) : Draft :=
  match segment with
  | none => d
  | some k =>
    let g := s.governing .closure k
    let top : Draft :=
      ⟨claimAt 0 (.closure, 1) d.cells, claimAt 0 (.closure, .entry (closureText g)) d.lines⟩
    match style with
    | .top => top
    | .full =>
      ⟨claimAt 1 (.closure, 0) top.cells,
       claimAt 2 (.closure, .entry (reasonText g))
         (claimAt 1 (.closure, .entry (s.settings.segmentName k)) top.lines)⟩

/-- The hazard layer (R150). -/
def hazardLayer (s : State) (p : ProfileRecord) (r : SignRecord) (d : Draft) : Draft :=
  let hx := s.highest r.segments
  if p.hazard && p.showLevel ≤ hx && 0 < hx then d.claimPair .hazard 2 (247 + hx) else d

/-- The restriction that the restriction layer shows: that of the lowest-numbered announced segment which has one
(R151). -/
def State.shownRestriction (s : State) (r : SignRecord) : Option Notice :=
  match (r.segments.filter fun k => (s.governing .restriction k).isSome).min? with
  | some k => s.governing .restriction k
  | none => none

/-- The restriction layer (R151). -/
def restrictionLayer (s : State) (p : ProfileRecord) (r : SignRecord) (d : Draft) : Draft :=
  if p.restriction then
    match s.shownRestriction r with
    | some n => d.claimPair .restriction 3 (n.text.getD 252)
    | none => d
  else d

/-- Claim slot by slot what a page holds (R152). -/
def claimPage {α β : Type} (f : α → β) (contents : List (Option α)) (slots : List (Option β)) : List (Option β) :=
  match slots, contents with
  | [], _ => []
  | slots, [] => slots
  | none :: rest, c :: cs => c.map f :: claimPage f cs rest
  | some y :: rest, _ :: cs => some y :: claimPage f cs rest

/-- The base layer (R152). -/
def baseLayer (p : ProfileRecord) (front : Page) (d : Draft) : Draft :=
  if p.base then
    ⟨claimPage (fun n => (.base, n)) front.cells.toList d.cells,
     claimPage (fun n => (.base, .entry n)) front.lines.toList d.lines⟩
  else d

/-- The readouts of a readout form, in order (R153). -/
def ReadoutForm.readouts : ReadoutForm → List LineSource
  | .temp => [.temperature]
  | .wind => [.wind]
  | .both => [.temperature, .wind]

/-- The weather layer (R153). -/
def weatherLayer (p : ProfileRecord) (d : Draft) : Draft :=
  if p.weather then ⟨d.cells, p.form.readouts.foldl (fun ls r => claimFirst (.weather, r) ls) d.lines⟩ else d

/-- The profile a sign follows. A sign's profile is always defined (R135, R139); were it not, every layer with a
switch would be off. -/
def Settings.profileOf (c : Settings) (r : SignRecord) : ProfileRecord :=
  (lookup c.profiles r.profile).getD ⟨false, 1, false, false, false, .both, .full⟩

/-- The five layers in their order (R147). -/
def State.draft (s : State) (sign : Nat) (r : SignRecord) (front : Page) : Draft :=
  let p := s.settings.profileOf r
  weatherLayer p (baseLayer p front (restrictionLayer s p r (hazardLayer s p r
    (closureLayer s p.style (s.closureSegment sign r) (Draft.empty r)))))

/-! ## Texts (R155 to R157, R216) -/

/-- The code of a decimal digit. -/
def digitCode (d : Nat) : Code := Fin.ofNat 64 (27 + d % 10)

/-- A number below 1000 in decimal digits, without leading zeros. -/
def digits (n : Nat) : List Code :=
  if n < 10 then [digitCode n]
  else if n < 100 then [digitCode (n / 10), digitCode n]
  else [digitCode (n / 100), digitCode (n / 10), digitCode n]

/-- Whole degrees, halves away from zero (R155). -/
def wholeDegrees (t : Int) : Int := if 0 ≤ t then (t + 5) / 10 else -((-t + 5) / 10)

/-- The figures of a temperature: sign, digits, degree sign, C (R155). -/
def degreesText (t : Int) : List Code :=
  let d := wholeDegrees t
  (if d < 0 then [40] else []) ++ digits d.natAbs ++ [48, 3]

/-- The temperature text less its first entry and space (R155). -/
def tempFigures (r : TempReadout) : List Code :=
  match r with
  | .valid t => degreesText t
  | .held t => degreesText t
  | .fault => [40, 40]
  | .noStep => [40, 40]

/-- Speed in km/h (R156). -/
def speedKmh (u : Nat) : Nat := (u * 36 + 50) / 100

/-- The wind text less its first entry and space: digits or >150, then KM/H (R156). -/
def windFigures (u : Option Nat) : List Code :=
  match u with
  | none => [40, 40]
  | some u =>
    (if 150 < speedKmh u then 50 :: digits 150 else digits (speedKmh u)) ++ [0, 11, 13, 42, 8]

/-- The codes of a text entry. -/
def Settings.text (c : Settings) (entry : Nat) : List Code := c.texts[entry]?.getD []

/-- The codes a line is drawn from. -/
def State.sourceText (s : State) (src : LineSource) : List Code :=
  match src with
  | .entry n => s.settings.text n
  | .temperature => s.settings.text 253 ++ 0 :: tempFigures s.composer.temp
  | .wind => s.settings.text 254 ++ 0 :: windFigures s.composer.wind

/-- A line cut or filled with spaces to the line length (R157). -/
def fitLine (length : Nat) (codes : List Code) : List Code := (codes ++ List.replicate length 0).take length

/-! ## The image (R158) -/

/-- A code as a byte. -/
def codeByte (c : Code) : Byte := byte c.val

/-- The identity over closure segment, cells and lines (R158). -/
def imageIdentity (closureSegment : Option Nat) (cells : List Nat) (lines : List (List Code)) : Check :=
  checkValue (byte (closureSegment.getD 0) :: (cells.map byte ++ lines.flatten.map codeByte))

/-- The image a draft gives. -/
def State.render (s : State) (length : Nat) (closureSegment : Option Nat) (d : Draft) : Image :=
  let cells := d.cells.map fun c =>
    match c with
    | some (_, n) => n
    | none => 0
  let lines := d.lines.map fun l =>
    match l with
    | some (_, src) => fitLine length (s.sourceText src)
    | none => fitLine length []
  { cells := cells
    lines := lines
    claims := ⟨d.cells.map (Option.map Prod.fst), d.lines, closureSegment⟩
    identity := imageIdentity closureSegment cells lines }

/-- The image of a sign from its sources as they stand (R147, R158). -/
def State.compose (s : State) (sign : Nat) (r : SignRecord) (front : Page) : Image :=
  s.render r.lineLength (s.closureSegment sign r) (s.draft sign r front)

end Sys2Proof.Machine
end

