-- ==== Sys2Proof/Machine/Strings.lean ====
section
/-! DEFINITION. The arbiters of the two sign strings (R163 to R165, R171, R172): candidates, grants and the beginning
of an attempt. -/

namespace Sys2Proof.Machine

/-! ## Reading and writing the records -/

/-- The transfer record of a string; `none` is FREE (R163). -/
def State.transfer (s : State) (x : StringId) : Option Attempt :=
  match x with
  | .a => s.strings.transferA
  | .b => s.strings.transferB

/-- The transfer record of a string replaced. -/
def State.withTransfer (x : StringId) (a : Option Attempt) (s : State) : State :=
  match x with
  | .a => s.withStrings { s.strings with transferA := a }
  | .b => s.withStrings { s.strings with transferB := a }

/-- The panel record of a sign (R164). -/
def State.panel (s : State) (sign : Nat) : Option PanelRecord := lookup s.strings.panels sign

/-- The panel record of a sign replaced. -/
def State.withPanel (sign : Nat) (p : Option PanelRecord) (s : State) : State :=
  s.withStrings { s.strings with panels := putItem s.strings.panels sign p }

/-- What the Sign Composer holds for a sign (R144, R160). -/
def State.sign (s : State) (sign : Nat) : Option SignState := lookup s.composer.signs sign

/-- What the Sign Composer holds for a sign replaced. -/
def State.withSign (sign : Nat) (x : Option SignState) (s : State) : State :=
  s.withComposer { s.composer with signs := putItem s.composer.signs sign x }

/-! ## Candidates (R171) -/

/-- Whether a panel in FAULT is due for a retry (R171). -/
def State.panelDue (s : State) (p : PanelRecord) : Bool :=
  match p.lastAttemptEnd with
  | none => true
  | some m => Config.retryAge ≤ s.msSince m

/-- Whether a panel's last confirmation is old enough for a refresh (R171). -/
def State.refreshAged (s : State) (p : PanelRecord) : Bool :=
  match p.lastConfirmation with
  | none => true
  | some m => Config.refreshAge ≤ s.msSince m

/-- Whether a sign is eligible (R171). -/
def State.eligible (s : State) (p : PanelRecord) : Bool :=
  match p.state with
  | .unknown => true
  | .showing => true
  | .fault => s.panelDue p
  | .sending => false

/-- The class of a sign as a candidate with its place within the class; `none` is no candidate (R171). The place is
the moment the class orders by, read in milliseconds (R164), and 0 where it orders by number alone. -/
def State.candidacy (s : State) (x : SignState) (p : PanelRecord) : Option (Nat × Moment) :=
  if x.marked then
    if s.eligible p then
      if x.image.claims.closureSegment.isSome then some (1, 0) else some (2, 0)
    else none
  else
    match p.state with
    | .showing => if s.refreshAged p then some (3, p.lastConfirmation.getD 0 / usPerMs) else none
    | .fault => if s.panelDue p then some (4, p.lastAttemptEnd.getD 0 / usPerMs) else none
    | .unknown => none
    | .sending => none

/-- The candidates of a string with class, place and number, in ascending number. -/
def State.candidates (s : State) (x : StringId) : List ((Nat × Moment) × Nat) :=
  (numbers 16).filterMap fun k =>
    match lookup s.settings.signs k, s.sign k, s.panel k with
    | some r, some c, some p => if r.string = x then (s.candidacy c p).map fun rank => (rank, k) else none
    | _, _, _ => none

/-- Whether one rank stands before another. -/
def rankBefore (a b : Nat × Moment) : Bool := a.1 < b.1 || (a.1 == b.1 && a.2 < b.2)

/-- The first of some ranked candidates; on equal rank the one listed first, which has the lower number. -/
def firstRanked : List ((Nat × Moment) × Nat) → Option ((Nat × Moment) × Nat)
  | [] => none
  | c :: rest =>
    match firstRanked rest with
    | none => some c
    | some d => if rankBefore d.1 c.1 then some d else some c

/-- The sign a string's arbiter would grant the string to (R171). -/
def State.choice (s : State) (x : StringId) : Option Nat := (firstRanked (s.candidates x)).map Prod.snd

/-! ## Grants (R165, R171) -/

/-- An attempt begins: the composed image as it stands becomes the sent image (R165). -/
def State.beginAttempt (x : StringId) (sign number : Nat) (s : State) : State :=
  match lookup s.settings.signs sign, s.sign sign with
  | some r, some c => s.withTransfer x (some ⟨sign, r.address, c.image, number, .sendingFrame, false⟩)
  | _, _ => s

/-- A delivery begins: the panel is SENDING with attempt count 0, and the gates have it to be told (R171, R173). -/
def State.beginDelivery (sign : Nat) (p : PanelRecord) (s : State) : State :=
  let s := s.withPanel sign (some { p with state := .sending, attempts := 0 })
  s.withStrings { s.strings with tells := s.strings.tells ++ [sign] }

/-- The string is granted to a sign: a retry for a panel in FAULT, a delivery for any other (R171). -/
def State.grant (x : StringId) (sign : Nat) (s : State) : State :=
  match s.panel sign with
  | none => s
  | some p =>
    match p.state with
    | .fault => s.beginAttempt x sign 1
    | .unknown => (s.beginDelivery sign p).beginAttempt x sign 1
    | .showing => (s.beginDelivery sign p).beginAttempt x sign 1
    | .sending => s

/-- The arbiter of a string chooses, if the string is FREE (R171, R172). -/
def State.arbitrate (x : StringId) (s : State) : State :=
  match s.transfer x with
  | some _ => s
  | none =>
    match s.choice x with
    | none => s
    | some k => s.grant x k

/-- The arbiter of a string has a choice to take (R172). -/
def State.callArbiter (x : StringId) (s : State) : State := s.withStrings { s.strings with due := x :: s.strings.due }

/-- The arbiter of a string takes the choice it has to take. -/
def State.chooseNow (x : StringId) (s : State) : State :=
  (s.withStrings { s.strings with due := s.strings.due.filter fun y => y != x }).arbitrate x

/-- The arbiters that have a choice to take choose. -/
def State.runArbiters (s : State) : State :=
  let due := s.strings.due
  let s := s.withStrings { s.strings with due := [] }
  let s := if due.contains .a then s.arbitrate .a else s
  if due.contains .b then s.arbitrate .b else s

end Sys2Proof.Machine
end

