-- ==== Sys2Proof/Machine/Recompose.lean ====
section
/-! DEFINITION. Recomposing signs and handing the marked ones to the String Controller (R159, R160). -/

namespace Sys2Proof.Machine

/-- Whether two images have the same slots: as many cells, and lines of the same lengths. -/
def Image.sameSlots (a b : Image) : Bool :=
  a.cells.length == b.cells.length && a.lines.map List.length == b.lines.map List.length

/-- A sign's image after a recomposition that found its identity unchanged: the new claims, and the slot contents as
they were (R160). Where a redefinition gave the sign other slots, the contents are those of the new slots, which is
the model's choice (R136, R157; assumption 29). -/
def Image.keepContents (old new : Image) : Image :=
  if old.sameSlots new then { old with claims := new.claims } else new

/-- A sign's image is composed anew: on another identity the new image replaces the present one and the mark is set,
on the same one the claims are replaced (R160). Says whether the mark was set. -/
def State.recomposeSign (sign : Nat) (s : State) : State × Bool :=
  match lookup s.settings.signs sign, s.sign sign with
  | some r, some c =>
    let image := s.compose sign r c.front
    if image.identity = c.image.identity then
      (s.withSign sign (some { c with image := c.image.keepContents image }), false)
    else (s.withSign sign (some { c with image := image, marked := true }), true)
  | _, _ => (s, false)

/-- The strings of some signs. -/
def Settings.stringsOf (c : Settings) (signs : List Nat) : List StringId :=
  signs.filterMap fun k => (lookup c.signs k).map SignRecord.string

/-- The arbiter of a string with a choice to take takes it before the next hand-over of the same event, or leaves it
for later: a free order choice, one for each string (R160, assumption 9). -/
def State.mayChoose (x : StringId) (s : State) : State :=
  if s.strings.due.contains x then
    if s.nextChoice then s.choiceTaken else s.choiceTaken.chooseNow x
  else s

/-- A set of marked signs is handed to the String Controller (R160, R172). -/
def State.handMarks (marked : List Nat) (s : State) : State :=
  match marked with
  | [] => s
  | _ => (((s.settings.stringsOf marked).foldl (fun s x => s.callArbiter x) s).mayChoose .a).mayChoose .b

/-- Recompose signs in the order given, gathering those whose mark was set. -/
def State.recomposeAll : List Nat → List Nat → State → State × List Nat
  | [], marked, s => (s, marked)
  | k :: rest, marked, s =>
    let (s, m) := s.recomposeSign k
    State.recomposeAll rest (if m then marked ++ [k] else marked) s

/-- One event of the Sign Composer: it recomposes some signs together and hands over the marked ones (R159, R160). -/
def State.recompose (signs : List Nat) (s : State) : State :=
  let (s, marked) := State.recomposeAll signs [] s
  s.handMarks marked

end Sys2Proof.Machine
end

