-- ==== Sys2Proof/Machine/Segments.lean ====
section
/-! DEFINITION. The Segment Evaluator: deriving segments and handing on what changed (R90 to R97). -/

namespace Sys2Proof.Machine

/-- The states of a segment's entry gates (R92). -/
def State.entryPositions (s : State) (segment : Nat) : List GatePosition :=
  (s.settings.entryGates segment).filterMap fun k => (lookup s.gates k).map GateState.position

/-- Whether a gate counts with the DOWN gates (R92). -/
def GatePosition.isBarrier : GatePosition → Bool
  | .down => true
  | .inLocal => true
  | .up => false
  | .warning => false
  | .lowering => false
  | .raising _ => false
  | .stopped _ => false

/-- The state table of R93. `gates` are the states of the entry gates. -/
def roadState (cif rif : Bool) (hmax caution : Nat) (gates : List GatePosition) : RoadState :=
  if cif && gates.all GatePosition.isBarrier then .closed
  else if cif then .closing
  else if gates.any (fun g => g != .up) then .released
  else if caution ≤ hmax || rif then .caution
  else .free

/-- A segment's state record derived from its sources as they stand; told CIF becomes CIF (R90, R91, R93, R96). -/
def State.deriveSegment (s : State) (segment : Nat) (r : SegmentRecord) : SegmentState :=
  let closure := (s.governing .closure segment).map Notice.number
  let restriction := (s.governing .restriction segment).map Notice.number
  let hmax := s.highest [segment]
  { closure := closure
    restriction := restriction
    hmax := hmax
    state := roadState closure.isSome restriction.isSome hmax r.caution (s.entryPositions segment)
    toldCif := closure.isSome }

/-- A segment before and after a re-derivation. -/
structure Rederived where
  segment : Nat
  before : SegmentState
  after : SegmentState
  deriving DecidableEq, Repr

/-- The defined ones of some segments with their records before and after, in the order given. -/
def State.rederive (s : State) (segments : List Nat) : List Rederived :=
  segments.filterMap fun k =>
    match lookup s.settings.segments k, lookup s.segments k with
    | some r, some old => some ⟨k, old, s.deriveSegment k r⟩
    | _, _ => none

/-- Whether the state of a segment changed. -/
def Rederived.changed (d : Rederived) : Bool := d.before.state != d.after.state

/-- The SEGMENT report of a re-derivation, if the state changed (R95). -/
def Rederived.reports (d : Rederived) : List ReportBody :=
  if d.changed then
    [.segment d.segment (some d.before.state) (some d.after.state) d.after.hmax d.after.closure]
  else []

/-- The tells of a re-derivation: each entry gate with the closure in force (R96). -/
def Settings.cifTells (c : Settings) (d : Rederived) : List (Nat × Bool) :=
  if d.before.toldCif = d.after.toldCif then []
  else (c.entryGates d.segment).map fun k => (k, d.after.toldCif)

/-- Some segments are re-derived together: derived, reported in ascending number, and the state changes handed to the
Sign Composer. What the gates have to be told is given back: segment by segment in ascending number, and the gates of
each ascending. R96 gives the order within a segment; that between segments is the model's choice (R94 to R97;
assumptions 11 and 31). That the Sign Composer takes the state changes before what the cause of the event hands it is
the model's choice too (assumption 34). -/
def State.evaluate (segments : List Nat) (s : State) : State × List (Nat × Bool) :=
  let ds := s.rederive (ascending 8 segments)
  let tells := ds.flatMap s.settings.cifTells
  let s := s.withSegments (ds.foldl (fun v d => putItem v d.segment (some d.after)) s.segments)
  let s := s.reports (ds.flatMap Rederived.reports)
  match (ds.filter Rederived.changed).map Rederived.segment with
  | [] => (s, tells)
  | changed => (s.recompose (s.settings.announcing changed), tells)

end Sys2Proof.Machine
end

