-- ==== Sys2Proof/Machine/Gates.lean ====
section
/-! DEFINITION. The Gate Sequencer: outputs, derivation, hold, tells, travel, obstruction, switches and key
(R109 to R128, R132). -/

namespace Sys2Proof.Machine

/-- The state of a gate (R109). -/
def State.gate (s : State) (k : Nat) : Option GateState := lookup s.gates k

/-- The state of a gate replaced. -/
def State.withGate (k : Nat) (g : Option GateState) (s : State) : State := s.withGates (putItem s.gates k g)

/-! ## Outputs (R110) -/

/-- The setting of lower, raise and flasher in a gate state (R110). -/
def GatePosition.setting : GatePosition → Bool × Bool × Bool
  | .up => (false, false, false)
  | .warning => (false, false, true)
  | .lowering => (true, false, true)
  | .down => (false, false, true)
  | .raising _ => (false, true, true)
  | .stopped _ => (false, false, true)
  | .inLocal => (false, false, false)

/-- The outputs with the lines of an order taken to their levels: those turned off first, then those turned on (R5). -/
def orderOutputs (outputs : Vector Bool 16) (order : List (Nat × Bool)) : Vector Bool 16 :=
  let off := (order.filter fun o => !o.2).foldl (fun v o => putItem v o.1 false) outputs
  (order.filter fun o => o.2).foldl (fun v o => putItem v o.1 true) off

/-- The order for a gate in a state (R110). -/
def GateRecord.order (r : GateRecord) (p : GatePosition) : List (Nat × Bool) :=
  [(r.lower, p.setting.1), (r.raise, p.setting.2.1), (r.flasher, p.setting.2.2)]

/-- The Field Interface applies an order (R5). -/
def State.applyOrder (order : List (Nat × Bool)) (s : State) : State :=
  s.withField { s.field with outputs := orderOutputs s.field.outputs order }

/-! ## The hold (R114 to R117) -/

/-- Whether an approach sign agrees for a guarded segment (R114). -/
def State.signAgrees (s : State) (segment sign : Nat) : Bool :=
  match s.panel sign with
  | none => false
  | some p =>
    p.state == .fault ||
      (match p.confirmed with
      | some image => image.claims.closureSegment == some segment
      | none => false)

/-- The hold condition C of a gate (R114). -/
def State.holdCondition (s : State) (r : GateRecord) : Bool := r.approach.all (s.signAgrees r.segment)

/-- Whether a sign's panel is in FAULT. -/
def State.panelFaulty (s : State) (sign : Nat) : Bool :=
  match s.panel sign with
  | some p => p.state == .fault
  | none => false

/-- The hold requirement Q (R116). -/
def State.requirement (s : State) (r : GateRecord) : Nat :=
  if r.approach.any s.panelFaulty then 2 * r.warnHold else r.warnHold

/-- The hold start of a gate that enters WARNING (R115). -/
def State.freshHold (s : State) (r : GateRecord) : Option Nat := if s.holdCondition r then some s.seconds else none

/-- Whether the deadline of a hold has been reached (R116). -/
def State.deadlinePassed (s : State) (r : GateRecord) (g : GateState) : Bool :=
  match g.holdStart with
  | some h => h + s.requirement r ≤ s.seconds
  | none => false

/-- The three things a lowering needs (R117). -/
def State.mayLower (s : State) (k : Nat) (r : GateRecord) (g : GateState) : Bool :=
  g.position == .warning && !s.zoneRunning k && s.holdCondition r && s.deadlinePassed r g

/-! ## The derivation (R111) -/

/-- Whether a gate's key switch is active; a gate without a key has it inactive. -/
def State.keyActive (s : State) (r : GateRecord) : Bool := r.key != 0 && s.accepted r.key

/-- The state a gate's lines give it, with closure in force as given (R111). -/
def derivedPosition (key up down cif : Bool) : GatePosition :=
  if key then .inLocal
  else
    match up, down with
    | true, false => if cif then .warning else .up
    | false, true => .down
    | false, false => .stopped .position
    | true, true => .stopped .switches

/-- A gate state at a position with no hold, no travel and a reversal count. -/
def GateState.resting (p : GatePosition) (reversals : Nat) : GateState := ⟨p, none, reversals, none⟩

/-- The derived state of a gate (R111). -/
def State.deriveGate (s : State) (r : GateRecord) : GateState :=
  let p := derivedPosition (s.keyActive r) (s.accepted r.upSwitch) (s.accepted r.downSwitch) (s.cif r.segment)
  { GateState.resting p 0 with holdStart := if p = .warning then s.freshHold r else none }

/-! ## A change of a gate (R132) -/

/-- Whether two gate states are the same state, whatever the stop cause or raise kind. -/
def GatePosition.sameState (a b : GatePosition) : Bool := a.code == b.code

/-- A gate takes a new gate state: a GATE report if state or stop cause changed, and on a change of state the order
for the new state and the hand-over `handOn` (R110, R132). -/
def State.changeGateWith (handOn : GateRecord → State → State) (k : Nat) (cause : GateCause) (new : GateState)
    (s : State) : State :=
  match lookup s.settings.gates k, s.gate k with
  | some r, some old =>
    let s := s.withGate k (some new)
    let s := if old.position = new.position then s
      else s.report (.gate k (some old.position) (some new.position) new.reversals cause)
    if old.position.sameState new.position then s else handOn r (s.applyOrder (r.order new.position))
  | _, _ => s

/-- A change of state handed to the Segment Evaluator and the Sign Composer, without tells: the closure in force of
the segment has already been told (R96, R132). -/
def handOnQuiet (r : GateRecord) (s : State) : State :=
  (s.evaluate [r.segment]).1.recompose (ascending 16 r.approach)

/-! ## Closure tells (R112, R113) -/

/-- A gate answers a tell of closure in force (`cif` true) or closure ended (R112, R113). -/
def State.answerTell (tell : Nat × Bool) (s : State) : State :=
  match lookup s.settings.gates tell.1, s.gate tell.1 with
  | some r, some g =>
    match g.position, tell.2 with
    | .up, true =>
      s.changeGateWith handOnQuiet tell.1 .closure
        { GateState.resting .warning g.reversals with holdStart := s.freshHold r }
    | .warning, false => s.changeGateWith handOnQuiet tell.1 .closureEnded (GateState.resting .up g.reversals)
    | _, _ => s
  | _, _ => s

/-- The gates answer some tells in the order they were told (R96; between segments, assumption 31). -/
def State.answerTells (tells : List (Nat × Bool)) (s : State) : State := tells.foldl (fun s t => s.answerTell t) s

/-- Some segments are re-derived, with the signs of the state changes recomposed; then the signs that the cause of the
event hands over are recomposed, as a hand-over of their own; then the gates answer the tells (R94 to R97). R62 and R79
have the cause's hand-over taken after the re-derivation and leave its order against the state changes open: state
changes first is the model's choice (assumption 34). The place of the answers is the model's reading (assumption 11). -/
def State.handOver (segments signs : List Nat) (s : State) : State :=
  let (s, tells) := s.evaluate segments
  let s :=
    match signs with
    | [] => s
    | _ => s.recompose signs
  s.answerTells tells

/-- A change of a gate's state handed on (R132). -/
def handOnGate (r : GateRecord) (s : State) : State := s.handOver [r.segment] (ascending 16 r.approach)

/-- A gate takes a new gate state, reported and handed on (R132). -/
def State.changeGate (k : Nat) (cause : GateCause) (new : GateState) (s : State) : State :=
  s.changeGateWith handOnGate k cause new

/-! ## Lowering -/

/-- Expiry of a travel timer started now (R121). -/
def State.travelEnd (s : State) (r : GateRecord) : Nat := s.seconds + r.travel

/-- The lowering test of a gate, which begins the lowering when it passes (R117). -/
def State.loweringTest (k : Nat) (s : State) : State :=
  match lookup s.settings.gates k, s.gate k with
  | some r, some g =>
    if s.mayLower k r g then
      s.changeGate k .hold { g with position := .lowering, travelExpiry := some (s.travelEnd r) }
    else s
  | _, _ => s

/-- Whether a gate's hold start follows C (R114, R115). -/
def GatePosition.followsSigns : GatePosition → Bool
  | .warning => true
  | .lowering => true
  | .raising .obstruction => true
  | .raising .requested => false
  | .up => false
  | .down => false
  | .stopped _ => false
  | .inLocal => false

/-- The hold start after a re-evaluation of C (R115). -/
def State.followedHold (s : State) (r : GateRecord) (g : GateState) : Option Nat :=
  if s.holdCondition r then some (g.holdStart.getD s.seconds) else none

/-- A gate re-evaluates C and Q on a tell about an approach sign (R114 to R117). -/
def State.reviewHold (k : Nat) (s : State) : State :=
  match lookup s.settings.gates k, s.gate k with
  | some r, some g =>
    if g.position.followsSigns then
      (s.withGate k (some { g with holdStart := s.followedHold r g })).loweringTest k
    else s
  | _, _ => s

/-- The gates are told of a sign's panel state or confirmed image (R114, R173). -/
def State.tellSign (sign : Nat) (s : State) : State :=
  (s.settings.approached sign).foldl (fun s k => s.reviewHold k) s

/-! ## Change events of a gate's lines (R119 to R128) -/

/-- A gate stopped with a cause, travel and hold dropped (R121, R122, R124 to R126). -/
def GateState.stop (g : GateState) (cause : StopCause) : GateState := GateState.resting (.stopped cause) g.reversals

/-- Whether a rising switch event finding the other switch active stops the gate (R126). -/
def GatePosition.mindsSwitches : GatePosition → Bool
  | .up => true
  | .warning => true
  | .lowering => true
  | .down => true
  | .raising _ => true
  | .stopped .position => true
  | .stopped .forced => true
  | .stopped .switches => false
  | .stopped .timeout => false
  | .stopped .obstruction => false
  | .inLocal => false

/-- A rising switch event that finds the other switch active (R126). -/
def State.bothSwitches (k : Nat) (g : GateState) (s : State) : State :=
  if g.position.mindsSwitches then s.changeGate k .switches (g.stop .switches) else s

/-- A rising change event of the down-switch (R119, R124, R126). -/
def State.downSwitchRose (k : Nat) (s : State) : State :=
  match lookup s.settings.gates k, s.gate k with
  | some r, some g =>
    if s.accepted r.upSwitch then s.bothSwitches k g
    else
      match g.position with
      | .up => s.changeGate k .forced (GateState.resting .down 0)
      | .warning => s.changeGate k .forced (GateState.resting .down 0)
      | .lowering => s.changeGate k .limit (GateState.resting .down 0)
      | .raising _ => s.changeGate k .forced (g.stop .forced)
      | .stopped .position => s.changeGate k .forced (GateState.resting .down 0)
      | .stopped .forced => s.changeGate k .forced (GateState.resting .down 0)
      | .stopped .switches => s
      | .stopped .timeout => s
      | .stopped .obstruction => s
      | .down => s
      | .inLocal => s
  | _, _ => s

/-- A gate found up by its switch without having been raised (R125). -/
def State.foundUp (k : Nat) (r : GateRecord) (g : GateState) (s : State) : State :=
  if s.cif r.segment then s.changeGate k .forced (g.stop .forced)
  else s.changeGate k .forced (GateState.resting .up g.reversals)

/-- The up limit of a raise: UP, or WARNING under a closure; a reversed gate keeps its hold and is then tested for
lowering (R120, R123). -/
def State.upLimit (k : Nat) (r : GateRecord) (g : GateState) (kind : RaiseKind) (s : State) : State :=
  if s.cif r.segment then
    match kind with
    | .requested =>
      s.changeGate k .limit { GateState.resting .warning g.reversals with holdStart := s.freshHold r }
    | .obstruction =>
      (s.changeGate k .limit { GateState.resting .warning g.reversals with holdStart := g.holdStart }).loweringTest k
  else s.changeGate k .limit (GateState.resting .up g.reversals)

/-- A rising change event of the up-switch (R120, R125, R126). -/
def State.upSwitchRose (k : Nat) (s : State) : State :=
  match lookup s.settings.gates k, s.gate k with
  | some r, some g =>
    if s.accepted r.downSwitch then s.bothSwitches k g
    else
      match g.position with
      | .raising kind => s.upLimit k r g kind
      | .lowering => s.changeGate k .forced (g.stop .forced)
      | .down => s.foundUp k r g
      | .stopped .position => s.foundUp k r g
      | .stopped .forced => s.foundUp k r g
      | .stopped .switches => s
      | .stopped .timeout => s
      | .stopped .obstruction => s
      | .up => s
      | .warning => s
      | .inLocal => s
  | _, _ => s

/-- A rising change event of the presence input: an obstruction of a lowering gate (R122). -/
def State.presenceRose (k : Nat) (s : State) : State :=
  match lookup s.settings.gates k, s.gate k with
  | some r, some g =>
    if g.position = .lowering then
      if g.reversals < 3 then
        s.changeGate k .obstruction
          { g with position := .raising .obstruction, reversals := g.reversals + 1,
                   travelExpiry := some (s.travelEnd r) }
      else s.changeGate k .obstruction (g.stop .obstruction)
    else s
  | _, _ => s

/-- A rising change event of the key input (R127). -/
def State.keyRose (k : Nat) (s : State) : State := s.changeGate k .key (GateState.resting .inLocal 0)

/-- A falling change event of the key input (R128). -/
def State.keyFell (k : Nat) (s : State) : State :=
  match lookup s.settings.gates k, s.gate k with
  | some r, some g => if g.position = .inLocal then s.changeGate k .key (s.deriveGate r) else s
  | _, _ => s

/-- The travel timer expires (R121). -/
def State.travelExpired (k : Nat) (s : State) : State :=
  match s.gate k with
  | some g => s.changeGate k .timeout (g.stop .timeout)
  | none => s

end Sys2Proof.Machine
end

