-- ==== Sys2Proof/Machine/Line.lean ====
section
/-! DEFINITION. The Station Line Controller: receiver, inbound queue, reply outbox, transmitter and attended state
(R180 to R193). -/

namespace Sys2Proof.Machine

/-! ## The receiver (R180) -/

/-- A second check byte closes a frame, which is valid when the check agrees (R180, R203). -/
def closeFrame (length kind : Byte) (body : List Byte) (received : List Byte) : Option Frame :=
  if checkBytes (checkValue (length :: kind :: body)) = received then some ⟨kind, body⟩ else none

/-- The receiver takes one byte; a valid frame is passed on (R180). -/
def Receiver.take (r : Receiver) (b : Byte) : Receiver × Option Frame :=
  match r with
  | .hunting => (if b = 0xA5 then .length else .hunting, none)
  | .length => (if b.toNat ≤ Config.maxBody then .kind b else .hunting, none)
  | .kind n => (if n = 0 then .check n b [] none else .body n b [], none)
  | .body n k received =>
    let received := received ++ [b]
    (if received.length < n.toNat then .body n k received else .check n k received none, none)
  | .check n k kept none => (.check n k kept (some b), none)
  | .check n k kept (some first) => (.hunting, closeFrame n k kept [first, b])

/-- Whether a frame is in progress (R181). -/
def Receiver.inProgress : Receiver → Bool
  | .hunting => false
  | .length => true
  | .kind _ => true
  | .body _ _ _ => true
  | .check _ _ _ _ => true

/-! ## Queue and outbox (R182, R183) -/

/-- Whether a reply is a BUSY reply (R182). -/
def Reply.isBusy (r : Reply) : Bool :=
  match r.answer with
  | .refused .busy _ => true
  | _ => false

/-- A valid frame makes an UNATTENDED line ATTENDED, with its report, and restarts the silence timer (R182, R192). -/
def State.heard (s : State) : State :=
  let s' :=
    if s.line.attended then s
    else (s.withLine { s.line with attended := true }).report (.linkAttended s.silence)
  s'.withLine { s'.line with lastValid := s'.now }

/-! ## Transmitter (R189, R190) -/

/-- Whether the buffer calls for a report frame: 8 records, or an oldest record 2 s old (R189). -/
def State.bufferCalls (s : State) : Bool :=
  match s.line.buffer with
  | [] => false
  | r :: _ => decide (Config.frameRecords ≤ s.line.buffer.length) || decide (Config.reportAge ≤ s.msSince r.queuedAt)

/-- Whether a report frame is due (R189). -/
def State.reportDue (s : State) : Bool :=
  s.line.transmitter == .free && s.line.outbox.isEmpty && s.bufferCalls

/-- A report frame begins with the oldest records, up to 8 (R189). -/
def State.beginReports (s : State) : State :=
  let first := s.line.buffer.take Config.frameRecords
  s.withLine { s.line with
    transmitter := .sendingReports (first.map Buffered.record)
    buffer := first.map (fun r => { r with inFrame := true }) ++ s.line.buffer.drop Config.frameRecords }

/-- A FREE transmitter begins the next frame, if there is one (R190). -/
def State.kick (s : State) : State :=
  match s.line.transmitter with
  | .sendingReply => s
  | .sendingReports _ => s
  | .free =>
    match s.line.outbox with
    | _ :: _ => s.withLine { s.line with transmitter := .sendingReply }
    | [] => if s.bufferCalls then s.beginReports else s

/-- A reply is placed in the outbox (R183). -/
def State.enqueueReply (r : Reply) (s : State) : State := s.withLine { s.line with outbox := s.line.outbox ++ [r] }

/-- A reply is placed: to a carried-out request, or BUSY. When a report frame is due as it is placed, whether that
frame begins first is a free order choice (R190, assumption 10). -/
def State.placeReply (r : Reply) (s : State) : State :=
  if s.reportDue then
    let first := s.nextChoice
    let s := s.choiceTaken
    if first then (s.beginReports).enqueueReply r else s.enqueueReply r
  else s.enqueueReply r

/-- A BUSY reply to a frame that finds the queue full (R182). -/
def Frame.busyReply (f : Frame) : Reply := ⟨f.body.headD 0, f.kind, .refused .busy .noReason⟩

/-- A frame joins the queue, is refused BUSY or is dropped (R182). -/
def State.joinQueue (f : Frame) (s : State) : State :=
  if s.line.inbound.length < Config.queueSize then
    s.withLine { s.line with inbound := s.line.inbound ++ [f] }
  else if (s.line.outbox.filter Reply.isBusy).length < Config.queueSize then s.placeReply f.busyReply
  else s

/-- A valid frame is passed on (R182). -/
def State.frameArrived (f : Frame) (s : State) : State := s.heard.joinQueue f

/-- One byte arrives on the station line (R180). -/
def State.receiveByte (b : Byte) (s : State) : State :=
  let (r, f) := s.line.receiver.take b
  let s := s.withLine { s.line with receiver := r, lastByte := s.now }
  match f with
  | none => s
  | some f => s.frameArrived f

/-- Whether more than the gap limit has passed since the last byte of a frame in progress (R181). -/
def State.gapPassed (s : State) : Bool := s.line.receiver.inProgress && Config.gapLimit < s.msSince s.line.lastByte

/-- The receiver returns to HUNTING, dropping what it kept (R181). -/
def State.dropFrame (s : State) : State := s.withLine { s.line with receiver := .hunting }

/-- Bytes arrive on the station line at one moment (assumption 22); a frame whose gap has passed is dropped first. -/
def State.receiveBytes (bytes : List Byte) (s : State) : State :=
  match bytes with
  | [] => s
  | _ => bytes.foldl (fun s b => s.receiveByte b) (if s.gapPassed then s.dropFrame else s)

/-- The report frame's last byte has gone: the records it carried leave the buffer (R189). -/
def State.reportsGone (s : State) : State :=
  s.withLine { s.line with transmitter := .free, buffer := s.line.buffer.filter fun r => !r.inFrame }

/-! ## The attended state (R191, R193) -/

/-- The line becomes UNATTENDED if the silence timer stands at the limit (R191, R193). -/
def State.checkSilence (s : State) : State :=
  if s.line.attended && s.settings.silenceLimit ≤ s.silence then
    (s.withLine { s.line with attended := false }).report (.linkUnattended s.settings.silenceLimit)
  else s

end Sys2Proof.Machine
end

