-- ==== Sys2Proof/Machine/Events.lean ====
section
/-! DEFINITION. The shape every command shares: time passes, the effect is taken, the blocks settle and a FREE
transmitter begins its next frame; and the shape every request shares (R184). -/

namespace Sys2Proof.Machine

/-! ## Settling -/

/-- The gates are told of the signs whose panel began a delivery in this event, in the order in which the deliveries
began; where both strings begin one on the same hand-over, string A's sign is told first, which is the model's choice
(R173, assumptions 12 and 31). -/
def State.giveTells (s : State) : State :=
  let signs := s.strings.tells
  signs.foldl (fun s k => s.tellSign k) (s.withStrings { s.strings with tells := [] })

/-- The tells are given and the arbiters that have a choice to take choose. -/
def State.settleRound (s : State) : State := s.giveTells.runArbiters

/-- The blocks settle. Three rounds are enough: a round that leaves anything has granted a FREE string, and there are
two. -/
def State.settle (s : State) : State := s.settleRound.settleRound.settleRound

/-! ## Events -/

/-- The effect `f` of a command on a released part, followed by settling and the transmitter. -/
def State.react (f : State → State) (s : State) : State := (f s).settle.kick

/-- A command at moment `t`. A part held in reset takes nothing (00_scope 1.12, R200). -/
def event (t : Moment) (f : State → State) (s : State) : Result :=
  .next (if s.powered then (s.elapse t).react f else s)

/-! ## Requests (R184) -/

/-- Whether a request can be taken from the queue (R184). -/
def State.canTake (s : State) : Bool := s.line.carrying.isNone && s.line.outbox.all Reply.isBusy

/-- Whether the oldest frame is a given one and can be taken (R184). -/
def State.takes (s : State) (f : Frame) : Bool := s.canTake && s.line.inbound.head? == some f

/-- The oldest frame leaves the queue (R184). -/
def State.popFrame (s : State) : State := s.withLine { s.line with inbound := s.line.inbound.tail }

/-- A request is carried out in one event and its reply placed at the end of it, after the reports of the event
(R184). -/
def State.carryOut (kind tag : Byte) (f : State → State × Answer) (s : State) : State :=
  let (s, answer) := f s.popFrame
  s.settle.placeReply ⟨tag, kind, answer⟩

/-- A request row: its frame, if it is the oldest and can be taken, is carried out (R184, assumption 5). -/
def request (t : Moment) (kind tag : Byte) (fields : List Byte) (f : State → State × Answer) (s : State) : Result :=
  event t (fun s => if s.takes ⟨kind, tag :: fields⟩ then s.carryOut kind tag f else s) s

/-- A refusal, which changes nothing (R185). -/
def refuse (code : RefusalCode) (s : State) : State × Answer := (s, .refused code .noReason)

/-- A DONE answer with its result (R185). -/
def accept (result : List Byte) (s : State) : State × Answer := (s, .done result)

/-- Whether a REMOVE ITEM frame belongs to the row of an item kind: it names the kind, or it names none because its
length or its item kind is wrong (R184, assumption 6). -/
def removalIsFor (item : Nat) (fields : List Byte) : Bool :=
  fields.length != 2 || byteAt fields 0 == item || !(decide (1 ≤ byteAt fields 0) && decide (byteAt fields 0 ≤ 6))

/-- A REMOVE ITEM request: length and item kind first, then the owning block (R184). -/
def carryRemoval (fields : List Byte) (f : Nat → State → State × Answer) (s : State) : State × Answer :=
  if fields.length ≠ 2 then refuse .malformed s
  else if byteAt fields 0 < 1 ∨ 6 < byteAt fields 0 then refuse .range s
  else f (byteAt fields 1) s

/-- A row of REMOVE ITEM (R184, assumption 6). -/
def removal (t : Moment) (item : Nat) (tag : Byte) (fields : List Byte) (f : Nat → State → State × Answer)
    (s : State) : Result :=
  if removalIsFor item fields then request t kindRemoveItem tag fields (carryRemoval fields f) s
  else event t id s

end Sys2Proof.Machine
end

