-- ==== Sys2Proof/Machine/Field.lean ====
section
/-! DEFINITION. The Field Interface: functions of the inputs, debounce, counter channels, vane samples, clear-zone
timers and the latch (R1 to R17). -/

namespace Sys2Proof.Machine

/-! ## Functions of the inputs (section 1.1 of chapter 1) -/

/-- The input lines a channel names: source or the three vane lines, and VANE_OK (R11, R18). -/
def ChannelConfig.lines (c : ChannelConfig) : List Nat :=
  match c.mode with
  | .off => []
  | .event => [c.source]
  | .width => [c.source]
  | .vane => [c.source, c.source + 1, c.source + 2] ++ (if c.vaneOk = 0 then [] else [c.vaneOk])

/-- The input lines a gate record names (R19). -/
def GateRecord.inputs (r : GateRecord) : List Nat :=
  [r.upSwitch, r.downSwitch] ++ (if r.presence = 0 then [] else [r.presence]) ++ (if r.key = 0 then [] else [r.key])

/-- The output lines a gate record names (R19). -/
def GateRecord.outputs (r : GateRecord) : List Nat := [r.lower, r.raise, r.flasher]

/-- The function a gate record gives a line. -/
def GateRecord.functionOf (r : GateRecord) (gate line : Nat) : InputFunction :=
  if line = 0 then .unused
  else if line = r.upSwitch then .upSwitch gate
  else if line = r.downSwitch then .downSwitch gate
  else if line = r.presence then .presence gate
  else if line = r.key then .key gate
  else .unused

/-- The function a channel gives a line. -/
def ChannelConfig.functionOf (c : ChannelConfig) (channel line : Nat) : InputFunction :=
  match c.mode with
  | .off => .unused
  | .event => if line = c.source then .counter channel else .unused
  | .width => if line = c.source then .counter channel else .unused
  | .vane =>
    if c.source ≤ line && line ≤ c.source + 2 then .vaneLine channel
    else if line ≠ 0 && line = c.vaneOk then .vaneOk channel
    else .unused

/-- The channels of a calibration set with their numbers. -/
def Calibration.numbered (c : Calibration) : List (Nat × ChannelConfig) :=
  (numbers 6).filterMap fun k => (itemAt c.channels k).map fun x => (k, x)

/-- The function of an input, from the record that names it (section 1.1 of chapter 1). -/
def Settings.functionOf (c : Settings) (line : Nat) : InputFunction :=
  let named := ((entries c.gates).map fun g => g.2.functionOf g.1 line) ++
    (c.calibration.numbered.map fun x => x.2.functionOf x.1 line)
  (named.find? (fun f => f != .unused)).getD .unused

/-- Whether a line is the counter source of a WIDTH channel (R4). -/
def Calibration.isWidthSource (c : Calibration) (line : Nat) : Bool :=
  c.numbered.any fun x => x.2.mode == .width && x.2.source == line

/-! ## Updates of one input, channel or timer -/

/-- The held part of an input replaced. -/
def State.withInput (line : Nat) (i : InputState) (s : State) : State :=
  s.withField { s.field with inputs := putItem s.field.inputs line i }

/-- The level on a pin. -/
def State.withPin (line : Nat) (high : Bool) (s : State) : State :=
  s.withField { s.field with lines := putItem s.field.lines line high }

/-- A channel's accumulators replaced. -/
def State.withChannel (channel : Nat) (c : ChannelTotals) (s : State) : State :=
  s.withField { s.field with channels := putItem s.field.channels channel c }

/-- A gate's clear-zone timer replaced. -/
def State.withZone (gate : Nat) (z : ClearZone) (s : State) : State :=
  s.withField { s.field with clearZones := putItem s.field.clearZones gate z }

/-- The level on a line. -/
def State.pin (s : State) (line : Nat) : Bool := levelAt s.field.lines line

/-! ## Counter channels (R8, R9) -/

/-- A rising change event on an EVENT channel's source (R8). -/
def ChannelTotals.countRise : ChannelTotals → ChannelTotals
  | .event count => .event (min (count + 1) 65535)
  | .off => .off
  | .width count sum m => .width count sum m
  | .vane bins invalid => .vane bins invalid

/-- A complete pulse of a width in µs (R9). -/
def widthPulse (count sum width : Nat) : Nat × Nat :=
  if 1000 ≤ width && width ≤ 9000 && count < 65535 then (count + 1, sum + width) else (count, sum)

/-- An edge on a WIDTH channel's source at a moment (R9). -/
def ChannelTotals.edge (now : Moment) (high : Bool) : ChannelTotals → ChannelTotals
  | .width count sum m =>
    match m, high with
    | .idle, true => .width count sum (.measuring now)
    | .measuring since, false =>
      let p := widthPulse count sum (min (now - since) 65535)
      .width p.1 p.2 .idle
    | .blind, false => .width count sum .idle
    | m, _ => .width count sum m
  | .off => .off
  | .event count => .event count
  | .vane bins invalid => .vane bins invalid

/-- The WIDTH channels whose source a line is take an edge (R4, R9). -/
def State.widthEdgeOn (line : Nat) (high : Bool) (s : State) : State :=
  (s.settings.calibration.numbered.filter fun x => x.2.mode == .width && x.2.source == line).foldl
    (fun s x =>
      match itemAt s.field.channels x.1 with
      | some c => s.withChannel x.1 (c.edge s.now high)
      | none => s) s

/-! ## Transitions and debounce (R2, R4) -/

/-- The candidate of a debounced input after its line takes a level (R2, R3). -/
def InputState.transition (i : InputState) (now : Moment) (debounce : Nat) (high : Bool) : InputState :=
  if high = i.accepted then { i with candidate := none }
  else
    match i.candidate with
    | some _ => i
    | none => { i with candidate := some ⟨high, now, debounce⟩ }

/-- A line takes a level: an edge on a WIDTH source, a candidate made or dropped on any other line; a level the line
has already changes nothing (R2, R4, assumption 21). -/
def State.lineTransition (line : Nat) (high : Bool) (s : State) : State :=
  match itemAt s.field.lines line, itemAt s.field.inputs line with
  | some level, some i =>
    if level = high then s
    else
      let s := s.withPin line high
      if s.settings.calibration.isWidthSource line then
        (s.withInput line { i with accepted := high }).widthEdgeOn line high
      else
        s.withInput line (i.transition s.now ((itemAt s.settings.calibration.debounce line).getD 0) high)
  | _, _ => s

/-- Whether an input's candidate has been held for its debounce time (R2). -/
def State.candidateHeld (s : State) (line : Nat) : Option Candidate :=
  match itemAt s.field.inputs line with
  | none => none
  | some i =>
    match i.candidate with
    | none => none
    | some c => if c.since + c.debounce * usPerMs ≤ s.now then some c else none

/-! ## Clear-zone timers (R15 to R17) -/

/-- A presence change event on a clear-zone timer with a hold time in s (R15). -/
def ClearZone.presence (z : ClearZone) (now : Moment) (hold : Nat) (high : Bool) : ClearZone :=
  match z, high with
  | .idle, true => .occupied
  | .holding _, true => .occupied
  | .occupied, false => .holding (now + hold * usPerSecond)
  | z, _ => z

/-- A presence change event: the timer first, then the Gate Sequencer (R16). -/
def State.presenceChanged (gate : Nat) (high : Bool) (s : State) : State :=
  let s :=
    match lookup s.settings.gates gate, itemAt s.field.clearZones gate with
    | some r, some z => s.withZone gate (z.presence s.now r.clearHold high)
    | _, _ => s
  if high then s.presenceRose gate else s

/-- The state a clear-zone timer takes from its presence input (R17). -/
def zoneFrom (presence : Nat) (level : Bool) : ClearZone := if presence ≠ 0 && level then .occupied else .idle

/-- Whether a clear-zone timer's end time is reached (R15). -/
def State.zoneEnded (s : State) (gate : Nat) : Bool :=
  match itemAt s.field.clearZones gate with
  | some (.holding e) => e ≤ s.now
  | some .idle => false
  | some .occupied => false
  | none => false

/-! ## Change events (R2) -/

/-- A change event goes to the owner of its line (R2, R3, section 1.1 of chapter 1). -/
def State.deliverChange (f : InputFunction) (high : Bool) (s : State) : State :=
  match f with
  | .unused => s
  | .upSwitch g => if high then s.upSwitchRose g else s
  | .downSwitch g => if high then s.downSwitchRose g else s
  | .presence g => s.presenceChanged g high
  | .key g => if high then s.keyRose g else s.keyFell g
  | .counter c =>
    match itemAt s.field.channels c with
    | some totals => if high then s.withChannel c totals.countRise else s
    | none => s
  | .vaneLine _ => s
  | .vaneOk _ => s

/-- A candidate is accepted and its change event given (R2). -/
def State.acceptChange (line : Nat) (c : Candidate) (s : State) : State :=
  (s.withInput line ⟨c.level, none⟩).deliverChange (s.settings.functionOf line) c.level

/-! ## Vane samples (R11) -/

/-- The sector of a Gray code (R11). -/
def graySector (a b c : Bool) : Nat :=
  match a, b, c with
  | false, false, false => 0
  | false, false, true => 1
  | false, true, true => 2
  | false, true, false => 3
  | true, true, false => 4
  | true, true, true => 5
  | true, false, true => 6
  | true, false, false => 7

/-- A VANE channel takes a sample of the accepted levels (R11). -/
def State.sample (s : State) (c : ChannelConfig) (bins : Vector Nat 8) (invalid : Nat) : ChannelTotals :=
  if c.vaneOk ≠ 0 && !s.accepted c.vaneOk then .vane bins (invalid + 1)
  else
    let k := graySector (s.accepted c.source) (s.accepted (c.source + 1)) (s.accepted (c.source + 2))
    .vane (bins.setIfInBounds k (bins.getD k 0 + 1)) invalid

/-- One channel at a sample instant. -/
def State.sampleChannel (s : State) (c : ChannelConfig) (t : ChannelTotals) : ChannelTotals :=
  match t with
  | .vane bins invalid => s.sample c bins invalid
  | .off => .off
  | .event count => .event count
  | .width count sum m => .width count sum m

/-- Every VANE channel takes a sample (R11). -/
def State.takeSamples (s : State) : State :=
  s.withField { s.field with
    channels := Vector.zipWith s.sampleChannel s.settings.calibration.channels s.field.channels }

/-! ## Latch (R13) and empty accumulators (R7, R10, R12, R14) -/

/-- The accumulators after the latch (R10, R13). -/
def ChannelTotals.emptied : ChannelTotals → ChannelTotals
  | .off => .off
  | .event _ => .event 0
  | .width _ _ m => .width 0 0 m
  | .vane _ _ => .vane (Vector.replicate 8 0) 0

/-- The accumulators of a channel that begins: `high` is the level on its source line, `passed` the sample instants
of the step that have passed (R7, R10, R12). -/
def ChannelConfig.fresh (c : ChannelConfig) (high : Bool) (passed : Nat) : ChannelTotals :=
  match c.mode with
  | .off => .off
  | .event => .event 0
  | .width => .width 0 0 (if high then .blind else .idle)
  | .vane => .vane (Vector.replicate 8 0) passed

/-- The channels empty after the latch (R13). -/
def State.emptyChannels (s : State) : State :=
  s.withField { s.field with channels := s.field.channels.map ChannelTotals.emptied }

end Sys2Proof.Machine
end

