-- ==== Sys2Proof/Machine/Notices.lean ====
section
/-! DEFINITION. The Pass Clock and the Notice List: list order, clock walks, hand-over of touched segments and the
autonomous asks (R68, R70 to R83, R86). -/

namespace Sys2Proof.Machine

/-! ## The list (R72) -/

/-- A record put in its place in list order (R72). -/
def insertNotice (n : Notice) : List Notice → List Notice
  | [] => [n]
  | m :: rest => if n.precedes m then n :: m :: rest else m :: insertNotice n rest

/-- The list without the record of a number. -/
def withoutNotice (number : Nat) (list : List Notice) : List Notice := list.filter fun n => n.number != number

/-- The record of a number, if the list holds one. -/
def findNotice (number : Nat) (list : List Notice) : Option Notice := list.find? fun n => n.number == number

/-- The Notice List replaced. -/
def State.withNotices (list : List Notice) (s : State) : State :=
  s.withRetained { s.retained with notices := list }

/-- The NOTICE report of an event on a record (R84). -/
def Notice.report (n : Notice) (event : NoticeEvent) : ReportBody := .notice n.number event n.kind n.origin

/-- The station records of the list. -/
def stationNotices (list : List Notice) : List Notice := list.filter fun n => n.origin == .station

/-! ## Handing on (R79) -/

/-- Touched segments are handed to the Segment Evaluator and then the Sign Composer (R79). -/
def State.handTouched (touched : List Nat) (s : State) : State :=
  match ascending 8 touched with
  | [] => s
  | segments => s.handOver segments (s.settings.announcing segments)

/-! ## The clock walk (R70, R76, R77) -/

/-- Whether a start or end time falls due at a time. -/
def fallsDue (time : Option Nat) (now : Nat) : Bool :=
  match time with
  | none => false
  | some t => t ≤ now

/-- The activation of a record in a walk, if one falls due (R76). -/
def Notice.activated (n : Notice) (now : Nat) : Option Notice :=
  if !n.isActive && fallsDue n.startTime now then some { n with state := .active n.startTime } else none

/-- What a walk did to one record. -/
structure Walked where
  reports : List ReportBody
  after : Option Notice
  touched : List Nat
  deriving DecidableEq, Repr

/-- One record in a clock walk: first the activation, then the expiry (R70). -/
def Notice.walk (n : Notice) (now : Nat) : Walked :=
  let m := (n.activated now).getD n
  let activation := if (n.activated now).isSome then [n.report .activated] else []
  if fallsDue m.endTime now then
    ⟨activation ++ [m.report .expired], none, if m.isActive then m.segments else []⟩
  else ⟨activation, some m, if (n.activated now).isSome then m.segments else []⟩

/-- A clock walk at a time: list and reports changed, touched segments given back (R70). -/
def State.walkList (now : Nat) (s : State) : State × List Nat :=
  let walked := s.retained.notices.map fun n => n.walk now
  ((s.withNotices (walked.filterMap Walked.after)).reports (walked.flatMap Walked.reports),
    walked.flatMap Walked.touched)

/-- A clock walk with its hand-over (R70, R79). -/
def State.clockWalk (now : Nat) (s : State) : State :=
  let (s, touched) := s.walkList now
  s.handTouched touched

/-! ## The Pass Clock (R68) -/

/-- The Pass Clock set to a time. -/
def State.withClock (time : Option Nat) (s : State) : State := s.withRetained { s.retained with clock := time }

/-- The clock one second on: it stops at its last time (R68). -/
def nextSecond (time : Nat) : Nat := if time < Config.clockEnd then time + 1 else time

/-! ## Part-made notices (R81 to R83) -/

/-- A part-made notice: one segment, a closure with no start, end or text (R81, R83). -/
def partMade (number segment : Nat) (reason : Reason) (origin : Origin) (since : Option Nat) : Notice :=
  ⟨number, .closure, [segment], reason, none, none, none, origin, .active since⟩

/-- The held notice of a segment (R81). -/
def heldNotice (segment : Nat) : Notice := partMade (60100 + segment) segment .other .held none

/-- The autonomous notice of a segment made at a time (R83). -/
def autonomousNotice (segment : Nat) (since : Option Nat) : Notice :=
  partMade (60200 + segment) segment .avalanche .autonomous since

/-- Whether auto-close allows an autonomous closure now (R82, condition 1). -/
def State.autoCloses (s : State) : Bool :=
  match s.settings.autoClose with
  | .off => false
  | .always => true
  | .unattendedOnly => !s.line.attended

/-- The three conditions of an autonomous ask (R82). -/
def State.grantsAsk (s : State) (segment : Nat) : Bool :=
  s.autoCloses && !(s.retained.notices.any (Notice.covers .closure segment)) &&
    (findNotice (60200 + segment) s.retained.notices).isNone

/-- An autonomous-closure ask for a segment (R82, R83). -/
def State.askClosure (segment : Nat) (s : State) : State :=
  if s.grantsAsk segment then
    let n := autonomousNotice segment s.retained.clock
    ((s.withNotices (insertNotice n s.retained.notices)).report (n.report .created)).handTouched [segment]
  else s

end Sys2Proof.Machine
end

