-- ==== Sys2Proof/Machine/Paths.lean ====
section
/-! DEFINITION. The Path Table: computed levels, floors, effective levels and the autonomous trigger
(R49, R54 to R56, R59 to R63). -/

namespace Sys2Proof.Machine

/-- The figures of a path number replaced. -/
def State.withFigures (path : Nat) (f : PathFigures) (s : State) : State :=
  s.withRetained { s.retained with paths := putItem s.retained.paths path f }

/-! ## Computed level (R55, R56) -/

/-- The threshold of a level 1 to 4. -/
def PathRecord.threshold (r : PathRecord) (level : Nat) : Nat :=
  match level with
  | 1 => r.t1
  | 2 => r.t2
  | 3 => r.t3
  | 4 => r.t4
  | _ => 0

/-- The candidate level of an index (R55). -/
def PathRecord.candidate (r : PathRecord) (h : Nat) : Nat :=
  if r.t4 ≤ h then 4 else if r.t3 ≤ h then 3 else if r.t2 ≤ h then 2 else if r.t1 ≤ h then 1 else 0

/-- The computed level after a new index (R55, R56). -/
def PathRecord.levelAfter (r : PathRecord) (level h : Nat) : Nat :=
  if level < r.candidate h then r.candidate h
  else if r.candidate h < level && h + r.band < r.threshold level then level - 1
  else level

/-- A floor counted down at a step end (R59). -/
def countedDown (f : Option Floor) : Option Floor :=
  match f with
  | none => none
  | some f => if f.remaining ≤ 1 then none else some { f with remaining := f.remaining - 1 }

/-- A path's figures after the step-end hand-over of a new index (R54). -/
def PathRecord.stepFigures (r : PathRecord) (f : PathFigures) (h : Nat) : PathFigures :=
  ⟨h, r.levelAfter f.level h, countedDown f.floor⟩

/-! ## Changes of E (R61 to R63) -/

/-- The effective level of a path before and after an event. -/
structure Rise where
  path : Nat
  before : Nat
  after : Nat
  h : Nat
  deriving DecidableEq, Repr

/-- The LEVEL report of a change of E (R61). -/
def Rise.report (r : Rise) : ReportBody := .level r.path r.before r.after r.h

/-- The segments a path threatens, ascending. -/
def Settings.threatens (c : Settings) (path : Nat) : List Nat :=
  match lookup c.paths path with
  | some r => ascending 8 r.segments
  | none => []

/-- The segments some paths threaten, ascending. -/
def Settings.threatenedBy (c : Settings) (paths : List Nat) : List Nat := ascending 8 (paths.flatMap c.threatens)

/-- The autonomous trigger of a path: an ask for each segment it threatens, ascending (R63). -/
def State.trigger (path : Nat) (s : State) : State :=
  (s.settings.threatens path).foldl (fun s k => s.askClosure k) s

/-- The changes of E of one event: reported in path order, handed on together, then the triggers (R54, R61 to R63).
`rises` are the changes, in ascending path number. -/
def State.handLevels (rises : List Rise) (s : State) : State :=
  match rises with
  | [] => s
  | _ =>
    let s := s.reports (rises.map Rise.report)
    let segments := s.settings.threatenedBy (rises.map Rise.path)
    let s := s.handOver segments (s.settings.announcing segments)
    ((rises.filter fun r => r.before < 4 && r.after == 4).map Rise.path).foldl (fun s k => s.trigger k) s

/-- The path takes new figures; the change of E, if there is one, is given back. -/
def riseOf (path : Nat) (before after : PathFigures) : List Rise :=
  if before.effective = after.effective then [] else [⟨path, before.effective, after.effective, after.h⟩]

/-- One path takes its new index at a step end (R54). -/
def State.takeIndex (s : State) (e : PathEntry) : PathFigures :=
  match lookup s.settings.paths e.path with
  | some r => r.stepFigures (s.figures e.path) e.h
  | none => s.figures e.path

/-- The step-end hand-over of the new indices (R42, R54). -/
def State.takeIndices (es : List PathEntry) (s : State) : State :=
  let new := es.map fun e => (e.path, s.figures e.path, s.takeIndex e)
  let s' := new.foldl (fun s x => s.withFigures x.1 x.2.2) s
  s'.handLevels (new.flatMap fun x => riseOf x.1 x.2.1 x.2.2)

end Sys2Proof.Machine
end

