-- ==== Sys2Proof/Machine/Weather.lean ====
section
/-! DEFINITION. The Weather Unit: the computations of the step end, the step record and its hand-overs
(R21 to R47). -/

namespace Sys2Proof.Machine

/-! ## Precipitation and wind (R28, R32) -/

/-- P of a step and whether it was clamped (R28). -/
def precipitation (tips tipSize : Nat) : Nat × Bool :=
  let p := tips * tipSize / 10
  if 500 < p then (500, true) else (p, false)

/-- U of a step and whether it was clamped (R32). -/
def windSpeed (pulses run : Nat) : Nat × Bool :=
  let u := pulses * run / 60000
  if 600 < u then (600, true) else (u, false)

/-! ## Temperature (R29, R30) -/

/-- The temperature of a valid step (R29). -/
def stepTemperature (count sum : Nat) : Int := ((sum / count : Nat) - 5000 : Int) / 10

/-- T of a step, its state and the memory after it (R29, R30). -/
def temperature (memory : Option TempMemory) (count sum : Nat) : Option Int × TempState × Option TempMemory :=
  if 60 ≤ count then (some (stepTemperature count sum), .valid, some ⟨stepTemperature count sum, 0⟩)
  else
    match memory with
    | none => (none, .fault, none)
    | some m => if m.held < 3 then (some m.value, .held (m.held + 1), some { m with held := m.held + 1 })
      else (none, .fault, some m)

/-! ## Prevailing sector (R33, R34) -/

/-- The largest of the sector bins. -/
def largestBin (bins : Vector Nat 8) : Nat := bins.toList.foldl max 0

/-- The sectors whose bins share the largest count, ascending. -/
def tiedSectors (bins : Vector Nat 8) : List Nat :=
  (List.range 8).filter fun k => bins[k]? == some (largestBin bins)

/-- The sector among the tied ones (R34). -/
def breakTie (tied : List Nat) (previous : Option Nat) : Nat :=
  match previous with
  | some p => if tied.contains p then p else tied.headD 0
  | none => tied.headD 0

/-- The prevailing sector; `none` is NONE (R33, R34). -/
def prevailingSector (bins : Vector Nat 8) (invalid : Nat) (previous : Option Nat) : Option Nat :=
  if 300 < invalid then none else some (breakTie (tiedSectors bins) previous)

/-! ## The hazard update (R35 to R39) -/

/-- What the hazard update takes from the weather of a step. -/
structure StepWeather where
  p : Nat
  t : Option Int
  u : Nat
  sector : Option Nat
  deriving DecidableEq, Repr

/-- The snow fraction f in percent (R36). -/
def snowFraction (t : Option Int) : Nat :=
  match t with
  | none => 100
  | some t => if t ≤ 0 then 100 else if t < 20 then (100 - 5 * t).toNat else 0

/-- The snow load (R36). -/
def snowLoad (p f s : Nat) : Nat := (p * f / 100) * s / 10

/-- Whether a path is loaded by the wind of a sector (R37). -/
def loadedBy (lee : BitVec 8) (sector : Option Nat) : Bool :=
  match sector with
  | none => true
  | some k => lee.getLsbD k

/-- The wind load (R37). -/
def windLoad (u : Nat) (lee : BitVec 8) (sector : Option Nat) (w : Nat) : Nat :=
  if u < 40 || !loadedBy lee sector then 0 else min 400 ((u - 40) * (u - 40) / 16) * w / 100

/-- The warming load (R38). -/
def warmLoad (t : Option Int) (m : Nat) : Nat :=
  match t with
  | none => 0
  | some t => if t ≤ 10 then 0 else (t - 10).toNat * m / 100

/-- The decay (R39). -/
def decay (h r : Nat) : Nat := h * r / 1000

/-- The raw index (R39). -/
def rawIndex (r : PathRecord) (w : StepWeather) (h : Nat) : Nat :=
  h - decay h r.settling + snowLoad w.p (snowFraction w.t) r.snow + windLoad w.u r.lee w.sector r.wind +
    warmLoad w.t r.warming

/-- The new index of a path and whether it was clamped (R39). -/
def hazardUpdate (r : PathRecord) (w : StepWeather) (h : Nat) : Nat × Bool :=
  (min (rawIndex r w h) 10000, 10000 < rawIndex r w h)

/-! ## The latch (R13, R24) -/

/-- The totals of the channel that holds a role, if one does (R24). -/
def State.roleTotals (s : State) (role : ChannelRole) : Option ChannelTotals :=
  match s.settings.calibration.numbered.find? (fun x => x.2.role == role) with
  | some x => itemAt s.field.channels x.1
  | none => none

/-- The count of an EVENT channel, 0 for none. -/
def eventCount (c : Option ChannelTotals) : Nat :=
  match c with
  | some (.event count) => count
  | _ => 0

/-- In-range count and sum of a WIDTH channel, 0 for none. -/
def widthTotals (c : Option ChannelTotals) : Nat × Nat :=
  match c with
  | some (.width count sum _) => (count, sum)
  | _ => (0, 0)

/-- The bins of a VANE channel; 600 INVALID for none (R24). -/
def vaneTotals (c : Option ChannelTotals) : Vector Nat 8 × Nat :=
  match c with
  | some (.vane bins invalid) => (bins, invalid)
  | _ => (Vector.replicate 8 0, 600)

/-! ## The step end (R23) -/

/-- Entry of one path in the step record (R39, R44). -/
def State.pathEntry (s : State) (w : StepWeather) (x : Nat × PathRecord) : PathEntry :=
  let r := hazardUpdate x.2 w (s.figures x.1).h
  ⟨x.1, r.1, r.2⟩

/-- Whether the state of T is HELD. -/
def TempState.isHeld : TempState → Bool
  | .held _ => true
  | .valid => false
  | .fault => false

/-- The step record of the ending step, from the channels and settings as they stand (R23, R44). -/
def State.stepRecord (s : State) : StepRecord :=
  let c := s.settings.calibration
  let precip := s.roleTotals .precip
  let tips := eventCount precip
  let p := precipitation tips c.tipSize
  let temp := widthTotals (s.roleTotals .temp)
  let t := temperature s.retained.lastTemp temp.1 temp.2
  let pulses := eventCount (s.roleTotals .wind)
  let u := windSpeed pulses c.airRun
  let vane := vaneTotals (s.roleTotals .vane)
  let sector := prevailingSector vane.1 vane.2 s.retained.prevSector
  let es := (entries s.settings.paths).map (s.pathEntry ⟨p.1, t.1, u.1, sector⟩)
  { number := s.weather.number
    endTime := s.retained.clock
    tips := tips
    p := p.1
    tempPulses := temp.1
    t := t.1
    tState := t.2.1
    pulses := pulses
    u := u.1
    sector := sector
    bins := vane.1
    invalid := vane.2
    flags :=
      { noPrecip := precip.isNone
        tHeld := t.2.1.isHeld
        tFault := t.2.1 == .fault
        vane := sector.isNone
        pClamp := p.2
        uClamp := u.2
        hClamp := es.any PathEntry.clamped }
    entries := es }

/-- The last-temperature memory after the ending step (R30). -/
def State.memoryAfter (s : State) : Option TempMemory :=
  let temp := widthTotals (s.roleTotals .temp)
  (temperature s.retained.lastTemp temp.1 temp.2).2.2

/-- The history with a record added, the oldest of 36 leaving (R45). -/
def addToHistory (history : List StepRecord) (r : StepRecord) : List StepRecord :=
  (if history.length < Config.historySize then history else history.drop 1) ++ [r]

/-- The temperature readout of a step (R43). -/
def tempReadout (t : Option Int) (state : TempState) : TempReadout :=
  match t, state with
  | some v, .valid => .valid v
  | some v, .held _ => .held v
  | some _, .fault => .fault
  | none, _ => .fault

/-- The STEP report of a record (R47). -/
def StepRecord.report (r : StepRecord) : ReportBody := .step r.number r.p r.t r.tState r.u r.sector r.flags

/-- The signs whose profile has the weather layer on (R154). -/
def Settings.weatherSigns (c : Settings) : List Nat :=
  (numbers 16).filter fun k =>
    match lookup c.signs k with
    | some r => (c.profileOf r).weather
    | none => false

/-- The new readouts, and the signs that show them recomposed (R43, R154). -/
def State.takeReadouts (r : StepRecord) (s : State) : State :=
  let s := s.withComposer { s.composer with temp := tempReadout r.t r.tState, wind := some r.u }
  s.recompose s.settings.weatherSigns

/-- The memories, history, step number and timer after the ending step (R21, R22, R30, R34, R45). -/
def State.closeStep (r : StepRecord) (s : State) : State :=
  let s := s.withRetained { s.retained with
    lastTemp := s.memoryAfter
    prevSector := if r.sector.isSome then r.sector else s.retained.prevSector }
  s.withWeather
    { timer := 0
      began := s.weather.began + Config.stepSeconds * usPerSecond
      number := (s.weather.number + 1) % 65536
      history := addToHistory s.weather.history r }

/-- The step end (R23). -/
def State.endStep (s : State) : State :=
  let r := s.stepRecord
  let s := (s.closeStep r).emptyChannels
  ((s.report r.report).takeIndices r.entries).takeReadouts r

end Sys2Proof.Machine
end

