-- ==== Sys2Proof/Machine/Start.lean ====
section
/-! DEFINITION. Losing the supply and taking a start: the start states of the blocks in their order (R200 to R202,
with R1, R6, R10, R17, R66, R67, R81, R86, R104, R133, R162, R178, R194). -/

namespace Sys2Proof.Machine

/-! ## Supply (R199, R201; assumption 19) -/

/-- The volatile state is lost; pins, Retained Area and saved copy live on (assumption 19). -/
def State.toReset (retained : Retained) (s : State) : State :=
  State.heldInReset s.pending s.field.lines retained s.store.saved s.store.writes s.clockNext s.schedule s.lastStart

/-- The loss of the main supply, which may cut an update of the area check off (R199). -/
def State.supplyLost (areaCut : Bool) (s : State) : State :=
  s.toReset { s.retained with checkHolds := s.retained.checkHolds && !areaCut }

/-! ## Start states, in the order of R200 -/

/-- The settings a start loads (R198). -/
def loadedSettings (saved : Option Settings) : Settings :=
  match saved with
  | some c => c
  | none => factorySettings

/-- Field Interface: accepted levels from the lines, outputs off, channels empty, clear-zone timers from their
presence inputs (R1, R6, R7, R10, R17). -/
def startField (c : Settings) (lines : Vector Bool 16) : FieldInterface where
  lines := lines
  inputs := lines.map fun level => ⟨level, none⟩
  outputs := Vector.replicate 16 false
  channels := c.calibration.channels.map fun x => x.fresh (levelAt lines x.source) 0
  clearZones := c.gates.map fun g =>
    match g with
    | some r => zoneFrom r.presence (levelAt lines r.presence)
    | none => .idle

/-- Path Table: an entry without a path record is cleared (R66, R67). -/
def startFigures (c : Settings) (paths : Vector PathFigures 12) : Vector PathFigures 12 :=
  Vector.zipWith (fun r f => if r.isSome then f else PathFigures.cleared) c.paths paths

/-- Gate Sequencer: every defined gate derived, and the order for its start state given (R133). No closure is in
force yet, since no segment state exists. -/
def State.startGates (s : State) : State :=
  let s' := s.withGates (s.settings.gates.map fun g => g.map s.deriveGate)
  (entries s'.settings.gates).foldl
    (fun s x =>
      match s.gate x.1 with
      | some g => s.applyOrder (x.2.order g.position)
      | none => s) s'

/-- The segments that get a held notice at a cold start: those with an entry gate derived DOWN, ascending (R81). -/
def State.heldSegments (s : State) : List Nat :=
  (defined s.settings.segments).filter fun k => (s.entryPositions k).contains .down

/-- A held notice is made and reported (R81). -/
def State.makeHeld (s : State) (segment : Nat) : State :=
  let n := heldNotice segment
  (s.withNotices (insertNotice n s.retained.notices)).report (n.report .created)

/-- Notice List: the walk of a warm start against a SET clock, or the held notices of a cold start (R81, R86). -/
def State.startNotices (kind : StartKind) (s : State) : State :=
  match kind with
  | .cold => s.heldSegments.foldl State.makeHeld s
  | .warm =>
    match s.retained.clock with
    | some now => (s.walkList now).1
    | none => s

/-- Every defined segment derived from its sources as they stand. -/
def State.deriveSegments (s : State) : State :=
  s.withSegments (Vector.ofFn fun (i : Fin 8) =>
    (s.settings.segments.get i).map fun r => s.deriveSegment (i.val + 1) r)

/-- A gate found UP answers the start tell of closure in force: WARNING with no hold, ordered and not reported
(R104, R133). -/
def State.startWarning (s : State) (x : Nat × GateRecord) : State :=
  match s.gate x.1 with
  | some g =>
    if g.position = .up && s.cif x.2.segment then
      (s.withGate x.1 (some (GateState.resting .warning 0))).applyOrder (x.2.order .warning)
    else s
  | none => s

/-- Segment Evaluator: derived, the gates told, and derived again from the gate states that result (R104). -/
def State.startSegments (s : State) : State :=
  let s := s.deriveSegments
  ((entries s.settings.gates).foldl State.startWarning s).deriveSegments

/-- Sign Composer: every defined sign with transparent pages, composed and marked (R162). -/
def State.startSigns (s : State) : State :=
  s.withComposer
    { temp := .noStep
      wind := none
      signs := Vector.ofFn fun (i : Fin 16) => (s.settings.signs.get i).map fun r =>
        ⟨.transparent, .transparent, s.compose (i.val + 1) r .transparent, true⟩ }

/-- String Controller: fresh panel records, and both arbiters choose (R178). -/
def State.startStrings (s : State) : State :=
  (s.withStrings ⟨s.settings.signs.map fun r => r.map fun _ => PanelRecord.fresh, none, none, [.a, .b], []⟩).runArbiters

/-- The RESTART report of a start (R202). -/
def State.restartReport (s : State) (kind : StartKind) (cause : StartCause) (reason : Option ColdReason) :
    ReportBody :=
  .restart kind cause reason s.store.saved.isNone (defined s.settings.paths).length
    (defined s.settings.segments).length (defined s.settings.gates).length (defined s.settings.signs).length
    s.retained.notices.length

/-- The kind of a start (R200). -/
def startKind (checkHolds : Bool) : StartKind := if checkHolds then .warm else .cold

/-- Why a start is cold, if it is (R202). -/
def coldReason (checkHolds requested : Bool) : Option ColdReason :=
  if checkHolds then none else some (if requested then .requested else .retainedInvalid)

/-- The part with its settings loaded and the states of blocks 1 to 4 of R200 taken (R194, R198, R1, R21, R66). -/
def State.loaded (s : State) : State :=
  let retained := if s.retained.checkHolds then s.retained else Retained.cleared
  let c := loadedSettings s.store.saved
  { s with
    powered := true
    now := 0
    field := startField c s.field.lines
    weather := ⟨0, 0, 0, []⟩
    retained := { retained with paths := startFigures c retained.paths }
    line := ⟨.hunting, 0, [], none, none, [], .free, [], 0, 0, true⟩
    store := { s.store with working := c, write := none }
    lastStart := startKind s.retained.checkHolds }

/-- A start, from the state the part is held in (R200, R202). `requested` says that a cold RESTART cleared the area. -/
def State.startPart (cause : StartCause) (requested : Bool) (s : State) : State :=
  let kind := startKind s.retained.checkHolds
  let s' := (((s.loaded.startGates.startNotices kind).startSegments).startSigns).startStrings
  let s' := s'.report (s'.restartReport kind cause (coldReason s.retained.checkHolds requested))
  s'.withRetained { s'.retained with checkHolds := true }

/-! ## The two ways to a start -/

/-- The supply monitor releases the part (R199, R200; assumptions 16, 17, 20). -/
def State.released (retainedKept : Bool) (phase : Moment) (s : State) : State :=
  let s := s.toReset { s.retained with checkHolds := s.retained.checkHolds && retainedKept }
  ({ s with clockNext := phase }).startPart .supply false

/-- A RESTART takes effect: a cold one has cleared the Retained Area, and the clock goes on counting (R69, R201). -/
def State.restarted (kind : StartKind) (s : State) : State :=
  let retained :=
    match kind with
    | .warm => s.retained
    | .cold => Retained.cleared
  let r := s.toReset retained
  ({ r with clockNext := s.clockNext - s.now }).startPart .request (kind == StartKind.cold)

end Sys2Proof.Machine
end

