-- ==== Sys2Proof/Machine/Requests.lean ====
section
/-! DEFINITION. What the requests about numbered items share: the order of their checks, and the working settings
with one record replaced (R65, R102, R103, R131, R137, R139, R161, R195). -/

namespace Sys2Proof.Machine

/-- A query naming an item: wrong length, number out of range, no record, and otherwise the reply, with nothing
changed. -/
def queryItem {α : Type} {n : Nat} (fields : List Byte) (table : Vector (Option α) n) (reply : Nat → α → List Byte)
    (s : State) : State × Answer :=
  if fields.length ≠ 1 then refuse .malformed s
  else if !within 1 n (byteAt fields 0) then refuse .range s
  else
    match lookup table (byteAt fields 0) with
    | none => refuse .unknownItem s
    | some r => accept (reply (byteAt fields 0) r) s

/-- A removal of an item: number out of range, no record, and otherwise the owning block's own checks and effects. -/
def removeItem {α : Type} {n : Nat} (k : Nat) (table : Vector (Option α) n) (f : α → State → State × Answer)
    (s : State) : State × Answer :=
  if !within 1 n k then refuse .range s
  else
    match lookup table k with
    | none => refuse .unknownItem s
    | some r => f r s

/-! ## The working settings with one record replaced (R195) -/

def Settings.setPath (k : Nat) (r : Option PathRecord) (c : Settings) : Settings := { c with paths := putItem c.paths k r }
def Settings.setSegment (k : Nat) (r : Option SegmentRecord) (c : Settings) : Settings :=
  { c with segments := putItem c.segments k r }
def Settings.setGate (k : Nat) (r : Option GateRecord) (c : Settings) : Settings := { c with gates := putItem c.gates k r }
def Settings.setSign (k : Nat) (r : Option SignRecord) (c : Settings) : Settings := { c with signs := putItem c.signs k r }
def Settings.setProfile (k : Nat) (r : Option ProfileRecord) (c : Settings) : Settings :=
  { c with profiles := putItem c.profiles k r }
def Settings.setGroup (k : Nat) (r : Option (List Nat)) (c : Settings) : Settings :=
  { c with groups := putItem c.groups k r }

/-- The working settings changed (R195). -/
def State.change (f : Settings → Settings) (s : State) : State := s.withSettings (f s.settings)

end Sys2Proof.Machine
end

