-- ==== Sys2Proof/Machine/FieldCommands.lean ====
section
/-! DEFINITION. The commands of the Field Interface and the Weather Unit: CALIBRATE, FIELD_LINE_CHANGE, CHANGE_EVENT,
WIDTH_EDGE, VANE_SAMPLE, CLEAR_ZONE_EXPIRY, STEP_END and QUERY_STEP (R2 to R18, R21, R23, R46). -/

namespace Sys2Proof.Machine

/-! ## CALIBRATE -/

/-- The lines a calibration set names, channel by channel. -/
def Calibration.named (c : Calibration) : List Nat := c.channels.toList.flatMap ChannelConfig.lines

/-- The roles a calibration set gives, NONE left out. -/
def Calibration.roles (c : Calibration) : List ChannelRole :=
  (c.channels.toList.map ChannelConfig.role).filter fun r => r != .noRole

/-- Whether a calibration set conflicts with the gate records or within itself (R18). -/
def Settings.calibrationConflict (c : Settings) (new : Calibration) : Bool :=
  (new.named.any fun l => (entries c.gates).any fun x => x.2.inputs.contains l) || !distinct new.named ||
    !decide new.roles.Nodup

/-- The checks of CALIBRATE: a refusal, or the set (R18). -/
def checkCalibration (c : Settings) (f : List Byte) : Except RefusalCode Calibration :=
  if f.length ≠ 43 then .error .malformed
  else
    match calibrationOf f with
    | none => .error .range
    | some new =>
      if !new.inRange then .error .range
      else if c.calibrationConflict new then .error .conflict
      else .ok new

/-- A channel under a new set: untouched where mode, role and lines are the same, else it begins anew
(R10, R12, R14). -/
def State.recalibrated (s : State) (old new : ChannelConfig) (t : ChannelTotals) : ChannelTotals :=
  if old = new then t else new.fresh (s.pin new.source) s.weather.timer

/-- The channels under a new set. -/
def State.newChannels (s : State) (old new : Calibration) : Vector ChannelTotals 6 :=
  Vector.ofFn fun (i : Fin 6) =>
    s.recalibrated (old.channels.get i) (new.channels.get i) (s.field.channels.get i)

/-- An input that becomes a WIDTH source leaves debounce: no candidate, and the level on its line (R3, R4). -/
def State.newInputs (s : State) (old new : Calibration) : Vector InputState 16 :=
  Vector.ofFn fun (i : Fin 16) =>
    if new.isWidthSource (i.val + 1) && !old.isWidthSource (i.val + 1) then ⟨s.field.lines.get i, none⟩
    else s.field.inputs.get i

/-- An accepted CALIBRATE (R3, R14, R18). -/
def State.calibrate (new : Calibration) (s : State) : State :=
  let old := s.settings.calibration
  (s.change fun c => { c with calibration := new }).withField
    { s.field with channels := s.newChannels old new, inputs := s.newInputs old new }

/-- CALIBRATE carried out (R18). -/
def carryCalibrate (f : List Byte) (s : State) : State × Answer :=
  match checkCalibration s.settings f with
  | .error code => refuse code s
  | .ok new => accept [] (s.calibrate new)

/-- CALIBRATE (R18). -/
def execCalibrate (t : Moment) (tag : Byte) (fields : List Byte) (s : State) : Result :=
  request t kindCalibrate tag fields (carryCalibrate fields) s

/-! ## Lines -/

/-- FIELD_LINE_CHANGE: the level on a line becomes `high` (R2, R4; assumption 21). A part held in reset has pins. -/
def execFieldLineChange (t : Moment) (line : Nat) (high : Bool) (s : State) : Result :=
  if s.powered then event t (State.lineTransition line high) s else .next (s.withPin line high)

/-- CHANGE_EVENT: an input's candidate has been held for its debounce time (R2). -/
def execChangeEvent (t : Moment) (line : Nat) (s : State) : Result :=
  event t (fun s =>
    match s.candidateHeld line with
    | some c => s.acceptChange line c
    | none => s) s

/-- WIDTH_EDGE: a transition on the source of a WIDTH channel (R4, R9; assumption 21). -/
def execWidthEdge (t : Moment) (line : Nat) (high : Bool) (s : State) : Result :=
  if s.powered then
    event t (fun s => if s.settings.calibration.isWidthSource line then s.lineTransition line high else s) s
  else .next (s.withPin line high)

/-- CLEAR_ZONE_EXPIRY: a clear-zone hold ends; the expiry is handed to the Gate Sequencer (R15 to R17, R117). -/
def execClearZoneExpiry (t : Moment) (gate : Nat) (s : State) : Result :=
  event t (fun s => if s.zoneEnded gate then (s.withZone gate .idle).loweringTest gate else s) s

/-! ## The step timer -/

/-- The moment of the step timer's next second. -/
def State.nextSample (s : State) : Moment := s.weather.began + (s.weather.timer + 1) * usPerSecond

/-- VANE_SAMPLE: the step timer counts a second and every VANE channel samples (R11, R21; assumption 18). -/
def execVaneSample (t : Moment) (s : State) : Result :=
  event t (fun s =>
    if s.weather.timer < Config.stepSeconds && s.nextSample ≤ s.now then
      (s.takeSamples).withWeather { s.weather with timer := s.weather.timer + 1 }
    else s) s

/-- STEP_END: the step timer stands at 600 (R21, R23). -/
def execStepEnd (t : Moment) (s : State) : Result :=
  event t (fun s => if s.weather.timer = Config.stepSeconds then s.endStep else s) s

/-! ## QUERY_STEP -/

/-- Path entries of a step record (R209). -/
def entryBytes (e : PathEntry) : List Byte := byte e.path :: (word e.h ++ [flagByte e.clamped])

/-- A step record as QUERY STEP returns it (R46, R209). -/
def stepBytes (r : StepRecord) : List Byte :=
  word r.number ++ timeBytes r.endTime ++ word r.tips ++ word r.p ++ word r.tempPulses ++ tempBytes r.t ++
    [r.tState.code] ++ word r.pulses ++ word r.u ++ [sectorByte r.sector] ++ r.bins.toList.flatMap word ++
    word r.invalid ++ [r.flags.toByte, byte r.entries.length] ++ r.entries.flatMap entryBytes

/-- QUERY STEP carried out: NEWEST is form 1, NUMBERED form 2 (R46, R215). -/
def carryQueryStep (f : List Byte) (s : State) : State × Answer :=
  if f.length ≠ 3 then refuse .malformed s
  else
    let found :=
      match byteAt f 0 with
      | 1 => some s.weather.history.getLast?
      | 2 => some (s.weather.history.find? fun r => r.number == wordAt f 1)
      | _ => none
    match found with
    | none => refuse .range s
    | some none => refuse .unknownItem s
    | some (some r) => accept (stepBytes r) s

/-- QUERY_STEP (R46). -/
def execQueryStep (t : Moment) (tag : Byte) (fields : List Byte) (s : State) : Result :=
  request t kindQueryStep tag fields (carryQueryStep fields) s

end Sys2Proof.Machine
end

