-- ==== Sys2Proof/Machine/GateRequests.lean ====
section
/-! DEFINITION. The requests of the Gate Sequencer, DEFINE_GATE, REMOVE_GATE, GATE_RAISE, GATE_CLEAR and QUERY_GATE,
and the moments of its timers, HOLD_DEADLINE and TRAVEL_TIMEOUT (R19, R20, R106 to R108, R116, R121, R129 to R131). -/

namespace Sys2Proof.Machine

/-! ## DEFINE_GATE -/

/-- The gate records other than that of a number. -/
def Settings.otherGates (c : Settings) (k : Nat) : List GateRecord :=
  ((entries c.gates).filter fun x => x.1 != k).map Prod.snd

/-- Whether a line of a gate record conflicts (R19). -/
def Settings.lineConflict (c : Settings) (k : Nat) (r : GateRecord) : Bool :=
  !distinct r.inputs || !distinct r.outputs ||
    (r.inputs.any fun l => ((c.otherGates k).any fun g => g.inputs.contains l) ||
      (c.calibration.channels.any fun x => x.lines.contains l)) ||
    (r.outputs.any fun l => (c.otherGates k).any fun g => g.outputs.contains l)

/-- Whether a sign announces a segment. -/
def Settings.signAnnounces (c : Settings) (sign segment : Nat) : Bool :=
  match lookup c.signs sign with
  | some r => r.segments.contains segment
  | none => false

/-- Whether a gate is moving (R106, R108). -/
def GatePosition.inMotion : GatePosition → Bool
  | .lowering => true
  | .raising _ => true
  | .up => false
  | .warning => false
  | .down => false
  | .stopped _ => false
  | .inLocal => false

/-- Whether the gate of a number is moving. -/
def State.gateInMotion (s : State) (k : Nat) : Bool :=
  match s.gate k with
  | some g => g.position.inMotion
  | none => false

/-- The checks of DEFINE GATE (R106). -/
def State.gateRefusal (s : State) (f : List Byte) : Option RefusalCode :=
  let r := gateOf f
  if f.length ≠ 17 then some .malformed
  else if !(within 1 8 (byteAt f 0) && within 1 3 (byteAt f 13) && r.inRange) then some .range
  else if (lookup s.settings.segments r.segment).isNone ||
      !(r.approach.all fun k => (lookup s.settings.signs k).isSome) then some .unknownItem
  else if !(r.approach.all fun k => s.settings.signAnnounces k r.segment) then some .range
  else if s.settings.lineConflict (byteAt f 0) r then some .conflict
  else if (lookup s.settings.gates (byteAt f 0)).isSome && s.gateInMotion (byteAt f 0) then some .inMotion
  else none

/-- The outputs a replaced record no longer names in their place, turned off (R6, R20). -/
def droppedOutputs (old : Option GateRecord) (new : GateRecord) : List (Nat × Bool) :=
  match old with
  | none => []
  | some r =>
    (if r.lower = new.lower then [] else [(r.lower, false)]) ++
      (if r.raise = new.raise then [] else [(r.raise, false)]) ++
      (if r.flasher = new.flasher then [] else [(r.flasher, false)])

/-- The clear-zone timer of a gate whose record is defined or replaced (R17). -/
def State.zoneAfter (s : State) (k : Nat) (old : Option GateRecord) (new : GateRecord) : ClearZone :=
  let kept :=
    match old with
    | some r => r.presence == new.presence
    | none => false
  if kept then (itemAt s.field.clearZones k).getD .idle else zoneFrom new.presence (s.accepted new.presence)

/-- The segments of an old and a new gate record, and their approach signs, are handed on (R107). -/
def handGateRecord (old : Option GateRecord) (new : GateRecord) (s : State) : State :=
  match old with
  | none => s.handOver [new.segment] (ascending 16 new.approach)
  | some r => s.handOver (ascending 8 [r.segment, new.segment]) (ascending 16 (r.approach ++ new.approach))

/-- The report of a defined gate: always for a new one, on a change for a replaced one (R107). -/
def gateDefined (k : Nat) (before : Option GatePosition) (after : GateState) : List ReportBody :=
  if before = some after.position then []
  else [.gate k before (some after.position) after.reversals .define]

/-- An accepted DEFINE GATE (R107). -/
def State.putGate (k : Nat) (r : GateRecord) (s : State) : State :=
  let old := lookup s.settings.gates k
  let before := (s.gate k).map GateState.position
  let s := s.change (Settings.setGate k (some r))
  let s := (s.applyOrder (droppedOutputs old r)).withZone k (s.zoneAfter k old r)
  let g := s.deriveGate r
  let s := (s.withGate k (some g)).applyOrder (r.order g.position)
  handGateRecord old r (s.reports (gateDefined k before g))

/-- State and stop cause of a gate, 0 where it has none. -/
def State.gateStateBytes (s : State) (k : Nat) : List Byte :=
  match s.gate k with
  | some g => [g.position.code, g.position.stopCode]
  | none => [0, 0]

/-- DEFINE GATE carried out (R106, R107). -/
def carryDefineGate (f : List Byte) (s : State) : State × Answer :=
  match s.gateRefusal f with
  | some code => refuse code s
  | none =>
    let s := s.putGate (byteAt f 0) (gateOf f)
    accept (byte (byteAt f 0) :: s.gateStateBytes (byteAt f 0)) s

/-- DEFINE_GATE (R106, R107). -/
def execDefineGate (t : Moment) (tag : Byte) (fields : List Byte) (s : State) : Result :=
  request t kindDefineGate tag fields (carryDefineGate fields) s

/-! ## REMOVE_GATE -/

/-- The removal of a gate (R108, R20). -/
def State.dropGate (k : Nat) (r : GateRecord) (s : State) : State :=
  let before := (s.gate k).map GateState.position
  let s := (s.change (Settings.setGate k none)).withGate k none
  let s := (s.applyOrder (r.outputs.map fun l => (l, false))).withZone k .idle
  (s.report (.gate k before none 0 .define)).handOver [r.segment] (ascending 16 r.approach)

/-- REMOVE ITEM naming a gate carried out (R108). -/
def carryRemoveGate (k : Nat) (s : State) : State × Answer :=
  removeItem k s.settings.gates
    (fun r s => if s.gateInMotion k then refuse .inMotion s else accept [byte k] (s.dropGate k r)) s

/-- REMOVE_GATE (R108). -/
def execRemoveGate (t : Moment) (tag : Byte) (fields : List Byte) (s : State) : Result :=
  removal t itemGate tag fields carryRemoveGate s

/-! ## GATE_RAISE -/

/-- Whether Hmax of a segment is at or above its permit level (R129). -/
def State.hazardBlocks (s : State) (segment : Nat) : Bool :=
  match lookup s.settings.segments segment, lookup s.segments segment with
  | some r, some g => r.permit ≤ g.hmax
  | _, _ => false

/-- The request of a gate number: wrong length, number out of range, no record, and otherwise `f` with the record and
the gate state (R129, R130). -/
def gateRequest (f : List Byte) (act : Nat → GateRecord → GateState → State → State × Answer) (s : State) :
    State × Answer :=
  if f.length ≠ 1 then refuse .malformed s
  else if !within 1 8 (byteAt f 0) then refuse .range s
  else
    match lookup s.settings.gates (byteAt f 0), s.gate (byteAt f 0) with
    | some r, some g => act (byteAt f 0) r g s
    | _, _ => refuse .unknownItem s

/-- The interlocks of GATE RAISE and an accepted raise (R129). -/
def raiseGate (k : Nat) (r : GateRecord) (g : GateState) (s : State) : State × Answer :=
  if g.position ≠ .down then refuse .wrongState s
  else if s.cif r.segment then (s, .refused .interlock .closure)
  else if s.hazardBlocks r.segment then (s, .refused .interlock .hazard)
  else accept [] (s.changeGate k .request
    { GateState.resting (.raising .requested) 0 with travelExpiry := some (s.travelEnd r) })

/-- GATE RAISE carried out (R129). -/
def carryGateRaise (f : List Byte) (s : State) : State × Answer := gateRequest f raiseGate s

/-- GATE_RAISE (R129). -/
def execGateRaise (t : Moment) (tag : Byte) (fields : List Byte) (s : State) : Result :=
  request t kindGateRaise tag fields (carryGateRaise fields) s

/-! ## GATE_CLEAR -/

/-- Whether a gate is STOPPED. -/
def GatePosition.isStopped : GatePosition → Bool
  | .stopped _ => true
  | .up => false
  | .warning => false
  | .lowering => false
  | .down => false
  | .raising _ => false
  | .inLocal => false

/-- The state check of GATE CLEAR and an accepted clear (R130). -/
def clearGate (k : Nat) (r : GateRecord) (g : GateState) (s : State) : State × Answer :=
  if !g.position.isStopped then refuse .wrongState s
  else
    let new := s.deriveGate r
    accept [new.position.code, new.position.stopCode] (s.changeGate k .request new)

/-- GATE CLEAR carried out (R130). -/
def carryGateClear (f : List Byte) (s : State) : State × Answer := gateRequest f clearGate s

/-- GATE_CLEAR (R130). -/
def execGateClear (t : Moment) (tag : Byte) (fields : List Byte) (s : State) : Result :=
  request t kindGateClear tag fields (carryGateClear fields) s

/-! ## QUERY_GATE -/

/-- Hold start present, seconds since it and Q (R131, R209; assumption 15). -/
def State.holdBytes (s : State) (r : GateRecord) (g : GateState) : List Byte :=
  match g.holdStart with
  | some h => 1 :: (long (s.seconds - h) ++ word (s.requirement r))
  | none => 0 :: (long 4294967295 ++ word 0)

/-- Seconds left on the travel timer, 0 when it is stopped (R131). -/
def State.travelLeft (s : State) (g : GateState) : Nat :=
  match g.travelExpiry with
  | some e => e - s.seconds
  | none => 0

/-- The accepted level of a line, 0 for one the record does not name (R209). -/
def State.levelByte (s : State) (line : Nat) : Byte := flagByte (line != 0 && s.accepted line)

/-- A gate's present condition (R131, R209). -/
def State.gateCondition (s : State) (k : Nat) (r : GateRecord) (g : GateState) : List Byte :=
  [g.position.code, g.position.stopCode, g.position.raiseCode, byte g.reversals] ++ s.holdBytes r g ++
    [byte (s.travelLeft g), flagByte (s.zoneRunning k), s.levelByte r.upSwitch, s.levelByte r.downSwitch,
     s.levelByte r.presence, s.levelByte r.key] ++
    filled 3 (r.approach.map fun sign => (s.signAgrees r.segment sign).toNat)

/-- The reply of QUERY GATE (R131, R209). -/
def gateReply (s : State) (k : Nat) (r : GateRecord) : List Byte :=
  match s.gate k with
  | some g => gateBytes k r ++ s.gateCondition k r g
  | none => gateBytes k r

/-- QUERY GATE carried out (R131). -/
def carryQueryGate (f : List Byte) (s : State) : State × Answer :=
  queryItem f s.settings.gates (gateReply s) s

/-- QUERY_GATE (R131). -/
def execQueryGate (t : Moment) (tag : Byte) (fields : List Byte) (s : State) : Result :=
  request t kindQueryGate tag fields (carryQueryGate fields) s

/-! ## HOLD_DEADLINE and TRAVEL_TIMEOUT -/

/-- HOLD_DEADLINE: the deadline of a hold is reached and the lowering test is taken (R116, R117). -/
def execHoldDeadline (t : Moment) (gate : Nat) (s : State) : Result := event t (fun s => s.loweringTest gate) s

/-- Whether a gate's travel timer has run out while it moves (R121). -/
def State.travelPassed (s : State) (k : Nat) : Bool :=
  match s.gate k with
  | some g =>
    match g.travelExpiry with
    | some e => g.position.inMotion && decide (e ≤ s.seconds)
    | none => false
  | none => false

/-- TRAVEL_TIMEOUT: the travel timer of a moving gate expires (R121). -/
def execTravelTimeout (t : Moment) (gate : Nat) (s : State) : Result :=
  event t (fun s => if s.travelPassed gate then s.travelExpired gate else s) s

end Sys2Proof.Machine
end

