-- ==== Sys2Proof/Machine/LineCommands.lean ====
section
/-! DEFINITION. The commands of the Station Line Controller: LINK_SET, QUERY_STATUS, UNKNOWN_KIND,
STATION_FRAME_RECEIVED, BAD_LENGTH, MISSING_STOP_BIT, GAP_EXPIRY, REPLY_SENT, REPORT_AGE_EXPIRY, REPORT_FRAME_SENT and
SILENCE_LIMIT_REACHED (R180 to R193, R201). -/

namespace Sys2Proof.Machine

/-! ## LINK_SET -/

/-- An accepted LINK SET; the new limit applies at once (R193). -/
def State.setLink (limit : Nat) (auto : AutoClose) (s : State) : State :=
  (s.change fun c => { c with silenceLimit := limit, autoClose := auto }).checkSilence

/-- LINK SET carried out (R193). -/
def carryLinkSet (f : List Byte) (s : State) : State × Answer :=
  if f.length ≠ 3 then refuse .malformed s
  else if !within 30 3600 (wordAt f 0) then refuse .range s
  else
    match AutoClose.ofCode (byteAt f 2) with
    | none => refuse .range s
    | some auto =>
      let s := s.setLink (wordAt f 0) auto
      accept (word (wordAt f 0) ++ [auto.code, attendedCode s.line.attended]) s

/-- LINK_SET (R193). -/
def execLinkSet (t : Moment) (tag : Byte) (fields : List Byte) (s : State) : Result :=
  request t kindLinkSet tag fields (carryLinkSet fields) s

/-! ## QUERY_STATUS -/

/-- The UNSAVED flag (R195). -/
def State.unsaved (s : State) : Bool :=
  match s.store.saved with
  | none => true
  | some c => decide (c ≠ s.store.working)

/-- The reply of QUERY STATUS (R186, R209). -/
def State.statusReply (s : State) : List Byte :=
  let c := s.settings
  let stations := (stationNotices s.retained.notices).length
  [attendedCode s.line.attended] ++ long s.silence ++ word c.silenceLimit ++
    [c.autoClose.code, flagByte s.retained.clock.isSome] ++ timeBytes s.retained.clock ++
    [flagByte s.unsaved, s.lastStart.code, byte (defined c.paths).length, byte (defined c.segments).length,
     byte (defined c.gates).length, byte (defined c.signs).length, byte (defined c.profiles).length,
     byte (defined c.groups).length, byte stations, byte (s.retained.notices.length - stations),
     byte s.weather.history.length, byte s.line.buffer.length] ++
    word s.line.nextSequence ++ [byte s.line.inbound.length]

/-- QUERY STATUS carried out (R186). -/
def carryQueryStatus (f : List Byte) (s : State) : State × Answer :=
  if f.length ≠ 0 then refuse .malformed s else accept s.statusReply s

/-- QUERY_STATUS (R186). -/
def execQueryStatus (t : Moment) (tag : Byte) (fields : List Byte) (s : State) : Result :=
  request t kindQueryStatus tag fields (carryQueryStatus fields) s

/-! ## UNKNOWN_KIND -/

/-- The refusal of a frame that names no request: MALFORMED without a tag, else UNKNOWN_KIND (R184). -/
def unknownAnswer (body : List Byte) : Answer :=
  match body with
  | [] => .refused .malformed .noReason
  | _ :: _ => .refused .unknownKind .noReason

/-- UNKNOWN_KIND: the oldest frame has an empty body or a kind that names no request (R184). -/
def execUnknownKind (t : Moment) (kind : Byte) (body : List Byte) (s : State) : Result :=
  event t (fun s =>
    if (body.isEmpty || !isRequestKind kind) && s.takes ⟨kind, body⟩ then
      s.carryOut kind (body.headD 0) (fun s => (s, unknownAnswer body))
    else s) s

/-! ## The receiver -/

/-- STATION_FRAME_RECEIVED: bytes arrive on the station line (R180 to R182, R192; assumption 22). -/
def execStationFrameReceived (t : Moment) (bytes : List Byte) (s : State) : Result :=
  event t (State.receiveBytes bytes) s

/-- BAD_LENGTH: a length byte above 240 drops the frame (R180). -/
def execBadLength (t : Moment) (length : Byte) (s : State) : Result :=
  event t (fun s =>
    if s.line.receiver = .length ∧ Config.maxBody < length.toNat then s.receiveBytes [length] else s) s

/-- MISSING_STOP_BIT: the byte is discarded, with a frame in progress (R181). -/
def execMissingStopBit (t : Moment) (s : State) : Result := event t State.dropFrame s

/-- Whether the gap limit has been reached with a frame in progress (R181). -/
def State.gapReached (s : State) : Bool := s.line.receiver.inProgress && Config.gapLimit ≤ s.msSince s.line.lastByte

/-- GAP_EXPIRY: a frame in progress is discarded (R181). -/
def execGapExpiry (t : Moment) (s : State) : Result := event t (fun s => if s.gapReached then s.dropFrame else s) s

/-! ## The transmitter -/

/-- The last byte of a reply has gone: it leaves the outbox, and a RESTART whose reply it was takes effect
(R183, R201). -/
def State.replyGone (s : State) : State :=
  match s.line.transmitter, s.line.outbox with
  | .sendingReply, r :: rest =>
    let s' := s.withLine { s.line with transmitter := .free, outbox := rest }
    if r.isBusy then s'
    else
      match s.line.restartDue with
      | none => s'
      | some kind => s'.restarted kind
  | _, _ => s

/-- After a reply the transmitter goes on; when a request can be taken and a report frame is due, which comes first
is a free order choice (R184, R190, assumption 10). -/
def State.goOn (s : State) : State :=
  if s.reportDue && s.canTake && !s.line.inbound.isEmpty then
    if s.nextChoice then s.choiceTaken else s.choiceTaken.kick
  else s.kick

/-- REPLY_SENT: the last byte of the reply being sent has gone (R183, R190, R201). -/
def execReplySent (t : Moment) (s : State) : Result :=
  .next (if s.powered then (s.elapse t).replyGone.settle.goOn else s)

/-- REPORT_AGE_EXPIRY: the oldest record has waited 2 s; a FREE transmitter begins a report frame (R189). -/
def execReportAgeExpiry (t : Moment) (s : State) : Result := event t (fun s => s) s

/-- Whether a report frame is being sent. -/
def State.sendsReports (s : State) : Bool :=
  match s.line.transmitter with
  | .sendingReports _ => true
  | .sendingReply => false
  | .free => false

/-- REPORT_FRAME_SENT: the last byte of the report frame has gone (R189). -/
def execReportFrameSent (t : Moment) (s : State) : Result :=
  event t (fun s => if s.sendsReports then s.reportsGone else s) s

/-- SILENCE_LIMIT_REACHED (R191). -/
def execSilenceLimitReached (t : Moment) (s : State) : Result := event t State.checkSilence s

end Sys2Proof.Machine
end

