-- ==== Sys2Proof/Machine/NoticeRequests.lean ====
section
/-! DEFINITION. The requests of the Pass Clock and the Notice List, TIME_SET, NOTICE_POST, NOTICE_WITHDRAW and
QUERY_NOTICES, and the clock's second, CLOCK_TICK (R68 to R70, R73 to R78, R85). -/

namespace Sys2Proof.Machine

/-! ## TIME_SET -/

/-- Whether a clock walk follows a TIME SET: from UNSET, or to a later time (R70). -/
def walksTo (old : Option Nat) (new : Nat) : Bool :=
  match old with
  | none => true
  | some t => t < new

/-- An accepted TIME SET: the clock counts on from the new time, one second after now (R69, R70). -/
def State.setClock (new : Nat) (s : State) : State :=
  let old := s.retained.clock
  let s := { s.withClock (some new) with clockNext := s.now + usPerSecond }
  if walksTo old new then s.clockWalk new else s

/-- TIME SET carried out (R69). -/
def carryTimeSet (f : List Byte) (s : State) : State × Answer :=
  if f.length ≠ 4 then refuse .malformed s
  else if Config.clockEnd < longAt f 0 then refuse .range s
  else accept (timeBytes s.retained.clock ++ long (longAt f 0)) (s.setClock (longAt f 0))

/-- TIME_SET (R69, R70). -/
def execTimeSet (t : Moment) (tag : Byte) (fields : List Byte) (s : State) : Result :=
  request t kindTimeSet tag fields (carryTimeSet fields) s

/-! ## CLOCK_TICK -/

/-- A SET clock counts one second; at its last time it stands (R68, R70). -/
def State.tick (s : State) : State :=
  match s.retained.clock with
  | none => s
  | some time =>
    let s := { s with clockNext := s.clockNext + usPerSecond }
    if time < Config.clockEnd then (s.withClock (some (time + 1))).clockWalk (time + 1) else s

/-- The clock counts one second while the part is held in reset, on the retained supply (R68, assumption 17). -/
def State.tickHeld (s : State) : State := s.withClock (s.retained.clock.map nextSecond)

/-- CLOCK_TICK: the Pass Clock's next second has come (R68, R70; assumption 17). -/
def execClockTick (t : Moment) (s : State) : Result :=
  if s.powered then event t (fun s => if s.clockNext ≤ s.now then s.tick else s) s else .next s.tickHeld

/-! ## NOTICE_POST -/

/-- Whether a posted time is a time (R71; assumption 14). -/
def timeFits (t : Option Nat) : Bool :=
  match t with
  | none => true
  | some t => t ≤ Config.clockEnd

/-- Whether the end of a post is later than its start and than the present time (R73). -/
def endsLate (p : PostedNotice) (now : Option Nat) : Bool :=
  match p.endTime with
  | none => true
  | some e =>
    (match p.startTime with
      | some b => decide (b < e)
      | none => true) &&
    (match now with
      | some n => decide (n < e)
      | none => true)

/-- Stage 3 of the checks (R73). -/
def PostedNotice.inRange (p : PostedNotice) (c : Settings) (now : Option Nat) : Bool :=
  within 1 59999 p.number && (NoticeKind.ofCode p.kind).isSome && (Reason.ofCode p.reason).isSome &&
    within 1 8 p.segments.length && (p.segments.all fun k => within 1 8 k && (lookup c.segments k).isSome) &&
    distinct p.segments && timeFits p.startTime && timeFits p.endTime && endsLate p now

/-- Stages 2 to 4 of the checks of NOTICE POST (R73). -/
def State.postRefusal (s : State) (p : PostedNotice) : Option RefusalCode :=
  if s.retained.clock.isNone && (p.startTime.isSome || p.endTime.isSome) then some .noClock
  else if !p.inRange s.settings s.retained.clock then some .range
  else if (findNotice p.number s.retained.notices).isNone &&
      decide (Config.stationNotices ≤ (stationNotices s.retained.notices).length) then some .full
  else none

/-- Whether a post's start lies after the present time (R74, R75). -/
def startsLater (startTime now : Option Nat) : Bool :=
  match startTime, now with
  | some b, some n => decide (n < b)
  | _, _ => false

/-- The state of a posted record: PENDING, or ACTIVE with a kept or a new activation time (R74, R75). -/
def postedState (old : Option Notice) (later : Bool) (now : Option Nat) : NoticeState :=
  if later then .pending
  else
    match old with
    | none => .active now
    | some n =>
      match n.state with
      | .active since => .active since
      | .pending => .active now

/-- The record a post leaves. -/
def postedNotice (p : PostedNotice) (state : NoticeState) : Notice where
  number := p.number
  kind := (NoticeKind.ofCode p.kind).getD .closure
  segments := p.segments
  reason := (Reason.ofCode p.reason).getD .other
  startTime := p.startTime
  endTime := p.endTime
  text := p.text
  origin := .station
  state := state

/-- Whether the list had a record in force. -/
def wasActive (old : Option Notice) : Bool :=
  match old with
  | some n => n.isActive
  | none => false

/-- The segments a record covers. -/
def segmentsOf (old : Option Notice) : List Nat :=
  match old with
  | some n => n.segments
  | none => []

/-- The segments a post touches: both lists if the record was or is ACTIVE (R74, R75, R79). -/
def touchedByPost (old : Option Notice) (new : Notice) : List Nat :=
  if wasActive old || new.isActive then segmentsOf old ++ new.segments else []

/-- The report of a post: ACTIVATED when the record became ACTIVE (R74, R75). -/
def reportsOfPost (old : Option Notice) (new : Notice) : List ReportBody :=
  if new.isActive && !wasActive old then [new.report .activated] else []

/-- An accepted NOTICE POST: a new notice or an amendment (R74, R75). -/
def State.post (n : Notice) (s : State) : State :=
  let old := findNotice n.number s.retained.notices
  let s := s.withNotices (insertNotice n (withoutNotice n.number s.retained.notices))
  (s.reports (reportsOfPost old n)).handTouched (touchedByPost old n)

/-- The record that a post gives in a state of the list. -/
def State.recordOf (s : State) (p : PostedNotice) : Notice :=
  postedNotice p (postedState (findNotice p.number s.retained.notices)
    (startsLater p.startTime s.retained.clock) s.retained.clock)

/-- Number, state and activation time of a posted record (R74). -/
def postReply (n : Notice) : List Byte :=
  word n.number ++ [n.state.code] ++
    timeBytes (match n.state with
      | .active since => since
      | .pending => none)

/-- NOTICE POST carried out (R73 to R75). -/
def carryNoticePost (f : List Byte) (s : State) : State × Answer :=
  match postedOf f with
  | none => refuse .malformed s
  | some p =>
    match s.postRefusal p with
    | some code => refuse code s
    | none => accept (postReply (s.recordOf p)) (s.post (s.recordOf p))

/-- NOTICE_POST (R73 to R75). -/
def execNoticePost (t : Moment) (tag : Byte) (fields : List Byte) (s : State) : Result :=
  request t kindNoticePost tag fields (carryNoticePost fields) s

/-! ## NOTICE_WITHDRAW -/

/-- A record withdrawn (R78). -/
def State.withdraw (n : Notice) (s : State) : State :=
  let s := s.withNotices (withoutNotice n.number s.retained.notices)
  (s.report (n.report .withdrawn)).handTouched (if n.isActive then n.segments else [])

/-- NOTICE WITHDRAW carried out (R78). -/
def carryNoticeWithdraw (f : List Byte) (s : State) : State × Answer :=
  if f.length ≠ 2 then refuse .malformed s
  else
    match findNotice (wordAt f 0) s.retained.notices with
    | none => refuse .unknownItem s
    | some n => accept (word n.number) (s.withdraw n)

/-- NOTICE_WITHDRAW (R78). -/
def execNoticeWithdraw (t : Moment) (tag : Byte) (fields : List Byte) (s : State) : Result :=
  request t kindNoticeWithdraw tag fields (carryNoticeWithdraw fields) s

/-! ## QUERY_NOTICES -/

/-- The reply of QUERY NOTICES: the count, and up to 8 records from a position on (R85). -/
def noticesReply (list : List Notice) (position : Nat) : List Byte :=
  byte list.length :: ((list.drop (position - 1)).take 8).flatMap noticeBytes

/-- QUERY NOTICES carried out (R85). -/
def carryQueryNotices (f : List Byte) (s : State) : State × Answer :=
  if f.length ≠ 1 then refuse .malformed s
  else if !within 1 32 (byteAt f 0) then refuse .range s
  else accept (noticesReply s.retained.notices (byteAt f 0)) s

/-- QUERY_NOTICES (R85). -/
def execQueryNotices (t : Moment) (tag : Byte) (fields : List Byte) (s : State) : Result :=
  request t kindQueryNotices tag fields (carryQueryNotices fields) s

end Sys2Proof.Machine
end

