-- ==== Sys2Proof/Machine/PathRequests.lean ====
section
/-! DEFINITION. The requests of the Path Table: DEFINE_PATH, REMOVE_PATH, PATH_FLOOR and QUERY_PATH
(R50 to R53, R58, R65). -/

namespace Sys2Proof.Machine

/-! ## DEFINE_PATH -/

/-- The checks of DEFINE PATH (R50). -/
def pathRefusal (c : Settings) (f : List Byte) : Option RefusalCode :=
  if f.length ≠ 22 then some .malformed
  else if !(within 1 12 (byteAt f 0) && within 1 4 (byteAt f 17) && (pathOf f).inRange) then some .range
  else if !((pathOf f).segments.all fun k => (lookup c.segments k).isSome) then some .unknownItem
  else none

/-- The segments handed on when the threatened segments of a path change: those of the old list and of the new, or
none when the list stays (R51, R52). -/
def changedSegments (old : Option PathRecord) (new : PathRecord) : List Nat :=
  match old with
  | none => ascending 8 new.segments
  | some r => if r.segments = new.segments then [] else ascending 8 (r.segments ++ new.segments)

/-- Segments whose threatening paths changed are handed on, with the signs that announce them (R51 to R53). -/
def State.handSegments (segments : List Nat) (s : State) : State :=
  match segments with
  | [] => s
  | _ => s.handOver segments (s.settings.announcing segments)

/-- An accepted DEFINE PATH (R51, R52). -/
def State.putPath (k : Nat) (r : PathRecord) (s : State) : State :=
  let old := lookup s.settings.paths k
  let s := s.change (Settings.setPath k (some r))
  let s := if old.isNone then s.withFigures k PathFigures.cleared else s
  s.handSegments (changedSegments old r)

/-- DEFINE PATH carried out (R50 to R52). -/
def carryDefinePath (f : List Byte) (s : State) : State × Answer :=
  match pathRefusal s.settings f with
  | some code => refuse code s
  | none => accept [] (s.putPath (byteAt f 0) (pathOf f))

/-- DEFINE_PATH: a whole path record is defined or redefined (R50 to R52). -/
def execDefinePath (t : Moment) (tag : Byte) (fields : List Byte) (s : State) : Result :=
  request t kindDefinePath tag fields (carryDefinePath fields) s

/-! ## REMOVE_PATH -/

/-- The removal of a path with its figures (R53). -/
def State.dropPath (k : Nat) (r : PathRecord) (s : State) : State :=
  let s := (s.change (Settings.setPath k none)).withFigures k PathFigures.cleared
  s.handSegments (ascending 8 r.segments)

/-- REMOVE ITEM naming a path carried out (R53). -/
def carryRemovePath (k : Nat) (s : State) : State × Answer :=
  removeItem k s.settings.paths (fun r s => accept [byte k] (s.dropPath k r)) s

/-- REMOVE_PATH (R53). -/
def execRemovePath (t : Moment) (tag : Byte) (fields : List Byte) (s : State) : Result :=
  removal t itemPath tag fields carryRemovePath s

/-! ## PATH_FLOOR -/

/-- The checks of PATH FLOOR (R58). -/
def floorRefusal (c : Settings) (f : List Byte) : Option RefusalCode :=
  if f.length ≠ 3 then some .malformed
  else if !(within 1 12 (byteAt f 0) && within 0 4 (byteAt f 1) && (byteAt f 1 == 0 || within 1 144 (byteAt f 2))) then
    some .range
  else if (lookup c.paths (byteAt f 0)).isNone then some .unknownItem
  else none

/-- The floor a request leaves (R58). -/
def postedFloor (level duration : Nat) : Option Floor := if level = 0 then none else some ⟨level, duration⟩

/-- An accepted PATH FLOOR: the floor posted, and the change of E handed on (R58, R61 to R63). -/
def State.postFloor (k level duration : Nat) (s : State) : State :=
  let before := s.figures k
  let after := { before with floor := postedFloor level duration }
  (s.withFigures k after).handLevels (riseOf k before after)

/-- Level and remaining count of a floor, 0 and 0 when absent (R58, R65). -/
def floorBytes (f : Option Floor) : List Byte :=
  match f with
  | none => [0, 0]
  | some f => [byte f.level, byte f.remaining]

/-- PATH FLOOR carried out (R58). -/
def carryPathFloor (f : List Byte) (s : State) : State × Answer :=
  match floorRefusal s.settings f with
  | some code => refuse code s
  | none =>
    let s := s.postFloor (byteAt f 0) (byteAt f 1) (byteAt f 2)
    let figures := s.figures (byteAt f 0)
    accept (byte (byteAt f 0) :: (floorBytes figures.floor ++ [byte figures.effective])) s

/-- PATH_FLOOR: a floor is posted, replaced or removed (R58). -/
def execPathFloor (t : Moment) (tag : Byte) (fields : List Byte) (s : State) : Result :=
  request t kindPathFloor tag fields (carryPathFloor fields) s

/-! ## QUERY_PATH -/

/-- The reply of QUERY PATH (R65, R209). -/
def pathReply (s : State) (k : Nat) (r : PathRecord) : List Byte :=
  let f := s.figures k
  pathBytes k r ++ word f.h ++ [byte f.level] ++ floorBytes f.floor ++ [byte f.effective]

/-- QUERY PATH carried out (R65). -/
def carryQueryPath (f : List Byte) (s : State) : State × Answer :=
  queryItem f s.settings.paths (pathReply s) s

/-- QUERY_PATH (R65). -/
def execQueryPath (t : Moment) (tag : Byte) (fields : List Byte) (s : State) : Result :=
  request t kindQueryPath tag fields (carryQueryPath fields) s

end Sys2Proof.Machine
end

