-- ==== Sys2Proof/Machine/SegmentRequests.lean ====
section
/-! DEFINITION. The requests of the Segment Evaluator: DEFINE_SEGMENT, REMOVE_SEGMENT and QUERY_SEGMENT
(R99 to R103). -/

namespace Sys2Proof.Machine

/-! ## DEFINE_SEGMENT -/

/-- The checks of DEFINE SEGMENT (R99). -/
def segmentRefusal (f : List Byte) : Option RefusalCode :=
  if f.length ≠ 4 then some .malformed
  else if !(within 1 8 (byteAt f 0) && (segmentOf f).inRange) then some .range
  else none

/-- A new segment: record and state record made, its state reported against UNDEFINED (R100). -/
def State.newSegment (k : Nat) (r : SegmentRecord) (s : State) : State :=
  let s := s.change (Settings.setSegment k (some r))
  let g := s.deriveSegment k r
  (s.withSegments (putItem s.segments k (some g))).report (.segment k none (some g.state) g.hmax g.closure)

/-- A redefined segment: re-derived, and its signs recomposed if its name changed (R101). -/
def State.redefineSegment (k : Nat) (old r : SegmentRecord) (s : State) : State :=
  let s := s.change (Settings.setSegment k (some r))
  s.handOver [k] (if old.nameEntry = r.nameEntry then [] else s.settings.announcing [k])

/-- An accepted DEFINE SEGMENT (R100, R101). -/
def State.putSegment (k : Nat) (r : SegmentRecord) (s : State) : State :=
  match lookup s.settings.segments k with
  | none => s.newSegment k r
  | some old => s.redefineSegment k old r

/-- The code of a segment's state, 0 where it has none. -/
def State.segmentCode (s : State) (k : Nat) : Byte :=
  match lookup s.segments k with
  | some g => g.state.code
  | none => 0

/-- DEFINE SEGMENT carried out (R99 to R101). -/
def carryDefineSegment (f : List Byte) (s : State) : State × Answer :=
  match segmentRefusal f with
  | some code => refuse code s
  | none =>
    let s := s.putSegment (byteAt f 0) (segmentOf f)
    accept [byte (byteAt f 0), s.segmentCode (byteAt f 0)] s

/-- DEFINE_SEGMENT (R99 to R101). -/
def execDefineSegment (t : Moment) (tag : Byte) (fields : List Byte) (s : State) : Result :=
  request t kindDefineSegment tag fields (carryDefineSegment fields) s

/-! ## REMOVE_SEGMENT -/

/-- Whether any record refers to a segment (R102). -/
def State.segmentNamed (s : State) (k : Nat) : Bool :=
  ((entries s.settings.paths).any fun x => x.2.segments.contains k) ||
    ((entries s.settings.gates).any fun x => x.2.segment == k) ||
    ((entries s.settings.signs).any fun x => x.2.segments.contains k) ||
    (s.retained.notices.any fun n => n.segments.contains k)

/-- The removal of a segment, reported from OPEN to UNDEFINED (R102). -/
def State.dropSegment (k : Nat) (s : State) : State :=
  ((s.change (Settings.setSegment k none)).withSegments (putItem s.segments k none)).report
    (.segment k (some .free) none 0 none)

/-- REMOVE ITEM naming a segment carried out (R102). -/
def carryRemoveSegment (k : Nat) (s : State) : State × Answer :=
  removeItem k s.settings.segments
    (fun _ s => if s.segmentNamed k then refuse .conflict s else accept [byte k] (s.dropSegment k)) s

/-- REMOVE_SEGMENT (R102). -/
def execRemoveSegment (t : Moment) (tag : Byte) (fields : List Byte) (s : State) : Result :=
  removal t itemSegment tag fields carryRemoveSegment s

/-! ## QUERY_SEGMENT -/

/-- Number and state of a gate. -/
def State.gateEntry (s : State) (k : Nat) : List Byte :=
  match s.gate k with
  | some g => [byte k, g.position.code]
  | none => [byte k, 0]

/-- State, governing notices and Hmax of a segment. -/
def segmentStateBytes (g : Option SegmentState) : List Byte :=
  match g with
  | some g => g.state.code :: (word (g.closure.getD 0) ++ word (g.restriction.getD 0) ++ [byte g.hmax])
  | none => [0, 0, 0, 0, 0, 0]

/-- The reply of QUERY SEGMENT (R103, R209). -/
def segmentReply (s : State) (k : Nat) (r : SegmentRecord) : List Byte :=
  let gates := s.settings.entryGates k
  let signs := s.settings.announcing [k]
  segmentBytes k r ++ segmentStateBytes (lookup s.segments k) ++ byte gates.length :: gates.flatMap s.gateEntry ++
    byte signs.length :: signs.map byte

/-- QUERY SEGMENT carried out (R103). -/
def carryQuerySegment (f : List Byte) (s : State) : State × Answer :=
  queryItem f s.settings.segments (segmentReply s) s

/-- QUERY_SEGMENT (R103). -/
def execQuerySegment (t : Moment) (tag : Byte) (fields : List Byte) (s : State) : Result :=
  request t kindQuerySegment tag fields (carryQuerySegment fields) s

end Sys2Proof.Machine
end

