-- ==== Sys2Proof/Machine/Delivery.lean ====
section
/-! DEFINITION. Attempts on a sign string: judging a panel's answer, success, failure and orphans
(R165 to R170, R173 to R176, R212). -/

namespace Sys2Proof.Machine

/-! ## Judging an answer (R166, R212) -/

/-- What the receiver of a string makes of one more byte. -/
inductive Verdict where
  | reading (received : List Byte)
  | success
  | failed (cause : Failure)
  deriving DecidableEq, Repr

/-- A complete frame of 8 bytes with fitting length, kind and address, judged by check and identity (R166, R212). -/
def judgeFrame (identity : Check) (frame : List Byte) : Verdict :=
  if checkBytes (checkValue ((frame.drop 1).take 5)) ≠ frame.drop 6 then .failed .badFrame
  else if (frame.drop 4).take 2 ≠ checkBytes identity then .failed .wrongIdentity
  else .success

/-- One byte in the reply window; `none` is a byte with its stop bit missing (R212). Which address judges an orphaned
attempt: assumption 33. -/
def judgeByte (address : Nat) (identity : Check) (received : List Byte) (b : Option Byte) : Verdict :=
  match received, b with
  | [], some b => if b = 0x5A then .reading [b] else .reading []
  | [], none => .reading []
  | _ :: _, none => .failed .badFrame
  | _ :: _, some b =>
    let frame := received ++ [b]
    match received.length with
    | 1 => if b = 4 then .reading frame else .failed .badFrame
    | 2 => if b = 2 then .reading frame else .failed .badFrame
    | 3 => if b = byte address then .reading frame else .failed .badFrame
    | 7 => judgeFrame identity frame
    | _ => .reading frame

/-! ## Outcomes (R167 to R169) -/

/-- The string becomes FREE and its arbiter chooses at once (R167, R168). -/
def State.endTransfer (x : StringId) (s : State) : State := (s.withTransfer x none).arbitrate x

/-- The panel record after a success at a moment (R167, stages 1 to 4). -/
def PanelRecord.confirm (p : PanelRecord) (sent : Image) (now : Moment) : PanelRecord :=
  let kept :=
    match p.confirmed with
    | some old => old.claims.closureSegment == sent.claims.closureSegment
    | none => false
  { state := .showing
    confirmed := some sent
    shownSince := if kept then p.shownSince else some now
    lastConfirmation := some now
    attempts := 0
    lastAttemptEnd := some now
    lastFailure := none }

/-- The delivery mark cleared when the composed identity is the sent one (R167, stage 5). -/
def SignState.confirm (c : SignState) (sent : Image) : SignState :=
  if c.image.identity = sent.identity then { c with marked := false } else c

/-- A SIGN report about a sign on its string and address (R174). -/
def State.reportSign (sign : Nat) (event : SignEvent) (s : State) : State :=
  match lookup s.settings.signs sign with
  | some r => s.report (.sign sign r.string r.address event)
  | none => s

/-- The attempt of a string succeeds (R167). -/
def State.succeed (x : StringId) (a : Attempt) (s : State) : State :=
  if a.orphaned then s.endTransfer x
  else
    match s.panel a.sign, s.sign a.sign with
    | some p, some c =>
      let s := (s.withPanel a.sign (some (p.confirm a.sent s.now))).withSign a.sign (some (c.confirm a.sent))
      let s := if p.state = .fault then
        s.reportSign a.sign (.confirmed a.sent.identity a.sent.claims.closureSegment) else s
      (s.tellSign a.sign).endTransfer x
    | _, _ => s.endTransfer x

/-- The panel record after a failed attempt at a moment: attempt count, and FAULT at the third (R168, R169). -/
def PanelRecord.fail (p : PanelRecord) (cause : Failure) (now : Moment) : PanelRecord :=
  let p := { p with lastAttemptEnd := some now, lastFailure := some cause }
  if p.state = .fault then { p with attempts := 3 }
  else if p.attempts + 1 < 3 then { p with attempts := p.attempts + 1 }
  else { p with attempts := 3, state := .fault }

/-- The attempt of a string fails: the delivery goes on with its next attempt, or ends in FAULT; a retry leaves the
panel in FAULT (R168, R169). -/
def State.failAttempt (x : StringId) (a : Attempt) (cause : Failure) (s : State) : State :=
  if a.orphaned then s.endTransfer x
  else
    match s.panel a.sign with
    | none => s.endTransfer x
    | some p =>
      let s' := s.withPanel a.sign (some (p.fail cause s.now))
      if p.state = .fault then s'.endTransfer x
      else if p.attempts + 1 < 3 then s'.beginAttempt x a.sign (a.number + 1)
      else
        (((s'.reportSign a.sign (.enteredFault (some cause) p.confirmed.isSome)).tellSign a.sign).endTransfer x)

/-- The outcome of an attempt is taken. -/
def State.takeVerdict (x : StringId) (a : Attempt) (windowEnd : Moment) (v : Verdict) (s : State) : State :=
  match v with
  | .reading received => s.withTransfer x (some { a with phase := .waiting windowEnd received })
  | .success => s.succeed x a
  | .failed cause => s.failAttempt x a cause

/-! ## Events of a string -/

/-- The IMAGE frame's last byte has gone: the reply window begins (R165, R212). -/
def State.imageSent (x : StringId) (s : State) : State :=
  match s.transfer x with
  | none => s
  | some a =>
    match a.phase with
    | .sendingFrame =>
      s.withTransfer x (some { a with phase := .waiting (s.now / usPerMs * usPerMs + Config.replyWindow) [] })
    | .waiting _ _ => s

/-- One byte arrives on a string; outside a reply window it is discarded (R166, R212). The address byte of a reply is held
against the address the IMAGE frame was sent to; for an orphaned attempt, whose sign has another address by now or none,
that is the model's choice (assumption 33). -/
def State.stringByte (x : StringId) (b : Option Byte) (s : State) : State :=
  match s.transfer x with
  | none => s
  | some a =>
    match a.phase with
    | .sendingFrame => s
    | .waiting windowEnd received =>
      if windowEnd < s.now / usPerMs * usPerMs then s
      else s.takeVerdict x a windowEnd (judgeByte a.address a.sent.identity received b)

/-- Bytes arrive on a string at one moment (assumption 22). -/
def State.stringBytes (x : StringId) (bytes : List (Option Byte)) (s : State) : State :=
  bytes.foldl (fun s b => s.stringByte x b) s

/-- The reply window ends: BAD_FRAME where a frame has been begun, NO_REPLY where none has. Where the window end comes
together with the last byte of a SHOWN frame and is taken first, a frame whose earlier bytes were given by a command of
their own has been begun (R166; the model's choice, assumption 30). -/
def State.windowEnds (x : StringId) (s : State) : State :=
  match s.transfer x with
  | none => s
  | some a =>
    match a.phase with
    | .sendingFrame => s
    | .waiting windowEnd received =>
      if windowEnd ≤ s.now then
        s.failAttempt x a (if received.isEmpty then .noReply else .badFrame)
      else s

/-! ## Orphans (R175, R176) -/

/-- The attempt of a string is orphaned if it is one on a sign. -/
def State.orphanOn (x : StringId) (sign : Nat) (s : State) : State :=
  match s.transfer x with
  | none => s
  | some a => if a.sign = sign then s.withTransfer x (some { a with orphaned := true }) else s

/-- An attempt in flight on a sign is orphaned (R175, R176). -/
def State.orphan (sign : Nat) (s : State) : State := (s.orphanOn .a sign).orphanOn .b sign

/-- Whether a sign's panel is in FAULT. -/
def State.inFault (s : State) (sign : Nat) : Bool := s.panelFaulty sign

/-- A sign has been moved: its panel record is made afresh, the report queued and the gates told (R175). -/
def State.movePanel (sign : Nat) (s : State) : State :=
  let s' := (s.orphan sign).withPanel sign (some PanelRecord.fresh)
  let s' := if s.inFault sign then s'.reportSign sign .moved else s'
  s'.tellSign sign

end Sys2Proof.Machine
end

