-- ==== Sys2Proof/Machine/SignRequests.lean ====
section
/-! DEFINITION. The requests of the Sign Composer: DEFINE_SIGN, REMOVE_SIGN, DEFINE_PROFILE, REMOVE_PROFILE,
DEFINE_GROUP, REMOVE_GROUP, PAGE_WRITE, PAGE_SWAP, TEXT_LOAD, QUERY_TEXT and QUERY_SIGN
(R135 to R146, R161, R175 to R177). -/

namespace Sys2Proof.Machine

/-! ## DEFINE_SIGN -/

/-- Whether another sign on the same string has the same address (R135). -/
def Settings.addressTaken (c : Settings) (k : Nat) (r : SignRecord) : Bool :=
  (entries c.signs).any fun x => x.1 != k && x.2.string == r.string && x.2.address == r.address

/-- Whether a sign is an approach sign of a gate whose guarded segment its new list lacks (R135). -/
def Settings.dropsGuarded (c : Settings) (k : Nat) (r : SignRecord) : Bool :=
  (entries c.gates).any fun x => x.2.approach.contains k && !r.segments.contains x.2.segment

/-- The checks of DEFINE SIGN: a refusal, or the record (R135). -/
def checkSign (c : Settings) (f : List Byte) : Except RefusalCode SignRecord :=
  if f.length < 8 || f.length ≠ 8 + byteAt f 7 then .error .malformed
  else
    match signOf f with
    | none => .error .range
    | some r =>
      if !(within 1 16 (byteAt f 0) && r.inRange) then .error .range
      else if (lookup c.profiles r.profile).isNone || !(r.segments.all fun k => (lookup c.segments k).isSome) then
        .error .unknownItem
      else if c.addressTaken (byteAt f 0) r || c.dropsGuarded (byteAt f 0) r then .error .conflict
      else .ok r

/-- A page without the slots a sign lacks (R136, R144). -/
def Page.fitTo (p : Page) (r : SignRecord) : Page :=
  ⟨Vector.ofFn fun (i : Fin 2) => if i.val < r.cells then p.cells.get i else none,
   Vector.ofFn fun (i : Fin 3) => if i.val < r.lines then p.lines.get i else none⟩

/-- A new sign: pages, image, mark and panel record made, and the marked sign handed over (R136, R175). -/
def State.newSign (k : Nat) (r : SignRecord) (s : State) : State :=
  let s := s.change (Settings.setSign k (some r))
  let s := s.withSign k (some ⟨.transparent, .transparent, s.compose k r .transparent, true⟩)
  (s.withPanel k (some PanelRecord.fresh)).handMarks [k]

/-- Whether a redefinition moves a sign to another place on the strings. -/
def SignRecord.movedFrom (r old : SignRecord) : Bool := r.string != old.string || r.address != old.address

/-- What the Sign Composer holds for a sign, its pages fitted to a new record and its mark set where the sign moved
(R136). -/
def SignState.refit (c : SignState) (r : SignRecord) (moved : Bool) : SignState :=
  { c with front := c.front.fitTo r, back := c.back.fitTo r, marked := c.marked || moved }

/-- A redefined sign: pages fitted, recomposed, and where it moved marked and its panel record made afresh
(R136, R175). -/
def State.redefineSign (k : Nat) (old r : SignRecord) (c : SignState) (s : State) : State :=
  let moved := r.movedFrom old
  let s := (s.change (Settings.setSign k (some r))).withSign k (some (c.refit r moved))
  let (s, marked) := s.recomposeSign k
  let s := if moved then s.movePanel k else s
  s.handMarks (if marked || moved then [k] else [])

/-- An accepted DEFINE SIGN (R136). -/
def State.putSign (k : Nat) (r : SignRecord) (s : State) : State :=
  match lookup s.settings.signs k, s.sign k with
  | some old, some c => s.redefineSign k old r c
  | _, _ => s.newSign k r

/-- DEFINE SIGN carried out (R135, R136). -/
def carryDefineSign (f : List Byte) (s : State) : State × Answer :=
  match checkSign s.settings f with
  | .error code => refuse code s
  | .ok r => accept [byte (byteAt f 0)] (s.putSign (byteAt f 0) r)

/-- DEFINE_SIGN (R135, R136, R175). -/
def execDefineSign (t : Moment) (tag : Byte) (fields : List Byte) (s : State) : Result :=
  request t kindDefineSign tag fields (carryDefineSign fields) s

/-! ## REMOVE_SIGN -/

/-- The settings without a sign: its record gone and every group without it (R137). -/
def Settings.withoutSign (k : Nat) (c : Settings) : Settings :=
  { c.setSign k none with groups := c.groups.map fun g => g.map fun signs => signs.filter fun x => x != k }

/-- The removal of a sign (R137, R176). -/
def State.dropSign (k : Nat) (s : State) : State :=
  let s := if s.inFault k then s.reportSign k .removed else s
  (((s.orphan k).change (Settings.withoutSign k)).withSign k none).withPanel k none

/-- REMOVE ITEM naming a sign carried out (R137). -/
def carryRemoveSign (k : Nat) (s : State) : State × Answer :=
  removeItem k s.settings.signs
    (fun _ s => if (s.settings.approached k).isEmpty then accept [byte k] (s.dropSign k) else refuse .conflict s) s

/-- REMOVE_SIGN (R137, R176). -/
def execRemoveSign (t : Moment) (tag : Byte) (fields : List Byte) (s : State) : Result :=
  removal t itemSign tag fields carryRemoveSign s

/-! ## DEFINE_PROFILE and REMOVE_PROFILE -/

/-- The signs that follow a profile, ascending. -/
def Settings.following (c : Settings) (profile : Nat) : List Nat :=
  (numbers 16).filter fun k =>
    match lookup c.signs k with
    | some r => r.profile == profile
    | none => false

/-- An accepted DEFINE PROFILE (R138). -/
def State.putProfile (k : Nat) (r : ProfileRecord) (s : State) : State :=
  let s := s.change (Settings.setProfile k (some r))
  s.recompose (s.settings.following k)

/-- DEFINE PROFILE carried out (R138). -/
def carryDefineProfile (f : List Byte) (s : State) : State × Answer :=
  if f.length ≠ 8 then refuse .malformed s
  else if !within 1 8 (byteAt f 0) then refuse .range s
  else
    match profileOf f with
    | none => refuse .range s
    | some r => accept [byte (byteAt f 0)] (s.putProfile (byteAt f 0) r)

/-- DEFINE_PROFILE (R138). -/
def execDefineProfile (t : Moment) (tag : Byte) (fields : List Byte) (s : State) : Result :=
  request t kindDefineProfile tag fields (carryDefineProfile fields) s

/-- REMOVE ITEM naming a profile carried out (R139). -/
def carryRemoveProfile (k : Nat) (s : State) : State × Answer :=
  removeItem k s.settings.profiles
    (fun _ s => if (s.settings.following k).isEmpty then accept [byte k] (s.change (Settings.setProfile k none))
      else refuse .conflict s) s

/-- REMOVE_PROFILE (R139). -/
def execRemoveProfile (t : Moment) (tag : Byte) (fields : List Byte) (s : State) : Result :=
  removal t itemProfile tag fields carryRemoveProfile s

/-! ## DEFINE_GROUP and REMOVE_GROUP -/

/-- The checks of DEFINE GROUP (R140). -/
def groupRefusal (c : Settings) (f : List Byte) : Option RefusalCode :=
  let signs := bytesAt f 2 (byteAt f 1)
  if f.length < 2 || f.length ≠ 2 + byteAt f 1 then some .malformed
  else if !(within 1 8 (byteAt f 0) && within 0 16 (byteAt f 1) && allWithin 1 16 signs && distinct signs) then some .range
  else if !(signs.all fun k => (lookup c.signs k).isSome) then some .unknownItem
  else none

/-- DEFINE GROUP carried out; a group is kept as a set (R140). -/
def carryDefineGroup (f : List Byte) (s : State) : State × Answer :=
  match groupRefusal s.settings f with
  | some code => refuse code s
  | none =>
    accept [byte (byteAt f 0)]
      (s.change (Settings.setGroup (byteAt f 0) (some (ascending 16 (bytesAt f 2 (byteAt f 1))))))

/-- DEFINE_GROUP (R140). -/
def execDefineGroup (t : Moment) (tag : Byte) (fields : List Byte) (s : State) : Result :=
  request t kindDefineGroup tag fields (carryDefineGroup fields) s

/-- REMOVE ITEM naming a group carried out (R140). -/
def carryRemoveGroup (k : Nat) (s : State) : State × Answer :=
  removeItem k s.settings.groups (fun _ s => accept [byte k] (s.change (Settings.setGroup k none))) s

/-- REMOVE_GROUP (R140). -/
def execRemoveGroup (t : Moment) (tag : Byte) (fields : List Byte) (s : State) : Result :=
  removal t itemGroup tag fields carryRemoveGroup s

/-! ## PAGE_WRITE and PAGE_SWAP -/

/-- The signs of a page target; `none` where it is not defined (R145, R146). -/
def Settings.targetSigns (c : Settings) (x : PageTarget) : Option (List Nat) :=
  match x with
  | .sign k => (lookup c.signs k).map fun _ => [k]
  | .group k => lookup c.groups k

/-- One sign's pages changed by what its record and pages give. -/
def State.changePages (f : SignRecord → SignState → SignState) (s : State) (k : Nat) : State :=
  match lookup s.settings.signs k, s.sign k with
  | some r, some c => s.withSign k (some (f r c))
  | _, _ => s

/-- The back page written with the slots a sign has (R145). -/
def writeBack (page : Page) (r : SignRecord) (c : SignState) : SignState := { c with back := page.fitTo r }

/-- Front and back page exchanged (R146). -/
def swapPages (_ : SignRecord) (c : SignState) : SignState := { c with front := c.back, back := c.front }

/-- PAGE WRITE carried out (R145). -/
def carryPageWrite (f : List Byte) (s : State) : State × Answer :=
  if f.length ≠ 12 then refuse .malformed s
  else
    match targetOf f, pageOf f with
    | some x, some page =>
      match s.settings.targetSigns x with
      | none => refuse .unknownItem s
      | some signs => accept [byte signs.length] (signs.foldl (State.changePages (writeBack page)) s)
    | _, _ => refuse .range s

/-- PAGE_WRITE (R145). -/
def execPageWrite (t : Moment) (tag : Byte) (fields : List Byte) (s : State) : Result :=
  request t kindPageWrite tag fields (carryPageWrite fields) s

/-- PAGE SWAP carried out (R146). -/
def carryPageSwap (f : List Byte) (s : State) : State × Answer :=
  if f.length ≠ 2 then refuse .malformed s
  else
    match targetOf f with
    | none => refuse .range s
    | some x =>
      match s.settings.targetSigns x with
      | none => refuse .unknownItem s
      | some signs =>
        accept [byte signs.length] ((signs.foldl (State.changePages swapPages) s).recompose (ascending 16 signs))

/-- PAGE_SWAP (R146). -/
def execPageSwap (t : Moment) (tag : Byte) (fields : List Byte) (s : State) : Result :=
  request t kindPageSwap tag fields (carryPageSwap fields) s

/-! ## TEXT_LOAD and QUERY_TEXT -/

/-- A received text as codes. -/
def codesOf (t : List Byte) : List Code := t.map fun b => Fin.ofNat 64 b.toNat

/-- Texts stored in consecutive entries; those past entry 255 are not stored (R142). -/
def storeTexts (texts : Vector (List Code) 256) (entry : Nat) : List (List Code) → Vector (List Code) 256
  | [] => texts
  | t :: rest => storeTexts (texts.setIfInBounds entry t) (entry + 1) rest

/-- The entries whose contents a load changed (R142, assumption 23). -/
def changedEntries (old new : Vector (List Code) 256) (entry count : Nat) : List Nat :=
  (List.range' entry count).filter fun k => old[k]? != new[k]?

/-- Whether a line source draws on one of some entries (R142). -/
def LineSource.drawsOn (src : LineSource) (es : List Nat) : Bool :=
  match src with
  | .entry n => es.contains n
  | .temperature => es.contains 253
  | .wind => es.contains 254

/-- The signs whose composed image draws a line from one of some entries, ascending (R142). -/
def State.drawing (s : State) (es : List Nat) : List Nat :=
  (numbers 16).filter fun k =>
    match s.sign k with
    | some c => c.image.claims.lines.any fun l =>
        match l with
        | some x => x.2.drawsOn es
        | none => false
    | none => false

/-- An accepted TEXT LOAD (R142). -/
def State.loadTexts (entry : Nat) (ts : List (List Code)) (s : State) : State :=
  let old := s.settings.texts
  let new := storeTexts old entry ts
  let s := s.change fun c => { c with texts := new }
  s.recompose (s.drawing (changedEntries old new entry (min ts.length (256 - entry))))

/-- TEXT LOAD carried out (R142). -/
def carryTextLoad (f : List Byte) (s : State) : State × Answer :=
  match if f.length < 2 then none else textsOf (byteAt f 1) (f.drop 2) with
  | none => refuse .malformed s
  | some ts =>
    if !(within 1 8 (byteAt f 1) && ts.all textFits) then refuse .range s
    else accept [byte (min ts.length (256 - byteAt f 0))] (s.loadTexts (byteAt f 0) (ts.map codesOf))

/-- TEXT_LOAD (R142). -/
def execTextLoad (t : Moment) (tag : Byte) (fields : List Byte) (s : State) : Result :=
  request t kindTextLoad tag fields (carryTextLoad fields) s

/-- The reply of QUERY TEXT (R143, R209). -/
def textReply (texts : Vector (List Code) 256) (entry count : Nat) : List Byte :=
  let es := (texts.toList.drop entry).take count
  byte es.length :: es.flatMap textBytes

/-- QUERY TEXT carried out (R143). -/
def carryQueryText (f : List Byte) (s : State) : State × Answer :=
  if f.length ≠ 2 then refuse .malformed s
  else if !within 1 8 (byteAt f 1) then refuse .range s
  else accept (textReply s.settings.texts (byteAt f 0) (byteAt f 1)) s

/-- QUERY_TEXT (R143). -/
def execQueryText (t : Moment) (tag : Byte) (fields : List Byte) (s : State) : Result :=
  request t kindQueryText tag fields (carryQueryText fields) s

/-! ## QUERY_SIGN -/

/-- The groups that list a sign. That they are listed ascending is the model's choice (R161, assumption 32). -/
def Settings.listing (c : Settings) (sign : Nat) : List Nat :=
  (numbers 8).filter fun k =>
    match lookup c.groups k with
    | some signs => signs.contains sign
    | none => false

/-- The claim of a cell as layer and source (R209). -/
def cellClaimBytes (c : Option Layer) : List Byte := [layerCode c, 0]

/-- The claim of a line as layer and source (R209). -/
def lineClaimBytes (l : Option (Layer × LineSource)) : List Byte :=
  match l with
  | none => [0, 0]
  | some (layer, .entry n) => [layer.code, byte n]
  | some (layer, .temperature) => [layer.code, 0]
  | some (layer, .wind) => [layer.code, 1]

/-- The composed image as QUERY SIGN returns it: contents, claims, closure segment, identity (R161, R209). -/
def Image.bytes (i : Image) : List Byte :=
  i.cells.map byte ++ i.lines.flatten.map codeByte ++ i.claims.cells.flatMap cellClaimBytes ++
    i.claims.lines.flatMap lineClaimBytes ++ [byte (i.claims.closureSegment.getD 0)] ++ checkBytes i.identity

/-- The age of a moment in whole seconds; 0xFFFFFFFF when it is absent (R177, R209). -/
def State.age (s : State) (m : Option Moment) : List Byte :=
  match m with
  | none => long 4294967295
  | some m => long (s.msSince m / usPerSecond)

/-- The attempt in flight on a sign's own string, where the sign is the one in transfer there; an orphaned attempt
counts (R177, assumption 24). -/
def State.inTransfer (s : State) (sign : Nat) (r : SignRecord) : Option Attempt :=
  (s.transfer r.string).filter fun a => a.sign == sign

/-- Whether a sign is its string's sign in transfer, and the attempt number (R177). -/
def State.transferBytes (s : State) (sign : Nat) (r : SignRecord) : List Byte :=
  match s.inTransfer sign r with
  | some a => [1, byte a.number]
  | none => [0, 0]

/-- Confirmed image present, its identity and closure segment (R177). -/
def confirmedBytes (i : Option Image) : List Byte :=
  match i with
  | some i => 1 :: (checkBytes i.identity ++ [byte (i.claims.closureSegment.getD 0)])
  | none => [0, 0, 0, 0]

/-- Whole seconds until a panel in FAULT is due, 0 when it is due or not in FAULT (R177). -/
def State.untilDue (s : State) (p : PanelRecord) : Nat :=
  match p.state, p.lastAttemptEnd with
  | .fault, some m => (Config.retryAge - s.msSince m) / usPerSecond
  | _, _ => 0

/-- What the String Controller tells of a panel (R177). -/
def State.panelBytes (s : State) (sign : Nat) (r : SignRecord) (p : PanelRecord) : List Byte :=
  p.state.code :: s.transferBytes sign r ++ confirmedBytes p.confirmed ++ s.age p.shownSince ++
    s.age p.lastConfirmation ++ [byte p.attempts] ++ s.age p.lastAttemptEnd ++ [failureCode p.lastFailure] ++
    word (s.untilDue p)

/-- The reply of QUERY SIGN (R161, R177, R209). The spec gives no order for the numbers of groups and of gates: both are
sent ascending, which is the model's choice (assumption 32). -/
def signReply (s : State) (k : Nat) (r : SignRecord) : List Byte :=
  let groups := s.settings.listing k
  let gates := s.settings.approached k
  signBytes k r ++ byte groups.length :: groups.map byte ++ byte gates.length :: gates.map byte ++
    (match s.sign k with
      | some c => pageBytes c.front ++ pageBytes c.back ++ c.image.bytes ++ [flagByte c.marked]
      | none => []) ++
    (match s.panel k with
      | some p => s.panelBytes k r p
      | none => [])

/-- QUERY SIGN carried out (R161, R177). -/
def carryQuerySign (f : List Byte) (s : State) : State × Answer :=
  queryItem f s.settings.signs (signReply s) s

/-- QUERY_SIGN (R161, R177). -/
def execQuerySign (t : Moment) (tag : Byte) (fields : List Byte) (s : State) : Result :=
  request t kindQuerySign tag fields (carryQuerySign fields) s

end Sys2Proof.Machine
end

