-- ==== Sys2Proof/Machine/StoreCommands.lean ====
section
/-! DEFINITION. The commands of the Settings Store and of start-up: SAVE_SETTINGS, STORE_WRITE_END,
STORE_WRITE_TIMEOUT, RESTART, START and SUPPLY_LOSS (R195 to R202). -/

namespace Sys2Proof.Machine

/-! ## SAVE_SETTINGS -/

/-- The store write begins: the saved copy is invalid and the copy is taken (R196). -/
def State.beginSave (tag : Byte) (s : State) : State :=
  (s.withStore { s.store with saved := none, write := some ⟨s.store.working, s.now⟩ }).withLine
    { s.line with carrying := some tag }

/-- SAVE_SETTINGS: with a body beyond the tag it is refused, else it stays being carried out until the write ends
(R184, R196). -/
def execSaveSettings (t : Moment) (tag : Byte) (fields : List Byte) (s : State) : Result :=
  event t (fun s =>
    if s.takes ⟨kindSaveSettings, tag :: fields⟩ then
      if fields.isEmpty then s.popFrame.beginSave tag
      else s.carryOut kindSaveSettings tag (refuse .malformed)
    else s) s

/-- The reply to SAVE SETTINGS is placed and nothing is being carried out any more (R184). -/
def State.answerSave (answer : Answer) (s : State) : State :=
  match s.line.carrying with
  | none => s
  | some tag => (s.withLine { s.line with carrying := none }).placeReply ⟨tag, kindSaveSettings, answer⟩

/-- A store write that succeeds (R197; byte count and check value, assumption 8). -/
def State.saveDone (w : StoreWrite) (s : State) : State :=
  let n := s.store.writes
  (s.withStore { s.store with saved := some w.copy, write := none, writes := n + 1 }).answerSave
    (.done (word (Config.storeByteCount n).toNat ++ checkBytes (Config.storeCheck n)))

/-- A store write that fails (R197). -/
def State.saveFailed (s : State) : State :=
  (s.withStore { s.store with saved := none, write := none }).answerSave (.refused .storeFail .noReason)

/-- STORE_WRITE_END: the store has taken every byte and read back right, or not (R197). -/
def execStoreWriteEnd (t : Moment) (accepted : Bool) (s : State) : Result :=
  event t (fun s =>
    match s.store.write with
    | none => s
    | some w => if accepted && s.now ≤ w.began + Config.storeLimit then s.saveDone w else s.saveFailed) s

/-- STORE_WRITE_TIMEOUT: 3 s have passed without the write completing (R197). -/
def execStoreWriteTimeout (t : Moment) (s : State) : Result :=
  event t (fun s =>
    match s.store.write with
    | none => s
    | some w => if w.began + Config.storeLimit ≤ s.now then s.saveFailed else s) s

/-! ## RESTART, START, SUPPLY_LOSS -/

/-- RESTART carried out: the restart waits for the reply to be sent (R201). -/
def carryRestart (f : List Byte) (s : State) : State × Answer :=
  if f.length ≠ 1 then refuse .malformed s
  else
    match StartKind.ofCode (byteAt f 0) with
    | none => refuse .range s
    | some kind => accept [kind.code, flagByte s.unsaved] (s.withLine { s.line with restartDue := some kind })

/-- RESTART (R201). -/
def execRestart (t : Moment) (tag : Byte) (fields : List Byte) (s : State) : Result :=
  request t kindRestart tag fields (carryRestart fields) s

/-- START: the supply monitor releases the part (R200; assumptions 16, 17, 20). -/
def execStart (retainedKept : Bool) (phase : Moment) (s : State) : Result :=
  .next (s.released retainedKept phase).settle.kick

/-- SUPPLY_LOSS: the main supply is lost (R199, 00_scope 1.12; assumption 19). -/
def execSupplyLoss (t : Moment) (areaCut : Bool) (s : State) : Result :=
  .next (if s.powered then (s.elapse t).supplyLost areaCut else s)

end Sys2Proof.Machine
end

