-- ==== Sys2Proof/Machine/StringCommands.lean ====
section
/-! DEFINITION. The commands of the String Controller: IMAGE_FRAME_SENT, SHOWN_FRAME_RECEIVED, REPLY_WINDOW_END,
REFRESH_DUE and RETRY_DUE (R165 to R172, R212). -/

namespace Sys2Proof.Machine

/-- IMAGE_FRAME_SENT: the reply window of a string begins (R165, R212). -/
def execImageFrameSent (t : Moment) (string : StringId) (s : State) : Result := event t (State.imageSent string) s

/-- SHOWN_FRAME_RECEIVED: bytes arrive on a string (R166, R212; assumption 22). -/
def execShownFrameReceived (t : Moment) (string : StringId) (bytes : List (Option Byte)) (s : State) : Result :=
  event t (State.stringBytes string bytes) s

/-- REPLY_WINDOW_END (R166). -/
def execReplyWindowEnd (t : Moment) (string : StringId) (s : State) : Result := event t (State.windowEnds string) s

/-- The arbiter of a sign's string chooses, where its panel meets a condition (R172). -/
def State.chooseFor (sign : Nat) (ready : PanelRecord → Bool) (s : State) : State :=
  match lookup s.settings.signs sign, s.panel sign with
  | some r, some p => if ready p then s.arbitrate r.string else s
  | _, _ => s

/-- REFRESH_DUE: a SHOWING sign's last confirmation has reached 60 s of age (R171, R172). -/
def execRefreshDue (t : Moment) (sign : Nat) (s : State) : Result :=
  event t (fun s => s.chooseFor sign fun p => p.state == .showing && s.refreshAged p) s

/-- RETRY_DUE: 30 s have passed since the last attempt on a sign in FAULT (R171, R172). -/
def execRetryDue (t : Moment) (sign : Nat) (s : State) : Result :=
  event t (fun s => s.chooseFor sign fun p => p.state == .fault && s.panelDue p) s

end Sys2Proof.Machine
end

