-- ==== Sys2Proof/Machine/Dispatch.lean ====
section
/-! DEFINITION. One arm per command, each one call of its meaning. -/

namespace Sys2Proof.Machine

/-- The effect of a command on everything but the queue. -/
def exec (i : Instr) (s : State) : Host.Outcome State Fault Refusal :=
  match i with
  | .timeSet t tag fields => Sys2Proof.Machine.execTimeSet t tag fields s
  | .noticePost t tag fields => Sys2Proof.Machine.execNoticePost t tag fields s
  | .noticeWithdraw t tag fields => Sys2Proof.Machine.execNoticeWithdraw t tag fields s
  | .pageWrite t tag fields => Sys2Proof.Machine.execPageWrite t tag fields s
  | .pageSwap t tag fields => Sys2Proof.Machine.execPageSwap t tag fields s
  | .textLoad t tag fields => Sys2Proof.Machine.execTextLoad t tag fields s
  | .gateRaise t tag fields => Sys2Proof.Machine.execGateRaise t tag fields s
  | .gateClear t tag fields => Sys2Proof.Machine.execGateClear t tag fields s
  | .pathFloor t tag fields => Sys2Proof.Machine.execPathFloor t tag fields s
  | .restart t tag fields => Sys2Proof.Machine.execRestart t tag fields s
  | .definePath t tag fields => Sys2Proof.Machine.execDefinePath t tag fields s
  | .defineSegment t tag fields => Sys2Proof.Machine.execDefineSegment t tag fields s
  | .defineGate t tag fields => Sys2Proof.Machine.execDefineGate t tag fields s
  | .defineSign t tag fields => Sys2Proof.Machine.execDefineSign t tag fields s
  | .defineProfile t tag fields => Sys2Proof.Machine.execDefineProfile t tag fields s
  | .defineGroup t tag fields => Sys2Proof.Machine.execDefineGroup t tag fields s
  | .removePath t tag fields => Sys2Proof.Machine.execRemovePath t tag fields s
  | .removeSegment t tag fields => Sys2Proof.Machine.execRemoveSegment t tag fields s
  | .removeGate t tag fields => Sys2Proof.Machine.execRemoveGate t tag fields s
  | .removeSign t tag fields => Sys2Proof.Machine.execRemoveSign t tag fields s
  | .removeProfile t tag fields => Sys2Proof.Machine.execRemoveProfile t tag fields s
  | .removeGroup t tag fields => Sys2Proof.Machine.execRemoveGroup t tag fields s
  | .calibrate t tag fields => Sys2Proof.Machine.execCalibrate t tag fields s
  | .linkSet t tag fields => Sys2Proof.Machine.execLinkSet t tag fields s
  | .saveSettings t tag fields => Sys2Proof.Machine.execSaveSettings t tag fields s
  | .queryStatus t tag fields => Sys2Proof.Machine.execQueryStatus t tag fields s
  | .queryPath t tag fields => Sys2Proof.Machine.execQueryPath t tag fields s
  | .querySegment t tag fields => Sys2Proof.Machine.execQuerySegment t tag fields s
  | .queryGate t tag fields => Sys2Proof.Machine.execQueryGate t tag fields s
  | .querySign t tag fields => Sys2Proof.Machine.execQuerySign t tag fields s
  | .queryNotices t tag fields => Sys2Proof.Machine.execQueryNotices t tag fields s
  | .queryStep t tag fields => Sys2Proof.Machine.execQueryStep t tag fields s
  | .queryText t tag fields => Sys2Proof.Machine.execQueryText t tag fields s
  | .unknownKind t kind body => Sys2Proof.Machine.execUnknownKind t kind body s
  | .stationFrameReceived t bytes => Sys2Proof.Machine.execStationFrameReceived t bytes s
  | .gapExpiry t => Sys2Proof.Machine.execGapExpiry t s
  | .replySent t => Sys2Proof.Machine.execReplySent t s
  | .reportAgeExpiry t => Sys2Proof.Machine.execReportAgeExpiry t s
  | .reportFrameSent t => Sys2Proof.Machine.execReportFrameSent t s
  | .silenceLimitReached t => Sys2Proof.Machine.execSilenceLimitReached t s
  | .storeWriteEnd t accepted => Sys2Proof.Machine.execStoreWriteEnd t accepted s
  | .storeWriteTimeout t => Sys2Proof.Machine.execStoreWriteTimeout t s
  | .start retainedKept phase => Sys2Proof.Machine.execStart retainedKept phase s
  | .supplyLoss t areaCut => Sys2Proof.Machine.execSupplyLoss t areaCut s
  | .fieldLineChange t line high => Sys2Proof.Machine.execFieldLineChange t line high s
  | .changeEvent t line => Sys2Proof.Machine.execChangeEvent t line s
  | .widthEdge t line high => Sys2Proof.Machine.execWidthEdge t line high s
  | .vaneSample t => Sys2Proof.Machine.execVaneSample t s
  | .stepEnd t => Sys2Proof.Machine.execStepEnd t s
  | .clockTick t => Sys2Proof.Machine.execClockTick t s
  | .holdDeadline t gate => Sys2Proof.Machine.execHoldDeadline t gate s
  | .clearZoneExpiry t gate => Sys2Proof.Machine.execClearZoneExpiry t gate s
  | .travelTimeout t gate => Sys2Proof.Machine.execTravelTimeout t gate s
  | .refreshDue t sign => Sys2Proof.Machine.execRefreshDue t sign s
  | .retryDue t sign => Sys2Proof.Machine.execRetryDue t sign s
  | .imageFrameSent t x => Sys2Proof.Machine.execImageFrameSent t x s
  | .shownFrameReceived t x bytes => Sys2Proof.Machine.execShownFrameReceived t x bytes s
  | .replyWindowEnd t x => Sys2Proof.Machine.execReplyWindowEnd t x s
  | .badLength t length => Sys2Proof.Machine.execBadLength t length s
  | .missingStopBit t => Sys2Proof.Machine.execMissingStopBit t s

end Sys2Proof.Machine
end

