-- ==== Sys2Proof/Safety.lean ====
section
/-! DEFINITION. What the spec says holds in every state of the part: the invariants the statements are about
(R1, R12, R18 to R20, R39, R45, R49, R60, R72, R88, R89, R93, R102, R105, R106, R109 to R115, R135, R147, R158, R160,
R163, R164, R182, R183, R188). -/

namespace Sys2Proof.Machine

/-! ## Bounded stores (R45, R182, R188) -/

/-- No store of the part holds more than the spec lets it: 32 report records, 4 frames, 36 step records. -/
def State.Bounded (s : State) : Prop :=
  s.line.buffer.length ≤ 32 ∧ s.line.inbound.length ≤ 4 ∧ s.weather.history.length ≤ 36

/-! ## The outbox (R183, R184) -/

/-- The replies to carried-out requests that wait. -/
def StationLine.carriedReplies (l : StationLine) : List Reply := l.outbox.filter fun r => !r.isBusy

/-- At most one request is being carried out or waits with its reply, and at most four BUSY replies wait. -/
def State.OutboxInOrder (s : State) : Prop :=
  s.line.carriedReplies.length + (if s.line.carrying.isSome then 1 else 0) ≤ 1 ∧
    (s.line.outbox.filter Reply.isBusy).length ≤ 4

/-! ## Path figures (R39, R49, R60) -/

/-- A floor is 1 to 4 with 1 to 144 steps remaining. -/
def Floor.InRange (f : Floor) : Prop := 1 ≤ f.level ∧ f.level ≤ 4 ∧ 1 ≤ f.remaining ∧ f.remaining ≤ 144

/-- H is 0 to 10000, L is 0 to 4 and a floor is in its range. -/
def PathFigures.InRange (f : PathFigures) : Prop :=
  f.h ≤ 10000 ∧ f.level ≤ 4 ∧ ∀ fl, f.floor = some fl → fl.InRange

/-- Every path's figures are in range. -/
def State.FiguresInRange (s : State) : Prop := ∀ k f, itemAt s.retained.paths k = some f → f.InRange

/-! ## The Notice List (R72) -/

/-- The list is in list order, holds no number twice and at most 24 station notices, and the part's own notices bear
numbers above the station's. -/
def State.NoticesInOrder (s : State) : Prop :=
  s.retained.notices.Pairwise (fun a b => a.precedes b = true) ∧
    (s.retained.notices.map Notice.number).Nodup ∧ (stationNotices s.retained.notices).length ≤ 24 ∧
    ∀ n ∈ s.retained.notices, n.origin ≠ .station → 59999 < n.number

/-- The part-made records of a list. -/
def partMadeNotices (list : List Notice) : List Notice := list.filter fun n => n.origin != .station

/-- Every part-made record is a held or an autonomous notice of a segment, and no segment has two (R72, R81, R83). -/
def State.PartMadeOnce (s : State) : Prop :=
  (∀ n ∈ s.retained.notices, n.origin ≠ .station →
    ∃ k, 1 ≤ k ∧ k ≤ 8 ∧ (n = heldNotice k ∨ ∃ since, n = autonomousNotice k since)) ∧
    ((partMadeNotices s.retained.notices).map Notice.segments).Nodup

/-! ## Vane bins (R12) -/

/-- The samples a VANE channel has gathered. -/
def vaneSamples (bins : Vector Nat 8) (invalid : Nat) : Nat := bins.toList.sum + invalid

/-- Every VANE channel's bins sum to the sample instants of the step that have passed. -/
def State.VaneCounts (s : State) : Prop :=
  ∀ k bins invalid, itemAt s.field.channels k = some (.vane bins invalid) →
    vaneSamples bins invalid = s.weather.timer

/-! ## Settled blocks (R172, R173) -/

/-- No arbiter has a choice to take and no gate has a panel's change to be told. -/
def State.Settled (s : State) : Prop := s.strings.due = [] ∧ s.strings.tells = []

/-! ## Sign strings (R163, R164) -/

/-- A sign has a panel record and pages exactly while it has a sign record. -/
def State.SignsWhole (s : State) : Prop :=
  ∀ k, (s.panel k).isSome = (lookup s.settings.signs k).isSome ∧
    (s.sign k).isSome = (lookup s.settings.signs k).isSome

/-- A sign whose panel is SENDING is the sign in transfer on its string, in an attempt that is not orphaned. -/
def State.SendingHeld (s : State) : Prop :=
  ∀ k p, s.panel k = some p → p.state = .sending →
    ∃ r a, lookup s.settings.signs k = some r ∧ s.transfer r.string = some a ∧ a.sign = k ∧ a.orphaned = false

/-! ## Segments (R90 to R93) -/

/-- Every segment with a record has a state record, derived from its sources as they stand; no other has one. -/
def State.SegmentsFollow (s : State) : Prop :=
  ∀ k, lookup s.segments k = (lookup s.settings.segments k).map fun r => s.deriveSegment k r

/-- A gate has a state exactly while it has a record. -/
def State.GatesWhole (s : State) : Prop := ∀ k, (s.gate k).isSome = (lookup s.settings.gates k).isSome

/-- No gate is UP under a closure in force, and none is in WARNING without one: every gate has answered the last tell
of its segment (R96, R111 to R113, R120, R125). -/
def State.GatesFollow (s : State) : Prop :=
  ∀ k r g, lookup s.settings.gates k = some r → s.gate k = some g →
    (g.position = .up → s.cif r.segment = false) ∧ (g.position = .warning → s.cif r.segment = true)

/-! ## Records in range and naming defined records (R88, R102, R105, R106, R135, R137, R139) -/

/-- Every gate guards a defined segment, and has approach signs, which are defined and announce it; every sign follows
a defined profile and announces defined segments. -/
def Settings.NamesDefined (c : Settings) : Prop :=
  (∀ k r, lookup c.gates k = some r → (lookup c.segments r.segment).isSome = true ∧ r.approach ≠ [] ∧
    ∀ x ∈ r.approach, ∃ q, lookup c.signs x = some q ∧ r.segment ∈ q.segments) ∧
  ∀ k r, lookup c.signs k = some r → (lookup c.profiles r.profile).isSome = true ∧
    ∀ x ∈ r.segments, (lookup c.segments x).isSome = true

/-- Every segment's caution level is at least 1, and its permit level lies from the caution level to 4. -/
def Settings.LevelsInRange (c : Settings) : Prop :=
  ∀ k r, lookup c.segments k = some r → 1 ≤ r.caution ∧ r.caution ≤ r.permit ∧ r.permit ≤ 4

/-- Some settings have their levels in range and name only what they define. -/
def Settings.Whole (c : Settings) : Prop := c.NamesDefined ∧ c.LevelsInRange

/-- The working settings, the saved copy and the copy being written are whole. -/
def State.TablesWhole (s : State) : Prop :=
  s.settings.Whole ∧ (∀ c, s.store.saved = some c → c.Whole) ∧ ∀ w, s.store.write = some w → w.copy.Whole

/-! ## Composed images (R147, R158, R160) -/

/-- A sign's image is what its sources give as they stand: identity and claims are those of a composition, and its
slots are those of the sign's record. -/
def State.ImageFollows (s : State) (k : Nat) : Prop :=
  ∀ r c, lookup s.settings.signs k = some r → s.sign k = some c →
    c.image.identity = (s.compose k r c.front).identity ∧ c.image.claims = (s.compose k r c.front).claims ∧
      c.image.cells.length = r.cells ∧ c.image.lines.map List.length = List.replicate r.lines r.lineLength

/-- Every sign's image is what its sources give. -/
def State.ImagesFollow (s : State) : Prop := ∀ k, s.ImageFollows k

/-! ## Holds (R109, R114, R115) -/

/-- An approach sign agrees: its panel is in FAULT, or it has confirmed an image with the closure segment (R114). -/
def State.Agrees (s : State) (segment sign : Nat) : Prop :=
  ∃ p, s.panel sign = some p ∧
    (p.state = .fault ∨ ∃ image, p.confirmed = some image ∧ image.claims.closureSegment = some segment)

/-- A gate has a hold start exactly while it is in WARNING, in LOWERING or in RAISING of kind OBSTRUCTION and every
approach sign agrees. -/
def State.HoldsFollow (s : State) : Prop :=
  ∀ k r g, lookup s.settings.gates k = some r → s.gate k = some g →
    (g.holdStart ≠ none ↔
      (g.position = .warning ∨ g.position = .lowering ∨ g.position = .raising .obstruction) ∧
        ∀ sign ∈ r.approach, s.Agrees r.segment sign)

/-! ## Lines and gate outputs (R18, R19, R110) -/

/-- Every gate's three outputs are lines, distinct, and no other gate's. -/
def Settings.OutputsOwned (c : Settings) : Prop :=
  ∀ k r, lookup c.gates k = some r →
    (∀ l ∈ r.outputs, 1 ≤ l ∧ l ≤ 16) ∧ r.outputs.Nodup ∧
      ∀ j q, j ≠ k → lookup c.gates j = some q → ∀ l ∈ r.outputs, l ∉ q.outputs

/-- No input is named twice: not in one gate record, in two gate records, in a gate record and the calibration set, or
in the calibration set (R18, R19). -/
def Settings.InputsOwned (c : Settings) : Prop :=
  (∀ k r, lookup c.gates k = some r → r.inputs.Nodup ∧ (∀ l ∈ r.inputs, l ∉ c.calibration.named) ∧
    ∀ j q, j ≠ k → lookup c.gates j = some q → ∀ l ∈ r.inputs, l ∉ q.inputs) ∧
  c.calibration.named.Nodup

/-- Some settings give every line one owner. -/
def Settings.LinesOwned (c : Settings) : Prop := c.OutputsOwned ∧ c.InputsOwned

/-- The working settings, the saved copy and the copy being written give every line one owner. -/
def State.TablesOwned (s : State) : Prop :=
  s.settings.LinesOwned ∧ (∀ c, s.store.saved = some c → c.LinesOwned) ∧ ∀ w, s.store.write = some w → w.copy.LinesOwned

/-- Every gate's outputs stand at the setting of its state (R110). -/
def State.OutputsFollow (s : State) : Prop :=
  ∀ k r g, lookup s.settings.gates k = some r → s.gate k = some g →
    levelAt s.field.outputs r.lower = g.position.setting.1 ∧
      levelAt s.field.outputs r.raise = g.position.setting.2.1 ∧
      levelAt s.field.outputs r.flasher = g.position.setting.2.2

/-- No gate's lower and raise outputs are both on (R110). -/
def State.NeverBothWays (s : State) : Prop :=
  ∀ k r g, lookup s.settings.gates k = some r → s.gate k = some g →
    ¬ (levelAt s.field.outputs r.lower = true ∧ levelAt s.field.outputs r.raise = true)

end Sys2Proof.Machine
end

