-- ==== Sys2Proof/WellFormed.lean ====
section
/-! DEFINITION. Well-formed commands: operands that can come up at all. A request's body fits the largest frame
(R179, R204), and lines, gates and signs are numbers the part has (00_scope 1.8). -/

namespace Sys2Proof

/-- The bytes of a request after its tag fit a frame body of at most 240 bytes (R179). -/
def fieldsFit (fields : List Byte) : Bool := decide (fields.length + 1 ≤ Config.maxBody)

/-- A field input line, FI1 to FI16. -/
def isLine (line : Nat) : Bool := decide (1 ≤ line) && decide (line ≤ 16)

/-- A gate number (R105). -/
def isGate (gate : Nat) : Bool := decide (1 ≤ gate) && decide (gate ≤ 8)

/-- A sign number (R134). -/
def isSign (sign : Nat) : Bool := decide (1 ≤ sign) && decide (sign ≤ 16)

/-- A frame of UNKNOWN_KIND: it fits a frame, and its body is empty or its kind names no request (R184). -/
def isUnknown (kind : Byte) (body : List Byte) : Bool :=
  decide (body.length ≤ Config.maxBody) && (body.isEmpty || !Machine.isRequestKind kind)

/-- Whether a command is well-formed. -/
def Instr.wellFormed : Instr → Bool
  | .timeSet _ _ fields => fieldsFit fields
  | .noticePost _ _ fields => fieldsFit fields
  | .noticeWithdraw _ _ fields => fieldsFit fields
  | .pageWrite _ _ fields => fieldsFit fields
  | .pageSwap _ _ fields => fieldsFit fields
  | .textLoad _ _ fields => fieldsFit fields
  | .gateRaise _ _ fields => fieldsFit fields
  | .gateClear _ _ fields => fieldsFit fields
  | .pathFloor _ _ fields => fieldsFit fields
  | .restart _ _ fields => fieldsFit fields
  | .definePath _ _ fields => fieldsFit fields
  | .defineSegment _ _ fields => fieldsFit fields
  | .defineGate _ _ fields => fieldsFit fields
  | .defineSign _ _ fields => fieldsFit fields
  | .defineProfile _ _ fields => fieldsFit fields
  | .defineGroup _ _ fields => fieldsFit fields
  | .removePath _ _ fields => fieldsFit fields
  | .removeSegment _ _ fields => fieldsFit fields
  | .removeGate _ _ fields => fieldsFit fields
  | .removeSign _ _ fields => fieldsFit fields
  | .removeProfile _ _ fields => fieldsFit fields
  | .removeGroup _ _ fields => fieldsFit fields
  | .calibrate _ _ fields => fieldsFit fields
  | .linkSet _ _ fields => fieldsFit fields
  | .saveSettings _ _ fields => fieldsFit fields
  | .queryStatus _ _ fields => fieldsFit fields
  | .queryPath _ _ fields => fieldsFit fields
  | .querySegment _ _ fields => fieldsFit fields
  | .queryGate _ _ fields => fieldsFit fields
  | .querySign _ _ fields => fieldsFit fields
  | .queryNotices _ _ fields => fieldsFit fields
  | .queryStep _ _ fields => fieldsFit fields
  | .queryText _ _ fields => fieldsFit fields
  | .unknownKind _ kind body => isUnknown kind body
  | .stationFrameReceived _ _ => true
  | .gapExpiry _ => true
  | .replySent _ => true
  | .reportAgeExpiry _ => true
  | .reportFrameSent _ => true
  | .silenceLimitReached _ => true
  | .storeWriteEnd _ _ => true
  | .storeWriteTimeout _ => true
  | .start _ phase => decide (phase ≤ usPerSecond)
  | .supplyLoss _ _ => true
  | .fieldLineChange _ line _ => isLine line
  | .changeEvent _ line => isLine line
  | .widthEdge _ line _ => isLine line
  | .vaneSample _ => true
  | .stepEnd _ => true
  | .clockTick _ => true
  | .holdDeadline _ gate => isGate gate
  | .clearZoneExpiry _ gate => isGate gate
  | .travelTimeout _ gate => isGate gate
  | .refreshDue _ sign => isSign sign
  | .retryDue _ sign => isSign sign
  | .imageFrameSent _ _ => true
  | .shownFrameReceived _ _ _ => true
  | .replyWindowEnd _ _ => true
  | .badLength _ length => decide (Config.maxBody < length.toNat)
  | .missingStopBit _ => true

/-- Kind and body of the frame that a request row takes from the inbound queue (R184, R205, R213). -/
def Instr.requestFrame : Instr → Option (Byte × List Byte)
  | .timeSet _ tag fields => some (Machine.kindTimeSet, tag :: fields)
  | .noticePost _ tag fields => some (Machine.kindNoticePost, tag :: fields)
  | .noticeWithdraw _ tag fields => some (Machine.kindNoticeWithdraw, tag :: fields)
  | .pageWrite _ tag fields => some (Machine.kindPageWrite, tag :: fields)
  | .pageSwap _ tag fields => some (Machine.kindPageSwap, tag :: fields)
  | .textLoad _ tag fields => some (Machine.kindTextLoad, tag :: fields)
  | .gateRaise _ tag fields => some (Machine.kindGateRaise, tag :: fields)
  | .gateClear _ tag fields => some (Machine.kindGateClear, tag :: fields)
  | .pathFloor _ tag fields => some (Machine.kindPathFloor, tag :: fields)
  | .restart _ tag fields => some (Machine.kindRestart, tag :: fields)
  | .definePath _ tag fields => some (Machine.kindDefinePath, tag :: fields)
  | .defineSegment _ tag fields => some (Machine.kindDefineSegment, tag :: fields)
  | .defineGate _ tag fields => some (Machine.kindDefineGate, tag :: fields)
  | .defineSign _ tag fields => some (Machine.kindDefineSign, tag :: fields)
  | .defineProfile _ tag fields => some (Machine.kindDefineProfile, tag :: fields)
  | .defineGroup _ tag fields => some (Machine.kindDefineGroup, tag :: fields)
  | .removePath _ tag fields => some (Machine.kindRemoveItem, tag :: fields)
  | .removeSegment _ tag fields => some (Machine.kindRemoveItem, tag :: fields)
  | .removeGate _ tag fields => some (Machine.kindRemoveItem, tag :: fields)
  | .removeSign _ tag fields => some (Machine.kindRemoveItem, tag :: fields)
  | .removeProfile _ tag fields => some (Machine.kindRemoveItem, tag :: fields)
  | .removeGroup _ tag fields => some (Machine.kindRemoveItem, tag :: fields)
  | .calibrate _ tag fields => some (Machine.kindCalibrate, tag :: fields)
  | .linkSet _ tag fields => some (Machine.kindLinkSet, tag :: fields)
  | .saveSettings _ tag fields => some (Machine.kindSaveSettings, tag :: fields)
  | .queryStatus _ tag fields => some (Machine.kindQueryStatus, tag :: fields)
  | .queryPath _ tag fields => some (Machine.kindQueryPath, tag :: fields)
  | .querySegment _ tag fields => some (Machine.kindQuerySegment, tag :: fields)
  | .queryGate _ tag fields => some (Machine.kindQueryGate, tag :: fields)
  | .querySign _ tag fields => some (Machine.kindQuerySign, tag :: fields)
  | .queryNotices _ tag fields => some (Machine.kindQueryNotices, tag :: fields)
  | .queryStep _ tag fields => some (Machine.kindQueryStep, tag :: fields)
  | .queryText _ tag fields => some (Machine.kindQueryText, tag :: fields)
  | .unknownKind _ kind body => some (kind, body)
  | .stationFrameReceived _ _ => none
  | .gapExpiry _ => none
  | .replySent _ => none
  | .reportAgeExpiry _ => none
  | .reportFrameSent _ => none
  | .silenceLimitReached _ => none
  | .storeWriteEnd _ _ => none
  | .storeWriteTimeout _ => none
  | .start _ _ => none
  | .supplyLoss _ _ => none
  | .fieldLineChange _ _ _ => none
  | .changeEvent _ _ => none
  | .widthEdge _ _ _ => none
  | .vaneSample _ => none
  | .stepEnd _ => none
  | .clockTick _ => none
  | .holdDeadline _ _ => none
  | .clearZoneExpiry _ _ => none
  | .travelTimeout _ _ => none
  | .refreshDue _ _ => none
  | .retryDue _ _ => none
  | .imageFrameSent _ _ => none
  | .shownFrameReceived _ _ _ => none
  | .replyWindowEnd _ _ => none
  | .badLength _ _ => none
  | .missingStopBit _ => none

end Sys2Proof
end

