-- ==== Sys2Proof/Certificates/Slice0/Obligations.lean ====
section
/-! DEFINITION. The statements for the provers. `Sys2Proof.Claims` holds what they share: the parts of the state with
the frame over them, how far the reactions of the blocks reach, and what a request finds and leaves. -/

namespace Sys2Proof.Claims

open Sys2Proof Sys2Proof.Machine

/-! ## Frames -/

/-- The parts of the state. -/
inductive Part where
  | queue | supply | moment | choices | lastStart | areaCheck
  | pins | inputs | outputs | channels | zones
  | weather | memories | readouts
  | clock | clockPhase | paths | notices
  | segments | gates | signs | panels | transfers | arbiters
  | receiver | inbound | carrying | restartDue | outbox | transmitter | reports | silence | attended
  | calibration | pathRecords | segmentRecords | gateRecords | signRecords | profiles | groups | texts | link
  | saved | write
  deriving DecidableEq

/-- A part is as it was. -/
def Stays (s t : State) : Part → Prop
  | .queue => t.pending = s.pending
  | .supply => t.powered = s.powered
  | .moment => t.now = s.now
  | .choices => t.schedule = s.schedule
  | .lastStart => t.lastStart = s.lastStart
  | .areaCheck => t.retained.checkHolds = s.retained.checkHolds
  | .pins => t.field.lines = s.field.lines
  | .inputs => t.field.inputs = s.field.inputs
  | .outputs => t.field.outputs = s.field.outputs
  | .channels => t.field.channels = s.field.channels
  | .zones => t.field.clearZones = s.field.clearZones
  | .weather => t.weather = s.weather
  | .memories => t.retained.lastTemp = s.retained.lastTemp ∧ t.retained.prevSector = s.retained.prevSector
  | .readouts => t.composer.temp = s.composer.temp ∧ t.composer.wind = s.composer.wind
  | .clock => t.retained.clock = s.retained.clock
  | .clockPhase => t.clockNext = s.clockNext
  | .paths => t.retained.paths = s.retained.paths
  | .notices => t.retained.notices = s.retained.notices
  | .segments => t.segments = s.segments
  | .gates => t.gates = s.gates
  | .signs => t.composer.signs = s.composer.signs
  | .panels => t.strings.panels = s.strings.panels
  | .transfers => t.strings.transferA = s.strings.transferA ∧ t.strings.transferB = s.strings.transferB
  | .arbiters => t.strings.due = s.strings.due ∧ t.strings.tells = s.strings.tells
  | .receiver => t.line.receiver = s.line.receiver ∧ t.line.lastByte = s.line.lastByte
  | .inbound => t.line.inbound = s.line.inbound
  | .carrying => t.line.carrying = s.line.carrying
  | .restartDue => t.line.restartDue = s.line.restartDue
  | .outbox => t.line.outbox = s.line.outbox
  | .transmitter => t.line.transmitter = s.line.transmitter
  | .reports => t.line.buffer = s.line.buffer ∧ t.line.nextSequence = s.line.nextSequence
  | .silence => t.line.lastValid = s.line.lastValid
  | .attended => t.line.attended = s.line.attended
  | .calibration => t.settings.calibration = s.settings.calibration
  | .pathRecords => t.settings.paths = s.settings.paths
  | .segmentRecords => t.settings.segments = s.settings.segments
  | .gateRecords => t.settings.gates = s.settings.gates
  | .signRecords => t.settings.signs = s.settings.signs
  | .profiles => t.settings.profiles = s.settings.profiles
  | .groups => t.settings.groups = s.settings.groups
  | .texts => t.settings.texts = s.settings.texts
  | .link => t.settings.silenceLimit = s.settings.silenceLimit ∧ t.settings.autoClose = s.settings.autoClose
  | .saved => t.store.saved = s.store.saved
  | .write => t.store.write = s.store.write ∧ t.store.writes = s.store.writes

/-- Every part but the ones listed is as it was. -/
def Frame (changed : List Part) (s t : State) : Prop := ∀ p, p ∉ changed → Stays s t p

/-- What every command can touch: time passes, the transmitter goes on (R190), records join the buffer or are marked as
being sent, and free order choices are used up (log entries 9 and 10). -/
def always : List Part := [.moment, .transmitter, .reports, .choices]

/-- What an answered request touches besides. -/
def answered : List Part := always ++ [.inbound, .outbox]

/-- What the reactions of the blocks touch: segments, gates, outputs, signs, panels and strings. -/
def road : List Part := [.outputs, .segments, .gates, .signs, .panels, .transfers, .arbiters]

/-- The moment of the command has come; time never runs back (log entry 1). -/
def Passed (m : Moment) (s t : State) : Prop := t.now = max s.now m

/-- The milliseconds from an earlier moment to a later one, each read from the count held to the millisecond
(R164; chapter 9). -/
def msBetween (later earlier : Moment) : Nat := later / usPerMs - earlier / usPerMs

/-- The elapsed-time count in whole seconds at the moment of a command. -/
def secondsAt (m : Moment) (s : State) : Nat := max s.now m / usPerSecond

/-- The records in the report buffer, with the number the next one gets, are what queueing some reports leaves
(R187, R188). -/
def Reported (bs : List ReportBody) (s t : State) : Prop :=
  t.line.buffer.map Buffered.record = (s.reports bs).line.buffer.map Buffered.record ∧
    t.line.nextSequence = (s.reports bs).line.nextSequence

/-- Nothing but reports other than LEVEL reports is queued (R61). -/
def ReportedWithoutLevel (s t : State) : Prop :=
  ∃ more, Reported more s t ∧ ∀ path before after h, ReportBody.level path before after h ∉ more

/-- Some reports are queued first, and reports of the blocks that react after them. -/
def ReportedFirst (bs : List ReportBody) (s t : State) : Prop := ∃ more, Reported (bs ++ more) s t

/-- Nothing happens but that time passes, and what the listed parts say. -/
def Quiet (also : List Part) (s t : State) : Prop := Frame (always ++ also) s t ∧ Reported [] s t

/-- One record of a table is replaced, and no other. -/
def Put {α : Type} {n : Nat} (v w : Vector (Option α) n) (k : Nat) (x : Option α) : Prop :=
  lookup w k = x ∧ ∀ j, j ≠ k → lookup w j = lookup v j

/-- Every number of a list has a record. -/
def AllDefined {α : Type} {n : Nat} (table : Vector (Option α) n) (ks : List Nat) : Prop :=
  ∀ k ∈ ks, (lookup table k).isSome = true

/-- The lowest number with a property; none where no number has it. -/
def Lowest (P : Nat → Prop) (o : Option Nat) : Prop :=
  (o = none ↔ ∀ x, ¬ P x) ∧ ∀ x, o = some x → P x ∧ ∀ y, P y → x ≤ y

/-- The largest effective level among the paths that threaten one of some segments, 0 where none does (R91, R150). -/
def Largest (s : State) (segments : List Nat) (h : Nat) : Prop :=
  (∀ j q, lookup s.settings.paths j = some q → (∃ x ∈ segments, x ∈ q.segments) → (s.figures j).effective ≤ h) ∧
    (h = 0 ∨ ∃ j q, lookup s.settings.paths j = some q ∧ (∃ x ∈ segments, x ∈ q.segments) ∧
      (s.figures j).effective = h)

/-! ## How far reactions reach -/

/-- What a reaction can do to a panel record: begin a delivery from UNKNOWN or SHOWING (R171). -/
def PanelMay (p q : PanelRecord) : Prop :=
  q = p ∨ ((p.state = .unknown ∨ p.state = .showing) ∧ q = { p with state := .sending, attempts := 0 })

/-- What a reaction can do to a gate. A gate that is neither UP nor in WARNING keeps state, count and travel timer, and
all of itself where its hold start follows no sign; a gate that is UP or in WARNING can be told of a closure, of its
end, or of a sign (R112, R113, R117). -/
def GateMay (g h : GateState) : Prop :=
  h.reversals = g.reversals ∧
    (g.position = .up ∨ g.position = .warning →
      h.position = .up ∨ h.position = .warning ∨ h.position = .lowering) ∧
    (g.position ≠ .up → g.position ≠ .warning → h.position = g.position ∧ h.travelExpiry = g.travelExpiry ∧
      (g.position.followsSigns = false → h = g))

/-- The blocks react to each other, with gates, panels, pages and strings of some numbers left out. A gate, a panel or
a sign appears or goes only with its record; outputs that no gate record names stay, before and after; and an attempt
in flight stays. -/
structure Reacts (gates panels pages : List Nat) (strings : List StringId) (s t : State) : Prop where
  gates : ∀ k, k ∉ gates → (s.gate k = none → t.gate k = none) ∧
    ∀ g, s.gate k = some g → ∃ h, t.gate k = some h ∧ GateMay g h
  outputs : ∀ l, 1 ≤ l → l ≤ 16 →
    (∀ k r, lookup s.settings.gates k = some r ∨ lookup t.settings.gates k = some r → l ∉ r.outputs) →
      levelAt t.field.outputs l = levelAt s.field.outputs l
  segments : ∀ k, (lookup t.settings.segments k).isSome = (lookup s.settings.segments k).isSome →
    (lookup t.segments k).isSome = (lookup s.segments k).isSome
  panels : ∀ k, k ∉ panels → (s.panel k = none → t.panel k = none) ∧
    ∀ p, s.panel k = some p → ∃ q, t.panel k = some q ∧ PanelMay p q
  pages : ∀ k, k ∉ pages → (s.sign k = none → t.sign k = none) ∧
    ∀ c, s.sign k = some c → ∃ d, t.sign k = some d ∧ d.front = c.front ∧ d.back = c.back ∧
      (c.marked = true → d.marked = true)
  strings : ∀ x, x ∉ strings → ∀ a, s.transfer x = some a → t.transfer x = some a

/-- The blocks react to each other. -/
def RoadReacts : State → State → Prop := Reacts [] [] [] []

/-- A gate has come to a state: exactly, or where it came to UP or WARNING a tell in the same event may have taken it
on (R96, R112, R113, R117). -/
def Came (k : Nat) (g : GateState) (t : State) : Prop := ∃ h, t.gate k = some h ∧ GateMay g h

/-! ## Requests (R184) -/

/-- The oldest frame of the queue is a request, nothing is being carried out and no reply to a carried-out request
waits, so it can be taken (R184). -/
def Ready (s : State) (kind tag : Byte) (fields : List Byte) : Prop :=
  s.powered = true ∧ s.line.carrying = none ∧ s.line.outbox.all Reply.isBusy = true ∧
    s.line.inbound.head? = some ⟨kind, tag :: fields⟩

/-- The oldest frame has left the queue and its reply stands last in the outbox, with kind and tag (R184). -/
def Answered (s t : State) (kind tag : Byte) (a : Answer) : Prop :=
  t.line.inbound = s.line.inbound.tail ∧ t.line.outbox = s.line.outbox ++ [⟨tag, kind, a⟩]

/-- A request row is taken: it answers a next state at its moment, with its reply. -/
def Taken (i : Instr) (m : Moment) (kind tag : Byte) (a : Answer) (s t : State) : Prop :=
  exec i s = .next t ∧ Passed m s t ∧ Answered s t kind tag a

/-- A request row is taken and refused with a code and a sub-reason; the queue and the outbox alone change (R184). -/
def Refuses (i : Instr) (m : Moment) (kind tag : Byte) (code : RefusalCode) (sub : SubReason) (s : State) : Prop :=
  ∃ t, Taken i m kind tag (.refused code sub) s t ∧ Quiet [.inbound, .outbox] s t

/-! ## Field inputs -/

/-- An input's candidate has been held for its debounce time at a moment (R2). -/
def Held (s : State) (m : Moment) (line : Nat) (c : Candidate) : Prop :=
  ∃ i, itemAt s.field.inputs line = some i ∧ i.candidate = some c ∧ c.since + c.debounce * usPerMs ≤ max s.now m

/-- The input has accepted the level and dropped its candidate, and every other input is as it was (R2). -/
def Accepts (s t : State) (line : Nat) (high : Bool) : Prop :=
  itemAt t.field.inputs line = some ⟨high, none⟩ ∧
    ∀ j, j ≠ line → itemAt t.field.inputs j = itemAt s.field.inputs j

/-! ## The hold of a gate (R114, R116) -/

/-- The warn-hold, doubled while an approach sign is in FAULT (R116). -/
def Required (s : State) (r : GateRecord) (q : Nat) : Prop :=
  ((∃ sign ∈ r.approach, ∃ p, s.panel sign = some p ∧ p.state = .fault) ∧ q = 2 * r.warnHold) ∨
    ((∀ sign ∈ r.approach, ∀ p, s.panel sign = some p → p.state ≠ .fault) ∧ q = r.warnHold)

/-- A hold has been served: every approach sign agrees, and has for as long as required (R117). -/
def Served (s : State) (seconds : Nat) (r : GateRecord) (g : GateState) : Prop :=
  (∀ sign ∈ r.approach, s.Agrees r.segment sign) ∧ ∃ h q, g.holdStart = some h ∧ Required s r q ∧ h + q ≤ seconds

/-- The report of a change of a gate, where state or stop cause changed (R132). -/
def gateReport (k : Nat) (before after : GateState) (cause : GateCause) : List ReportBody :=
  if before.position = after.position then []
  else [.gate k (some before.position) (some after.position) after.reversals cause]

/-- A gate at rest in a state: no hold, no travel timer. -/
def atRest (p : GatePosition) (reversals : Nat) : GateState := ⟨p, none, reversals, none⟩

/-- A gate takes a new state, reported and handed on (R132): the gate itself is left out of the frame of the reactions,
and the parts listed are touched besides. -/
def Moves (k : Nat) (before after : GateState) (cause : GateCause) (also : List Part) (s t : State) : Prop :=
  Came k after t ∧ ReportedFirst (gateReport k before after cause) s t ∧ Reacts [k] [] [] [] s t ∧
    Frame (always ++ road ++ also) s t

/-! ## Tables of the spec -/

/-- What the down-switch coming active does to a gate whose up-switch is inactive (R119, R124, R126). -/
def downOutcome (g : GateState) : Option (GateState × GateCause) :=
  match g.position with
  | .up => some (atRest .down 0, .forced)
  | .warning => some (atRest .down 0, .forced)
  | .stopped .position => some (atRest .down 0, .forced)
  | .stopped .forced => some (atRest .down 0, .forced)
  | .lowering => some (atRest .down 0, .limit)
  | .raising _ => some (atRest (.stopped .forced) g.reversals, .forced)
  | .stopped .switches => none
  | .stopped .timeout => none
  | .stopped .obstruction => none
  | .down => none
  | .inLocal => none

/-- What the up-switch coming active does to a gate whose down-switch is inactive (R120, R123, R125, R126). -/
def upOutcome (cif : Bool) (g : GateState) : Option (GateState × GateCause) :=
  match g.position with
  | .raising _ => some (atRest (if cif then .warning else .up) g.reversals, .limit)
  | .lowering => some (atRest (.stopped .forced) g.reversals, .forced)
  | .down => some (atRest (if cif then .stopped .forced else .up) g.reversals, .forced)
  | .stopped .position => some (atRest (if cif then .stopped .forced else .up) g.reversals, .forced)
  | .stopped .forced => some (atRest (if cif then .stopped .forced else .up) g.reversals, .forced)
  | .stopped .switches => none
  | .stopped .timeout => none
  | .stopped .obstruction => none
  | .up => none
  | .warning => none
  | .inLocal => none

/-- What a switch coming active does to a gate whose other switch is active (R126). -/
def bothOutcome (g : GateState) : Option (GateState × GateCause) :=
  match g.position with
  | .stopped .switches => none
  | .stopped .timeout => none
  | .stopped .obstruction => none
  | .inLocal => none
  | _ => some (atRest (.stopped .switches) g.reversals, .switches)

/-- The levels of FIk, FIk+1 and FIk+2 for the sectors 0 to 7 (R11). -/
def grayLevels : List (Bool × Bool × Bool) :=
  [(false, false, false), (false, false, true), (false, true, true), (false, true, false),
   (true, true, false), (true, true, true), (true, false, true), (true, false, false)]

/-- What an edge on its source line does to a WIDTH channel (R9). -/
def edgeTable (now : Moment) (high : Bool) : ChannelTotals → ChannelTotals
  | .width n sum .idle => if high then .width n sum (.measuring now) else .width n sum .idle
  | .width n sum (.measuring since) =>
    if high then .width n sum (.measuring since)
    else if 1000 ≤ min (now - since) 65535 ∧ min (now - since) 65535 ≤ 9000 ∧ n < 65535 then
      .width (n + 1) (sum + min (now - since) 65535) .idle
    else .width n sum .idle
  | .width n sum .blind => if high then .width n sum .blind else .width n sum .idle
  | c => c

/-- The snow fraction in percent (R36). -/
def fraction (t : Option Int) : Nat :=
  match t with
  | none => 100
  | some t => if t ≤ 0 then 100 else if t ≤ 19 then (100 - 5 * t).toNat else 0

/-- The wind load (R37). -/
def wind (u : Nat) (lee : BitVec 8) (sector : Option Nat) (w : Nat) : Nat :=
  match sector with
  | none => if u < 40 then 0 else min 400 ((u - 40) ^ 2 / 16) * w / 100
  | some k => if u < 40 ∨ lee.getLsbD k = false then 0 else min 400 ((u - 40) ^ 2 / 16) * w / 100

/-- The warming load (R38). -/
def warming (t : Option Int) (m : Nat) : Nat :=
  match t with
  | none => 0
  | some t => if t ≤ 10 then 0 else ((t - 10) * m / 100).toNat

/-- The raw index (R36 to R39). -/
def raw (r : PathRecord) (w : StepWeather) (h : Nat) : Nat :=
  h - h * r.settling / 1000 + w.p * fraction w.t / 100 * r.snow / 10 + wind w.u r.lee w.sector r.wind +
    warming w.t r.warming

/-- A floor after a step end (R59). -/
def floorAfter (f : Option Floor) : Option Floor :=
  match f with
  | none => none
  | some f => if f.remaining ≤ 1 then none else some ⟨f.level, f.remaining - 1⟩

/-- A path's figures after a step end with the weather of a step (R54). -/
def figuresAfter (w : StepWeather) (r : PathRecord) (f : PathFigures) : PathFigures :=
  ⟨min (raw r w f.h) 10000, r.levelAfter f.level (min (raw r w f.h) 10000), floorAfter f.floor⟩

/-- The LEVEL report of a path whose effective level changed (R61). -/
def levelReport (k : Nat) (before after : PathFigures) : List ReportBody :=
  if before.effective = after.effective then [] else [.level k before.effective after.effective after.h]

/-- An autonomous-closure ask for a segment meets its three conditions (R82). -/
def AskMeets (s : State) (k : Nat) : Prop :=
  (s.settings.autoClose = .always ∨ (s.settings.autoClose = .unattendedOnly ∧ s.line.attended = false)) ∧
    (∀ n ∈ s.retained.notices, ¬ ((∃ since, n.state = .active since) ∧ n.kind = .closure ∧ k ∈ n.segments)) ∧
    ∀ n ∈ s.retained.notices, n.number ≠ 60200 + k

/-- The autonomous trigger asks for a segment: the effective level of a path that threatens it became 4 (R63). -/
def Triggered (s t : State) (k : Nat) : Prop :=
  1 ≤ k ∧ k ≤ 8 ∧ ∃ j r, lookup s.settings.paths j = some r ∧ k ∈ r.segments ∧ (s.figures j).effective < 4 ∧
    (t.figures j).effective = 4

/-- The autonomous notice of a segment (R83). -/
def autonomous (s : State) (k : Nat) : Notice :=
  ⟨60200 + k, .closure, [k], .avalanche, none, none, none, .autonomous, .active s.retained.clock⟩

/-- The Notice List loses nothing, and gains the autonomous notice of each segment that is triggered and whose ask
meets its conditions, once, and no other (R63, R82, R83). -/
def NoticesGain (s t : State) : Prop :=
  ∃ added, t.retained.notices.Perm (added ++ s.retained.notices) ∧ added.Nodup ∧
    ∀ n, n ∈ added ↔ ∃ k, n = autonomous s k ∧ Triggered s t k ∧ AskMeets s k

/-- Every gate is in the state it was in. -/
def GatesRest (s t : State) : Prop := ∀ k, (t.gate k).map GateState.position = (s.gate k).map GateState.position

/-- A sign is recomposed: its image is what its sources give, it is marked where its identity changed, and an equal
identity leaves the mark as it stood; where a gate moves in the same command the sign may be recomposed again (R160). -/
def Recomposed (s t : State) (k : Nat) : Prop :=
  t.ImageFollows k ∧ ∀ c d, s.sign k = some c → t.sign k = some d →
    (d.image.identity ≠ c.image.identity → d.marked = true) ∧
      (d.image.identity = c.image.identity → GatesRest s t → d.marked = c.marked)

/-- No sign but some is recomposed: where no gate moves, every other keeps image and mark (R160). -/
def RecomposesOnly (signs : Nat → Prop) (s t : State) : Prop := GatesRest s t → ∀ k, ¬ signs k → t.sign k = s.sign k

/-- Whether a clock walk at a time activates a record (R76). -/
def activates (now : Nat) (n : Notice) : Bool := !n.isActive && fallsDue n.startTime now

/-- A record after a clock walk at a time: removed, activated, or as it was (R70, R76, R77). -/
def afterWalk (now : Nat) (n : Notice) : Option Notice :=
  if fallsDue n.endTime now then none
  else if activates now n then some { n with state := .active n.startTime } else some n

/-- The reports of a clock walk about one record, activation first (R70). -/
def walkReports (now : Nat) (n : Notice) : List ReportBody :=
  (if activates now n then [.notice n.number .activated n.kind n.origin] else []) ++
    (if fallsDue n.endTime now then [.notice n.number .expired n.kind n.origin] else [])

/-- A clock walk at a time: the list walked, the reports in list order, and nothing else changed (R70). -/
def Walks (now : Nat) (also : List Part) (s t : State) : Prop :=
  t.retained.notices = s.retained.notices.filterMap (afterWalk now) ∧
    ReportedFirst (s.retained.notices.flatMap (walkReports now)) (s.withClock (some now)) t ∧ RoadReacts s t ∧
    Frame (always ++ road ++ [.clock, .clockPhase, .notices] ++ also) s t

/-! ## Bytes on the lines (R203) -/

/-- A number in a field of some bytes, most significant byte first. -/
def field : Nat → Nat → List Byte
  | 0, _ => []
  | width + 1, n => BitVec.ofNat 8 (n / 256 ^ width) :: field width n

/-- Fields in their order, each given by its width in bytes and its number. -/
def layout (fields : List (Nat × Nat)) : List Byte := fields.flatMap fun x => field x.1 x.2

/-- Numbers in one byte each. -/
def ones (ns : List Nat) : List (Nat × Nat) := ns.map fun n => (1, n)

/-- Start byte, covered bytes and check (R204, R211). -/
def framed (start : Byte) (covered : List Byte) : List Byte :=
  start :: (covered ++ field 2 (checkValue covered).toNat)

/-- A temperature in two bytes, two's complement, 0x8000 when it is absent. -/
def degrees (t : Option Int) : Nat :=
  match t with
  | none => 0x8000
  | some v => (v % 65536).toNat

/-- A Pass Clock time in four bytes, 0xFFFFFFFF when it is unset or absent. -/
def clockTime (t : Option Nat) : Nat := t.getD 0xFFFFFFFF

/-- A truth value in one byte. -/
def flag (b : Bool) : Nat := if b then 1 else 0

/-- The flags of a step (R210). -/
def stepFlags (f : StepFlags) : Nat :=
  flag f.noPrecip + 2 * flag f.tHeld + 4 * flag f.tFault + 8 * flag f.vane + 16 * flag f.pClamp + 32 * flag f.uClamp +
    64 * flag f.hClamp

end Sys2Proof.Claims

open Sys2Proof Sys2Proof.Machine Sys2Proof.Claims

/-! ## The machine -/

/-- A step runs the command at the front of the queue on the state with the queue's rest; with an empty queue the block
idles, which is the model's choice (log entry 1). -/
def Obligations.StepTakesFrontCommand : Prop :=
  (∀ c rest s, s.pending = c :: rest → step s = exec c { s with pending := rest }) ∧
    ∀ s, s.pending = [] → step s = .next s

/-- Every command answers a next state and leaves the queue as it is. A part held in reset takes only a start; besides
that its pins follow their lines and a SET clock counts on the retained supply (log entries 17 and 19). -/
def Obligations.EveryCommandAnswersNext : Prop :=
  (∀ i s, ∃ t, exec i s = .next t ∧ t.pending = s.pending) ∧
    (∀ i s, s.powered = false → (∀ kept phase, i ≠ .start kept phase) →
      (∀ m line high, i ≠ .fieldLineChange m line high ∧ i ≠ .widthEdge m line high) → (∀ m, i ≠ .clockTick m) →
        exec i s = .next s) ∧
    (∀ m line high s, s.powered = false → 1 ≤ line → line ≤ 16 →
      ∀ i, i = .fieldLineChange m line high ∨ i = .widthEdge m line high →
        ∃ t, exec i s = .next t ∧ levelAt t.field.lines line = high ∧
          (∀ j, j ≠ line → levelAt t.field.lines j = levelAt s.field.lines j) ∧ Frame [.pins] s t) ∧
    ∀ m s, s.powered = false →
      ∃ t, exec (.clockTick m) s = .next t ∧
        t.retained.clock = s.retained.clock.map (fun c => if c < 4294967294 then c + 1 else c) ∧ Frame [.clock] s t

/-- The state after reset is that of the part's first start, and its fields have the values the spec gives a cold start
with the factory settings (R194, R198, R199). That the store and the Retained Area have never been written, that the
pins are low and how the free order choices begin is the model's choice (log entries 7 and 9). The state meets every
invariant of the statements below. -/
def Obligations.ResetIsTheFirstStart : Prop :=
  let s := State.reset
  (State.neverStarted.startPart .supply false).withSchedule 0 = s.withSchedule 0 ∧
    s.pending = [] ∧ s.powered = true ∧ s.lastStart = .cold ∧ s.settings = factorySettings ∧ s.store.saved = none ∧
    s.store.write = none ∧
    (∀ k, 1 ≤ k → k ≤ 16 → itemAt s.settings.calibration.debounce k = some 20) ∧
    (∀ k, 1 ≤ k → k ≤ 6 → itemAt s.settings.calibration.channels k = some ⟨.off, .noRole, 0, 0⟩) ∧
    s.settings.calibration.tipSize = 20 ∧ s.settings.calibration.airRun = 700 ∧
    s.settings.silenceLimit = 300 ∧ s.settings.autoClose = .off ∧
    (∀ k, lookup s.settings.paths k = none ∧ lookup s.settings.segments k = none ∧
      lookup s.settings.gates k = none ∧ lookup s.settings.signs k = none ∧ lookup s.settings.profiles k = none ∧
      lookup s.settings.groups k = none) ∧
    (∀ k, 1 ≤ k → k ≤ 16 → levelAt s.field.outputs k = false) ∧ s.weather = ⟨0, 0, 0, []⟩ ∧
    s.composer.temp = .noStep ∧ s.composer.wind = none ∧ s.retained.clock = none ∧ s.retained.lastTemp = none ∧
    s.retained.prevSector = none ∧ s.retained.notices = [] ∧ s.retained.checkHolds = true ∧
    (∀ k, 1 ≤ k → k ≤ 12 → itemAt s.retained.paths k = some ⟨0, 0, none⟩) ∧ s.strings.transferA = none ∧
    s.strings.transferB = none ∧ s.line.receiver = .hunting ∧ s.line.inbound = [] ∧ s.line.outbox = [] ∧
    s.line.transmitter = .free ∧ s.line.attended = true ∧ s.line.nextSequence = 1 ∧
    s.line.buffer.map Buffered.record =
      [⟨0, none, .restart .cold .supply (some .retainedInvalid) true 0 0 0 0 0⟩] ∧
    s.Bounded ∧ s.OutboxInOrder ∧ s.Settled ∧ s.FiguresInRange ∧ s.VaneCounts ∧ s.NoticesInOrder ∧ s.PartMadeOnce ∧
    s.SignsWhole ∧ s.SendingHeld ∧ s.TablesOwned ∧ s.OutputsFollow ∧ s.NeverBothWays ∧ s.GatesWhole ∧
    s.SegmentsFollow ∧ s.GatesFollow ∧ s.TablesWhole ∧ s.ImagesFollow ∧ s.HoldsFollow

/-- The code of a channel mode (R215). -/
def Sys2Proof.Claims.modeCode : ChannelMode → Nat
  | .off => 0
  | .event => 1
  | .width => 2
  | .vane => 3

/-- The code of a channel role (R215). -/
def Sys2Proof.Claims.roleCode : ChannelRole → Nat
  | .noRole => 0
  | .precip => 1
  | .wind => 2
  | .temp => 3
  | .vane => 4

/-- The code of a readout form (R215). -/
def Sys2Proof.Claims.formCode : ReadoutForm → Nat
  | .temp => 1
  | .wind => 2
  | .both => 3

/-- The code of a closure style (R215). -/
def Sys2Proof.Claims.styleCode : ClosureStyle → Nat
  | .full => 1
  | .top => 2

/-- The kinds of the requests, those of the replies and of the report frame, the request kinds as a whole, and the item
kinds of REMOVE ITEM (R213). -/
def Sys2Proof.Claims.Kinds : Prop :=
  [kindTimeSet, kindNoticePost, kindNoticeWithdraw, kindPageWrite, kindPageSwap, kindTextLoad, kindGateRaise,
    kindGateClear, kindPathFloor, kindRestart] =
      [0x10, 0x11, 0x12, 0x13, 0x14, 0x15, 0x16, 0x17, 0x18, 0x19] ∧
  [kindDefinePath, kindDefineSegment, kindDefineGate, kindDefineSign, kindDefineProfile, kindDefineGroup,
    kindRemoveItem, kindCalibrate, kindLinkSet, kindSaveSettings] =
      [0x20, 0x21, 0x22, 0x23, 0x24, 0x25, 0x26, 0x27, 0x28, 0x29] ∧
  [kindQueryStatus, kindQueryPath, kindQuerySegment, kindQueryGate, kindQuerySign, kindQueryNotices, kindQueryStep,
    kindQueryText] = [0x30, 0x31, 0x32, 0x33, 0x34, 0x35, 0x36, 0x37] ∧
  [kindDone, kindRefused, kindReport] = [0x80, 0x81, 0x82] ∧
  (∀ k : Byte, k ∈ requestKinds ↔ (0x10 ≤ k.toNat ∧ k.toNat ≤ 0x19) ∨ (0x20 ≤ k.toNat ∧ k.toNat ≤ 0x29) ∨
    (0x30 ≤ k.toNat ∧ k.toNat ≤ 0x37)) ∧
  [itemPath, itemSegment, itemGate, itemSign, itemProfile, itemGroup] = [1, 2, 3, 4, 5, 6]

/-- What the part reads from a code is the named value that has it, and nothing from a code that none has (R215). -/
def Sys2Proof.Claims.CodesRead : Prop :=
  ∀ n, (∀ x, ChannelMode.ofCode n = some x ↔ modeCode x = n) ∧ (∀ x, ChannelRole.ofCode n = some x ↔ roleCode x = n) ∧
    (∀ x, ReadoutForm.ofCode n = some x ↔ formCode x = n) ∧ (∀ x, ClosureStyle.ofCode n = some x ↔ styleCode x = n) ∧
    (∀ x, AutoClose.ofCode n = some x ↔ x.code.toNat = n) ∧ (∀ x, StartKind.ofCode n = some x ↔ x.code.toNat = n) ∧
    (∀ x, NoticeKind.ofCode n = some x ↔ x.code.toNat = n) ∧ (∀ x, Reason.ofCode n = some x ↔ x.index = n) ∧
    (∀ x, stringOfCode n = some x ↔ (stringCode x).toNat = n) ∧ ∀ x, switchOfCode n = some x ↔ flag x = n

/-- The codes of the frame kinds, the refusals and the named values, as they are sent and read (R213 to R215). -/
def Sys2Proof.Claims.Codes : Prop :=
  Kinds ∧ CodesRead ∧
  ([.malformed, .unknownKind, .range, .unknownItem, .full, .conflict, .inMotion, .wrongState, .interlock, .noClock,
    .busy, .storeFail] : List RefusalCode).map RefusalCode.code = [1, 2, 3, 4, 5, 6, 7, 8, 9, 10, 11, 12] ∧
  ([.noReason, .closure, .hazard] : List SubReason).map SubReason.code = [0, 1, 2] ∧
  (∀ cause kind, ([.up, .warning, .lowering, .down, .raising kind, .stopped cause, .inLocal] :
      List GatePosition).map GatePosition.code = [1, 2, 3, 4, 5, 6, 7] ∧
    ([.up, .warning, .lowering, .down, .raising kind, .stopped cause, .inLocal] : List GatePosition).map
      GatePosition.stopCode = [0, 0, 0, 0, 0, cause.code, 0] ∧
    ([.up, .warning, .lowering, .down, .raising kind, .stopped cause, .inLocal] : List GatePosition).map
      GatePosition.raiseCode = [0, 0, 0, 0, kind.code, 0, 0]) ∧
  ([.position, .switches, .timeout, .obstruction, .forced] : List StopCause).map StopCause.code = [1, 2, 3, 4, 5] ∧
  ([.requested, .obstruction] : List RaiseKind).map RaiseKind.code = [1, 2] ∧
  ([.closure, .closureEnded, .hold, .limit, .obstruction, .timeout, .forced, .switches, .key, .request, .define] :
    List GateCause).map GateCause.code = [1, 2, 3, 4, 5, 6, 7, 8, 9, 10, 11] ∧
  ([.free, .caution, .closing, .closed, .released] : List RoadState).map RoadState.code = [1, 2, 3, 4, 5] ∧
  ([.closure, .restriction, .advisory] : List NoticeKind).map NoticeKind.code = [0, 1, 2] ∧
  ([.avalanche, .snow, .wind, .ice, .works, .event, .other] : List Reason).map Reason.index = [0, 1, 2, 3, 4, 5, 6] ∧
  ([.station, .held, .autonomous] : List Origin).map Origin.code = [0, 1, 2] ∧
  ([.created, .activated, .expired, .withdrawn] : List NoticeEvent).map NoticeEvent.code = [1, 2, 3, 4] ∧
  (∀ since, ([.pending, .active since] : List NoticeState).map NoticeState.code = [0, 1]) ∧
  ([.unknown, .sending, .showing, .fault] : List PanelState).map PanelState.code = [0, 1, 2, 3] ∧
  ([none, some .noReply, some .badFrame, some .wrongIdentity] : List (Option Failure)).map failureCode = [0, 1, 2, 3] ∧
  ([.valid, .held 1, .held 2, .held 3, .fault] : List TempState).map TempState.code = [0, 1, 2, 3, 4] ∧
  ([.off, .event, .width, .vane] : List ChannelMode).map modeCode = [0, 1, 2, 3] ∧
  ([.noRole, .precip, .wind, .temp, .vane] : List ChannelRole).map roleCode = [0, 1, 2, 3, 4] ∧
  ([.temp, .wind, .both] : List ReadoutForm).map formCode = [1, 2, 3] ∧
  ([.full, .top] : List ClosureStyle).map styleCode = [1, 2] ∧
  ([.off, .unattendedOnly, .always] : List AutoClose).map AutoClose.code = [0, 1, 2] ∧
  ([.a, .b] : List StringId).map stringCode = [0, 1] ∧ ([.warm, .cold] : List StartKind).map StartKind.code = [1, 2] ∧
  ([none, some .closure, some .hazard, some .restriction, some .base, some .weather] : List (Option Layer)).map
    layerCode = [0, 1, 2, 3, 4, 5]

/-- Record kind and fields of a report record after sequence number and clock value (R210). -/
def Sys2Proof.Claims.recordFields : ReportBody → Nat × List (Nat × Nat)
  | .step number p t tState u sector flags =>
    (1, [(2, number), (2, p), (2, degrees t), (1, tState.code.toNat), (2, u), (1, sector.getD 0xFF),
      (1, stepFlags flags)])
  | .level path before after h => (2, [(1, path), (1, before), (1, after), (2, h)])
  | .notice number event kind origin =>
    (3, [(2, number), (1, event.code.toNat), (1, kind.code.toNat), (1, origin.code.toNat)])
  | .segment k before after hmax closure =>
    (4, [(1, k), (1, (before.map RoadState.code).elim 0 BitVec.toNat), (1, (after.map RoadState.code).elim 0 BitVec.toNat),
      (1, hmax), (2, closure.getD 0)])
  | .gate k before after reversals cause =>
    (5, [(1, k), (1, (before.map GatePosition.code).elim 0 BitVec.toNat),
      (1, (after.map GatePosition.code).elim 0 BitVec.toNat), (1, (after.map GatePosition.stopCode).elim 0 BitVec.toNat),
      (1, reversals), (1, cause.code.toNat)])
  | .sign k string address event =>
    (6, [(1, k), (1, (stringCode string).toNat), (1, address)] ++ match event with
      | .enteredFault failure kept => [(1, 1), (1, (failureCode failure).toNat), (1, flag kept), (2, 0), (1, 0)]
      | .confirmed identity segment => [(1, 2), (1, 1), (1, 0), (2, identity.toNat), (1, segment.getD 0)]
      | .moved => [(1, 2), (1, 2), (1, 0), (2, 0), (1, 0)]
      | .removed => [(1, 2), (1, 3), (1, 0), (2, 0), (1, 0)])
  | .linkUnattended limit => (7, [(1, 1), (4, limit)])
  | .linkAttended silence => (7, [(1, 2), (4, silence)])
  | .restart kind cause reason factory paths segments gates signs notices =>
    (8, [(1, kind.code.toNat), (1, if cause = .supply then 1 else 2), (1, match reason with
        | none => 0
        | some .requested => 1
        | some .retainedInvalid => 2), (1, if factory then 2 else 1), (1, paths), (1, segments), (1, gates), (1, signs),
      (1, notices)])

/-- The bytes of a report record (R210). -/
def Sys2Proof.Claims.recordLayout (r : ReportRecord) : List Byte :=
  layout ((1, (recordFields r.body).1) :: (2, r.sequence) :: (4, clockTime r.clock) :: (recordFields r.body).2)

/-- The check value over no bytes and over the nine bytes 0x31 to 0x39; the identity of a composed image, which is taken
over closure segment, pictograms and codes; the codes of the frame kinds and of the named values; the frame of a kind and
a body on the station line; and the frames the part sends, byte by byte: DONE and REFUSED replies, report frames with
every kind of record, and IMAGE frames, whose counts and line length are those of the sent image (R158, R165, R180, R203,
R204, R210, R211, R213 to R215). What the transmitter sends is the oldest
reply or the records it has copied (R189, R190). -/
def Obligations.FramesAndIdentities : Prop :=
  checkValue [] = 0xFFFF ∧ checkValue [0x31, 0x32, 0x33, 0x34, 0x35, 0x36, 0x37, 0x38, 0x39] = 0x29B1 ∧
  (∀ (s : State) sign r front,
    (s.compose sign r front).identity =
      checkValue (byte ((s.compose sign r front).claims.closureSegment.getD 0) ::
        ((s.compose sign r front).cells.map byte ++
          (s.compose sign r front).lines.flatten.map fun (c : Code) => byte c.val))) ∧
  Codes ∧
  (∀ (kind : Byte) body,
    stationFrame kind body = framed 0xA5 (layout [(1, body.length), (1, kind.toNat)] ++ body)) ∧
  (∀ tag kind result, (⟨tag, kind, .done result⟩ : Reply).frame =
    framed 0xA5 (layout [(1, 2 + result.length), (1, 0x80), (1, tag.toNat), (1, kind.toNat)] ++ result)) ∧
  (∀ tag kind code sub, (⟨tag, kind, .refused code sub⟩ : Reply).frame =
    framed 0xA5 (layout [(1, 4), (1, 0x81), (1, tag.toNat), (1, kind.toNat), (1, code.code.toNat),
      (1, sub.code.toNat)])) ∧
  (∀ records : List ReportRecord, reportFrame records =
    framed 0xA5 (layout [(1, 1 + (records.flatMap recordLayout).length), (1, 0x82), (1, records.length)] ++
      records.flatMap recordLayout)) ∧
  (∀ (a : Attempt) c n k, a.sent.cells.length = c → a.sent.lines.map List.length = List.replicate n k → 1 ≤ n →
    a.frame = framed 0x5A
      (layout ([(1, 7 + c + n * k), (1, 1), (1, a.address), (2, a.sent.identity.toNat), (1, c), (1, n), (1, k)] ++
        ones (a.sent.cells ++ a.sent.lines.flatten.map Fin.val)))) ∧
  ∀ l : StationLine,
    (l.transmitter = .free → l.sending = []) ∧
    (∀ r rest, l.transmitter = .sendingReply → l.outbox = r :: rest → l.sending = r.frame) ∧
    ∀ records, l.transmitter = .sendingReports records → l.sending = reportFrame records

/-- Some fields stand in a body from an offset on, one after the other, each with a number that its width can hold
(R203). -/
def Sys2Proof.Claims.Stands (f : List Byte) (i : Nat) (fields : List (Nat × Nat)) : Prop :=
  (∀ x ∈ fields, x.2 < 256 ^ x.1) ∧ layout fields <+: f.drop i

/-- Count and entries of a list, one byte each. -/
def Sys2Proof.Claims.counted (ns : List Nat) : List (Nat × Nat) := ones (ns.length :: ns)

/-- The fields of DEFINE PATH up to its segments (R205). -/
def Sys2Proof.Claims.pathFields (k : Nat) (r : PathRecord) : List (Nat × Nat) :=
  [(1, k), (1, r.nameEntry), (1, r.lee.toNat), (1, r.snow), (1, r.wind), (1, r.warming), (1, r.settling), (2, r.t1),
    (2, r.t2), (2, r.t3), (2, r.t4), (2, r.band)] ++ counted r.segments

/-- The fields of DEFINE SEGMENT (R205). -/
def Sys2Proof.Claims.segmentFields (k : Nat) (r : SegmentRecord) : List (Nat × Nat) :=
  ones [k, r.nameEntry, r.caution, r.permit]

/-- The fields of DEFINE GATE up to its approach signs (R208). -/
def Sys2Proof.Claims.gateFields (k : Nat) (r : GateRecord) : List (Nat × Nat) :=
  [(1, k), (1, r.segment), (2, r.warnHold), (1, r.travel), (1, r.clearHold), (1, r.upSwitch), (1, r.downSwitch),
    (1, r.presence), (1, r.key), (1, r.lower), (1, r.raise), (1, r.flasher)] ++ counted r.approach

/-- The fields of DEFINE SIGN (R205). -/
def Sys2Proof.Claims.signFields (k : Nat) (r : SignRecord) : List (Nat × Nat) :=
  ones [k, (stringCode r.string).toNat, r.address, r.cells, r.lines, r.lineLength, r.profile] ++ counted r.segments

/-- The fields of DEFINE PROFILE (R205). -/
def Sys2Proof.Claims.profileFields (k : Nat) (r : ProfileRecord) : List (Nat × Nat) :=
  ones [k, flag r.hazard, r.showLevel, flag r.restriction, flag r.base, flag r.weather, formCode r.form,
    styleCode r.style]

/-- The fields of CALIBRATE (R205). -/
def Sys2Proof.Claims.calibrationFields (c : Calibration) : List (Nat × Nat) :=
  ones (c.debounce.toList ++
    c.channels.toList.flatMap (fun x => [modeCode x.mode, roleCode x.role, x.source, x.vaneOk]) ++ [c.tipSize]) ++
    [(2, c.airRun)]

/-- A field that is there or not. -/
def Sys2Proof.Claims.given (width : Nat) (x : Option Nat) : List (Nat × Nat) := x.toList.map fun n => (width, n)

/-- The fields of NOTICE POST, with the presence marker that says which of start, end and text entry there are (R206). -/
def Sys2Proof.Claims.postFields (p : PostedNotice) : List (Nat × Nat) :=
  [(2, p.number), (1, p.kind), (1, p.reason),
    (1, flag p.startTime.isSome + 2 * flag p.endTime.isSome + 4 * flag p.text.isSome)] ++
    given 4 p.startTime ++ given 4 p.endTime ++ given 1 p.text ++ counted p.segments

/-- A page entry at an offset gives a slot what it holds: nothing where its kind is 0, its value where its kind is the
slot's own and the value is allowed (R145, R207). -/
def Sys2Proof.Claims.EntryGives (f : List Byte) (i kind most : Nat) (slot : Option Nat) : Prop :=
  (byteAt f i = 0 ∧ slot = none) ∨ (byteAt f i = kind ∧ byteAt f (i + 1) ≤ most ∧ slot = some (byteAt f (i + 1)))

/-- The numbers of one, two and four bytes as they are read and written, and check values and times as they are written,
most significant byte first (R203). -/
def Sys2Proof.Claims.NumbersOnLines : Prop :=
  (∀ f i, (i + 1 ≤ f.length → Stands f i [(1, byteAt f i)]) ∧ (i + 2 ≤ f.length → Stands f i [(2, wordAt f i)]) ∧
    (i + 4 ≤ f.length → Stands f i [(4, longAt f i)]) ∧
    ∀ n, i + n ≤ f.length → (bytesAt f i n).length = n ∧ Stands f i (ones (bytesAt f i n))) ∧
  (∀ n, [byte n] = field 1 n ∧ word n = field 2 n ∧ long n = field 4 n) ∧
  (∀ c, checkBytes c = field 2 c.toNat) ∧ ∀ t, timeBytes t = field 4 (clockTime t)

/-- The record that a request body gives is the one whose fields stand in it, in order and width, from its first byte
after the tag; where a code, the marker or a count fits no record, none is read (R205 to R208). -/
def Sys2Proof.Claims.BodiesRead : Prop :=
  (∀ f, f.length = 22 → byteAt f 17 ≤ 4 → Stands f 0 (pathFields (byteAt f 0) (pathOf f))) ∧
  (∀ f, f.length = 4 → Stands f 0 (segmentFields (byteAt f 0) (segmentOf f))) ∧
  (∀ f, f.length = 17 → byteAt f 13 ≤ 3 → Stands f 0 (gateFields (byteAt f 0) (gateOf f))) ∧
  (∀ f r, f.length = 8 + byteAt f 7 → (signOf f = some r ↔ Stands f 0 (signFields (byteAt f 0) r))) ∧
  (∀ f r, f.length = 8 →
    (profileOf f = some r ↔ (1 ≤ r.showLevel ∧ r.showLevel ≤ 4) ∧ Stands f 0 (profileFields (byteAt f 0) r))) ∧
  (∀ f c, f.length = 43 → (calibrationOf f = some c ↔ Stands f 0 (calibrationFields c))) ∧
  (∀ f p, postedOf f = some p ↔ Stands f 0 (postFields p) ∧ f.length = (layout (postFields p)).length) ∧
  (∀ f page, pageOf f = some page ↔
    (∀ i (h : i < 2), EntryGives f (2 + 2 * i) 1 31 page.cells[i]) ∧
      ∀ i (h : i < 3), EntryGives f (6 + 2 * i) 2 255 page.lines[i]) ∧
  ∀ n f ts, textsOf n f = some ts ↔
    ts.length = n ∧ (∀ t ∈ ts, t.length ≤ 255) ∧ f = ts.flatMap fun t => field 1 t.length ++ t

/-- Numbers are read and written most significant byte first; a request body is read as the record whose fields stand in
it in the order and width of its layout (the texts, codes and entries that no record has, as none); a query returns a
record in the fields that define it; and what it returns reads back as that record, for every record in range (R203,
R205 to R209). That a query sends 0 in the places past a path's or a gate's count is the model's reading (log entry
15). -/
def Obligations.RecordsReadBack : Prop :=
  NumbersOnLines ∧ BodiesRead ∧
  (∀ k (r : PathRecord), r.segments.length ≤ 4 →
    pathBytes k r = layout (pathFields k r) ++ List.replicate (4 - r.segments.length) 0) ∧
  (∀ k (r : SegmentRecord), segmentBytes k r = layout (segmentFields k r)) ∧
  (∀ k (r : GateRecord), r.approach.length ≤ 3 →
    gateBytes k r = layout (gateFields k r) ++ List.replicate (3 - r.approach.length) 0) ∧
  (∀ k (r : SignRecord), signBytes k r = layout (signFields k r)) ∧
  (∀ k (r : PathRecord), 1 ≤ k → k ≤ 12 → r.inRange = true → r.nameEntry ≤ 255 → 1 ≤ r.segments.length →
    r.segments.length ≤ 4 →
      pathOf (pathBytes k r) = r ∧ byteAt (pathBytes k r) 0 = k ∧ (pathBytes k r).length = 22) ∧
    (∀ k (r : SegmentRecord), 1 ≤ k → k ≤ 8 → r.inRange = true → r.nameEntry ≤ 255 →
      segmentOf (segmentBytes k r) = r ∧ byteAt (segmentBytes k r) 0 = k ∧ (segmentBytes k r).length = 4) ∧
    (∀ k (r : GateRecord), 1 ≤ k → k ≤ 8 → r.inRange = true → 1 ≤ r.approach.length → r.approach.length ≤ 3 →
      gateOf (gateBytes k r) = r ∧ byteAt (gateBytes k r) 0 = k ∧ (gateBytes k r).length = 17) ∧
    ∀ k (r : SignRecord), 1 ≤ k → k ≤ 16 → r.inRange = true →
      signOf (signBytes k r) = some r ∧ byteAt (signBytes k r) 0 = k ∧
        (signBytes k r).length = 8 + r.segments.length

/-! ## The weather step -/

/-- The record of a step from the totals of its channels. Precipitation and wind speed: tips times tip size over 10,
cut at 500, and pulses times air run over 60000, cut at 600, with the marks PCLAMP and UCLAMP; without a PRECIP channel
P is 0 and NOPRECIP is set. Temperature, with the last-temperature memory after it: valid from 60 in-range pulses on,
held for up to three steps, then faulted. Prevailing sector: NONE above 300 invalid samples, else the largest bin, a tie
going to the previous sector if it is tied and else to the lowest number. -/
def Obligations.StepRecordFromTotals : Prop :=
  (∀ s : State,
     (s.stepRecord.p = min (s.stepRecord.tips * s.settings.calibration.tipSize / 10) 500 ∧
       (s.stepRecord.flags.pClamp = true ↔ 500 < s.stepRecord.tips * s.settings.calibration.tipSize / 10) ∧
       (s.roleTotals .precip = none → s.stepRecord.tips = 0 ∧ s.stepRecord.p = 0 ∧
         s.stepRecord.flags.noPrecip = true ∧ s.stepRecord.flags.pClamp = false) ∧
       ∀ n, s.roleTotals .precip = some (.event n) → s.stepRecord.tips = n ∧ s.stepRecord.flags.noPrecip = false) ∧
     s.stepRecord.u = min (s.stepRecord.pulses * s.settings.calibration.airRun / 60000) 600 ∧
     (s.stepRecord.flags.uClamp = true ↔ 600 < s.stepRecord.pulses * s.settings.calibration.airRun / 60000) ∧
     (s.roleTotals .wind = none → s.stepRecord.pulses = 0 ∧ s.stepRecord.u = 0) ∧
     ∀ n, s.roleTotals .wind = some (.event n) → s.stepRecord.pulses = n) ∧
  (∀ (s : State) count sum,
     ((∃ m, s.roleTotals .temp = some (.width count sum m)) ∨ (s.roleTotals .temp = none ∧ count = 0 ∧ sum = 0)) →
       s.stepRecord.tempPulses = count ∧
       (60 ≤ count → ∃ t : Int, t = (((sum / count : Nat) : Int) - 5000) / 10 ∧ s.stepRecord.t = some t ∧
         s.stepRecord.tState = .valid ∧ s.memoryAfter = some ⟨t, 0⟩ ∧ s.stepRecord.flags.tHeld = false ∧
         s.stepRecord.flags.tFault = false) ∧
       (count < 60 → ∀ v h, s.retained.lastTemp = some ⟨v, h⟩ → h ≤ 2 →
         s.stepRecord.t = some v ∧ s.stepRecord.tState = .held (h + 1) ∧ s.memoryAfter = some ⟨v, h + 1⟩ ∧
           s.stepRecord.flags.tHeld = true ∧ s.stepRecord.flags.tFault = false) ∧
       (count < 60 → (s.retained.lastTemp = none ∨ ∃ v, s.retained.lastTemp = some ⟨v, 3⟩) →
         s.stepRecord.t = none ∧ s.stepRecord.tState = .fault ∧ s.memoryAfter = s.retained.lastTemp ∧
           s.stepRecord.flags.tHeld = false ∧ s.stepRecord.flags.tFault = true)) ∧
  ∀ (s : State) (bin : Nat → Nat), (∀ k, bin k = s.stepRecord.bins.toList.getD k 0) →
    (300 < s.stepRecord.invalid → s.stepRecord.sector = none ∧ s.stepRecord.flags.vane = true) ∧
    (s.stepRecord.invalid ≤ 300 → s.stepRecord.flags.vane = false ∧
      ∃ k, k < 8 ∧ s.stepRecord.sector = some k ∧ (∀ j, j < 8 → bin j ≤ bin k) ∧
        (∀ p, s.retained.prevSector = some p → p < 8 → bin p = bin k → k = p) ∧
        ((∀ p, s.retained.prevSector = some p → ¬ (p < 8 ∧ bin p = bin k)) → ∀ j, j < k → bin j < bin k)) ∧
    (s.roleTotals .vane = none → s.stepRecord.invalid = 600 ∧ (∀ k, bin k = 0) ∧ s.stepRecord.sector = none) ∧
    ∀ bins invalid, s.roleTotals .vane = some (.vane bins invalid) →
      s.stepRecord.bins = bins ∧ s.stepRecord.invalid = invalid

/-- The new index of a path: the old one less its decay, with the loads of snow, wind and warming, cut at 10000 with
the clamp mark (R36 to R39). The computed level after a new index: straight up to the highest threshold reached, down by
one level when the index is below the threshold of the present level by more than the band. -/
def Obligations.IndexAndLevelOfPath : Prop :=
  (∀ r w h, hazardUpdate r w h = (min (raw r w h) 10000, decide (10000 < raw r w h))) ∧
  ∀ (r : PathRecord) level h, r.t1 < r.t2 → r.t2 < r.t3 → r.t3 < r.t4 → r.band < r.t1 → level ≤ 4 →
    ∃ c, c ≤ 4 ∧ (∀ k, 1 ≤ k → k ≤ 4 → (r.threshold k ≤ h ↔ k ≤ c)) ∧
      (level < c → r.levelAfter level h = c) ∧ (c = level → r.levelAfter level h = level) ∧
      (c < level → r.levelAfter level h = if h < r.threshold level - r.band then level - 1 else level)

/-- VANE_SAMPLE: at the step timer's next second the timer counts it (log entry 18), and every VANE channel increases
one bin: INVALID when its VANE_OK line is low, else the bin of the sector its three lines code (R11). -/
def Obligations.VaneSampleCounts : Prop :=
  ∀ m s, s.powered = true → s.Settled → s.weather.timer < 600 →
    s.weather.began + (s.weather.timer + 1) * usPerSecond ≤ max s.now m →
      ∃ t, exec (.vaneSample m) s = .next t ∧ Passed m s t ∧
        t.weather = { s.weather with timer := s.weather.timer + 1 } ∧
        (∀ k c bins invalid, itemAt s.settings.calibration.channels k = some c →
          itemAt s.field.channels k = some (.vane bins invalid) →
            (c.vaneOk ≠ 0 → s.accepted c.vaneOk = false →
              itemAt t.field.channels k = some (.vane bins (invalid + 1))) ∧
            (c.vaneOk = 0 ∨ s.accepted c.vaneOk = true →
              ∀ j, grayLevels[j]? =
                  some (s.accepted c.source, s.accepted (c.source + 1), s.accepted (c.source + 2)) →
                itemAt t.field.channels k = some (.vane (bins.setIfInBounds j (bins.toList.getD j 0 + 1)) invalid))) ∧
        (∀ k c, itemAt s.field.channels k = some c → (∀ bins invalid, c ≠ .vane bins invalid) →
          itemAt t.field.channels k = some c) ∧
        Quiet [.weather, .channels] s t

/-- STEP_END at 600 s: the step record, with the step's number, the clock as its end time and HCLAMP where a path's raw
index passed 10000, joins the history, memories, readouts and channels are renewed, every defined path takes its new
index, level and floor, the STEP report and then the LEVEL reports are queued in path order, and the autonomous closures
that the trigger asks for and R82 allows are made (R13, R22, R23, R30, R34, R41, R43 to R45, R54, R59, R61, R63). -/
def Obligations.StepEndTakesStep : Prop :=
  ∀ m s, s.powered = true → s.weather.timer = 600 → s.weather.history.length ≤ 36 →
    ∀ x, x = s.stepRecord → ∀ w : StepWeather, w = ⟨x.p, x.t, x.u, x.sector⟩ →
      ∃ t, exec (.stepEnd m) s = .next t ∧ Passed m s t ∧
        t.weather = ⟨0, s.weather.began + 600 * usPerSecond, (s.weather.number + 1) % 65536,
          (s.weather.history ++ [x]).drop (s.weather.history.length + 1 - 36)⟩ ∧
        t.retained.lastTemp = s.memoryAfter ∧
        t.retained.prevSector = (if x.sector.isSome then x.sector else s.retained.prevSector) ∧
        (t.composer.temp = match x.t, x.tState with
          | some v, .valid => .valid v
          | some v, .held _ => .held v
          | _, _ => .fault) ∧ t.composer.wind = some x.u ∧
        (∀ k c, itemAt s.field.channels k = some c →
          itemAt t.field.channels k = some (match c with
            | .off => .off
            | .event _ => .event 0
            | .width _ _ state => .width 0 0 state
            | .vane _ _ => .vane (Vector.replicate 8 0) 0)) ∧
        x.number = s.weather.number ∧ x.endTime = s.retained.clock ∧
        (x.flags.hClamp = true ↔
          ∃ k r, lookup s.settings.paths k = some r ∧ 10000 < raw r w (s.figures k).h) ∧
        x.entries = (Machine.entries s.settings.paths).map (fun y => ⟨y.1, min (raw y.2 w (s.figures y.1).h) 10000,
          decide (10000 < raw y.2 w (s.figures y.1).h)⟩) ∧
        (∀ k r, lookup s.settings.paths k = some r → t.figures k = figuresAfter w r (s.figures k)) ∧
        (∀ k, lookup s.settings.paths k = none → t.figures k = s.figures k) ∧
        ReportedFirst (.step x.number x.p x.t x.tState x.u x.sector x.flags ::
          (Machine.entries s.settings.paths).flatMap
            (fun y => levelReport y.1 (s.figures y.1) (figuresAfter w y.2 (s.figures y.1)))) s t ∧
        NoticesGain s t ∧ RoadReacts s t ∧
        Frame (always ++ road ++ [.weather, .memories, .readouts, .channels, .paths, .notices]) s t

/-! ## The Field Interface -/

/-- FIELD_LINE_CHANGE and WIDTH_EDGE. On a debounced input a level other than the accepted one makes a candidate with the
present time and debounce time, and a return to it drops the candidate (R2, R3); a level the line has already changes
nothing (log entry 21). A transition on the source of a WIDTH channel, by either command of a line (log entry 21), is
accepted at once, and the channel measures (R4, R9). -/
def Obligations.LineChanges : Prop :=
  (∀ m line high s i d, s.powered = true → s.Settled → 1 ≤ line → line ≤ 16 →
     s.settings.calibration.isWidthSource line = false → itemAt s.field.inputs line = some i →
       itemAt s.settings.calibration.debounce line = some d →
         (levelAt s.field.lines line = high →
           ∃ t, exec (.fieldLineChange m line high) s = .next t ∧ Passed m s t ∧ Quiet [] s t) ∧
         (levelAt s.field.lines line = !high →
           ∃ t, exec (.fieldLineChange m line high) s = .next t ∧ Passed m s t ∧
             levelAt t.field.lines line = high ∧
             (∀ j, j ≠ line → levelAt t.field.lines j = levelAt s.field.lines j) ∧
             itemAt t.field.inputs line = some ⟨i.accepted,
               if high = i.accepted then none else some (i.candidate.getD ⟨high, max s.now m, d⟩)⟩ ∧
             (∀ j, j ≠ line → itemAt t.field.inputs j = itemAt s.field.inputs j) ∧
             Quiet [.pins, .inputs] s t)) ∧
  ∀ m line high s i, s.powered = true → s.Settled → 1 ≤ line → line ≤ 16 →
    s.settings.calibration.isWidthSource line = true → itemAt s.field.inputs line = some i →
      levelAt s.field.lines line = !high → ∀ c, c = .fieldLineChange m line high ∨ c = .widthEdge m line high →
        ∃ t, exec c s = .next t ∧ Passed m s t ∧ levelAt t.field.lines line = high ∧
          (∀ j, j ≠ line → levelAt t.field.lines j = levelAt s.field.lines j) ∧
          itemAt t.field.inputs line = some { i with accepted := high } ∧
          (∀ j, j ≠ line → itemAt t.field.inputs j = itemAt s.field.inputs j) ∧
          (∀ k cfg x, itemAt s.settings.calibration.channels k = some cfg → itemAt s.field.channels k = some x →
            itemAt t.field.channels k =
              some (if cfg.mode = .width ∧ cfg.source = line then edgeTable (max s.now m) high x else x)) ∧
          Quiet [.pins, .inputs, .channels] s t

/-- The function of an input is the one that the record naming it gives: a gate record's up-switch, down-switch, presence
or key, an EVENT or WIDTH channel's source, a VANE channel's three lines or VANE_OK line; and none where no record names
it (R1, R20). -/
def Sys2Proof.Claims.LineFunction (c : Settings) (line : Nat) : Prop :=
  (∀ k r, lookup c.gates k = some r →
    (line = r.upSwitch → c.functionOf line = .upSwitch k) ∧ (line = r.downSwitch → c.functionOf line = .downSwitch k) ∧
    (line = r.presence → c.functionOf line = .presence k) ∧ (line = r.key → c.functionOf line = .key k)) ∧
  (∀ k x, itemAt c.calibration.channels k = some x →
    (x.mode = .event ∨ x.mode = .width → line = x.source → c.functionOf line = .counter k) ∧
    (x.mode = .vane → line = x.source ∨ line = x.source + 1 ∨ line = x.source + 2 →
      c.functionOf line = .vaneLine k) ∧
    (x.mode = .vane → line = x.vaneOk → c.functionOf line = .vaneOk k)) ∧
  ((∀ k r, lookup c.gates k = some r → line ∉ r.inputs) → line ∉ c.calibration.named → c.functionOf line = .unused)

/-- CHANGE_EVENT on an input that no gate names: a held candidate is accepted, a rising event increases the count of
the EVENT channel whose source the input is, up to 65535, and no other event changes a count (R2, R8); without a held
candidate nothing happens (log entry 4). Here and in the statements that follow an input's function is that of the
record that names it (R1, R20), while no input is named twice. -/
def Obligations.ChangeEventCounts : Prop :=
  (∀ (c : Settings) line, c.InputsOwned → 1 ≤ line → LineFunction c line) ∧
  ∀ m line s, s.powered = true → s.Settled → 1 ≤ line → line ≤ 16 →
    ((∀ c, ¬ Held s m line c) → ∃ t, exec (.changeEvent m line) s = .next t ∧ Passed m s t ∧ Quiet [] s t) ∧
    ∀ c, Held s m line c →
      (s.settings.functionOf line = .unused ∨ (∃ k, s.settings.functionOf line = .counter k) ∨
        (∃ k, s.settings.functionOf line = .vaneLine k) ∨ ∃ k, s.settings.functionOf line = .vaneOk k) →
        ∃ t, exec (.changeEvent m line) s = .next t ∧ Passed m s t ∧ Accepts s t line c.level ∧
          (∀ k x, itemAt s.field.channels k = some x →
            itemAt t.field.channels k = some (match x with
              | .event n =>
                if s.settings.functionOf line = .counter k ∧ c.level = true then .event (min (n + 1) 65535)
                else .event n
              | x => x)) ∧
          Quiet [.inputs, .channels] s t

/-- CHANGE_EVENT on a gate's limit switches: what a switch coming active does in every state of the gate, with the
other switch inactive or active (R119, R120, R123 to R126); a switch that goes inactive moves nothing. -/
def Obligations.SwitchEventsMoveGates : Prop :=
  ∀ m line s c k r g, s.powered = true → s.Settled → Held s m line c → lookup s.settings.gates k = some r →
    s.gate k = some g → r.upSwitch ≠ r.downSwitch →
      ((s.settings.functionOf line = .downSwitch k ∧ line = r.downSwitch) ∨
        (s.settings.functionOf line = .upSwitch k ∧ line = r.upSwitch)) →
        (c.level = false → ∃ t, exec (.changeEvent m line) s = .next t ∧ Passed m s t ∧ Accepts s t line false ∧
          Quiet [.inputs] s t) ∧
        (c.level = true → ∀ o,
          o = (if line = r.downSwitch then
                if s.accepted r.upSwitch then bothOutcome g else downOutcome g
              else if s.accepted r.downSwitch then bothOutcome g else upOutcome (s.cif r.segment) g) →
          ∃ t, exec (.changeEvent m line) s = .next t ∧ Passed m s t ∧ Accepts s t line true ∧
            (o = none → Quiet [.inputs] s t) ∧
            ∀ new cause, o = some (new, cause) → Moves k g new cause [.inputs] s t)

/-- CHANGE_EVENT on a gate's presence and key inputs: the clear-zone timer, the obstruction of a lowering gate, LOCAL,
and the derivation on leaving it (R15, R16, R122, R127, R128). -/
def Obligations.PresenceAndKeyEvents : Prop :=
  ∀ m line s c k r g, s.powered = true → s.Settled → Held s m line c → lookup s.settings.gates k = some r →
    s.gate k = some g →
      (∀ z, s.settings.functionOf line = .presence k → line = r.presence →
        itemAt s.field.clearZones k = some z →
          ∃ t, exec (.changeEvent m line) s = .next t ∧ Passed m s t ∧ Accepts s t line c.level ∧
            itemAt t.field.clearZones k = some (
              if c.level then .occupied
              else match z with
                | .occupied => .holding (max s.now m + r.clearHold * usPerSecond)
                | z => z) ∧
            (∀ j, j ≠ k → itemAt t.field.clearZones j = itemAt s.field.clearZones j) ∧
            (c.level = true → g.position = .lowering → g.reversals < 3 →
              Moves k g { g with position := .raising .obstruction, reversals := g.reversals + 1,
                                 travelExpiry := some (secondsAt m s + r.travel) } .obstruction [.inputs, .zones] s t) ∧
            (c.level = true → g.position = .lowering → 3 ≤ g.reversals →
              Moves k g (atRest (.stopped .obstruction) g.reversals) .obstruction [.inputs, .zones] s t) ∧
            (c.level = false ∨ g.position ≠ .lowering → Quiet [.inputs, .zones] s t)) ∧
      (s.settings.functionOf line = .key k → line = r.key → r.upSwitch ≠ line → r.downSwitch ≠ line →
        ∃ t, exec (.changeEvent m line) s = .next t ∧ Passed m s t ∧ Accepts s t line c.level ∧
          (c.level = true → Moves k g (atRest .inLocal 0) .key [.inputs] s t) ∧
          (c.level = false → g.position = .inLocal →
            Moves k g (atRest (derivedPosition false (s.accepted r.upSwitch) (s.accepted r.downSwitch)
              (s.cif r.segment)) 0) .key [.inputs] s t) ∧
          (c.level = false → g.position ≠ .inLocal → Quiet [.inputs] s t))

/-- HOLD_DEADLINE, CLEAR_ZONE_EXPIRY and TRAVEL_TIMEOUT: a gate in WARNING begins to lower when its clear zone is not
running and its hold has been served, and not otherwise; a moving gate whose travel timer has run out is STOPPED
(R15, R16, R116, R117, R121). Before its moment each changes nothing (log entries 3 and 4). -/
def Obligations.GateTimers : Prop :=
  ∀ m k s r g, s.powered = true → s.Settled → lookup s.settings.gates k = some r → s.gate k = some g →
    (∃ t, exec (.holdDeadline m k) s = .next t ∧ Passed m s t ∧
      (g.position = .warning ∧ itemAt s.field.clearZones k = some .idle ∧ Served s (secondsAt m s) r g →
        Moves k g { g with position := .lowering, travelExpiry := some (secondsAt m s + r.travel) } .hold [] s t) ∧
      (¬ (g.position = .warning ∧ itemAt s.field.clearZones k = some .idle ∧ Served s (secondsAt m s) r g) →
        Quiet [] s t)) ∧
    (∃ t, exec (.clearZoneExpiry m k) s = .next t ∧ Passed m s t ∧
      (∀ e, itemAt s.field.clearZones k = some (.holding e) → e ≤ max s.now m →
        itemAt t.field.clearZones k = some .idle ∧
        (∀ j, j ≠ k → itemAt t.field.clearZones j = itemAt s.field.clearZones j) ∧
        (g.position = .warning ∧ Served s (secondsAt m s) r g →
          Moves k g { g with position := .lowering, travelExpiry := some (secondsAt m s + r.travel) } .hold
            [.zones] s t) ∧
        (¬ (g.position = .warning ∧ Served s (secondsAt m s) r g) → Quiet [.zones] s t)) ∧
      ((∀ e, itemAt s.field.clearZones k = some (.holding e) → max s.now m < e) → Quiet [] s t)) ∧
    ∃ t, exec (.travelTimeout m k) s = .next t ∧ Passed m s t ∧
      ((g.position = .lowering ∨ ∃ kind, g.position = .raising kind) →
        ∀ e, g.travelExpiry = some e → e ≤ secondsAt m s →
          Moves k g (atRest (.stopped .timeout) g.reversals) .timeout [] s t) ∧
      (g.position ≠ .lowering → (∀ kind, g.position ≠ .raising kind) → Quiet [] s t) ∧
      ((∀ e, g.travelExpiry = some e → secondsAt m s < e) → Quiet [] s t)

/-- Every field of a calibration set lies in its range, and every channel's mode and lines fit its role (R18). -/
def Sys2Proof.Claims.CalibrationInRange (new : Calibration) : Prop :=
  (∀ k d, itemAt new.debounce k = some d → 5 ≤ d ∧ d ≤ 200) ∧ 10 ≤ new.tipSize ∧ new.tipSize ≤ 100 ∧
    100 ≤ new.airRun ∧ new.airRun ≤ 2000 ∧
    ∀ k x, itemAt new.channels k = some x → x.mode = x.role.mode ∧
      (x.mode = .off → x.source = 0 ∧ x.vaneOk = 0) ∧
      (x.mode = .event ∨ x.mode = .width → 1 ≤ x.source ∧ x.source ≤ 16 ∧ x.vaneOk = 0) ∧
      (x.mode = .vane → 1 ≤ x.source ∧ x.source ≤ 14 ∧ x.vaneOk ≤ 16)

/-- A calibration set names no line of a gate, and no line or role twice (R18). -/
def Sys2Proof.Claims.CalibrationFree (c : Settings) (new : Calibration) : Prop :=
  (∀ k r, lookup c.gates k = some r → ∀ l ∈ new.named, l ∉ r.inputs) ∧ new.named.Nodup ∧ new.roles.Nodup

/-- CALIBRATE: the whole set is replaced; a channel whose mode, role and lines stay keeps its totals, any other begins
anew, a VANE channel credited with the instants passed; an input that becomes a WIDTH source leaves debounce with the
level of its line (R3, R10, R12, R14, R18). -/
def Obligations.CalibrateReplacesSet : Prop :=
  ∀ m tag f s new, Ready s kindCalibrate tag f → s.Settled → f.length = 43 → calibrationOf f = some new →
    CalibrationInRange new → CalibrationFree s.settings new →
      ∃ t, Taken (.calibrate m tag f) m kindCalibrate tag (.done []) s t ∧ t.settings.calibration = new ∧
        (∀ k a b x, itemAt s.settings.calibration.channels k = some a → itemAt new.channels k = some b →
          itemAt s.field.channels k = some x →
            (a = b → itemAt t.field.channels k = some x) ∧
            (a ≠ b → itemAt t.field.channels k = some (match b.mode with
              | .off => .off
              | .event => .event 0
              | .width => .width 0 0 (if levelAt s.field.lines b.source then .blind else .idle)
              | .vane => .vane (Vector.replicate 8 0) s.weather.timer))) ∧
        (∀ k i l, itemAt s.field.inputs k = some i → itemAt s.field.lines k = some l →
          itemAt t.field.inputs k = some (
            if new.isWidthSource k ∧ s.settings.calibration.isWidthSource k = false then ⟨l, none⟩ else i)) ∧
        Quiet [.inbound, .outbox, .calibration, .channels, .inputs] s t

/-! ## The Gate Sequencer -/

/-- The derivation of a gate's state from its lines and closure in force, with a fresh hold, count 0 and no travel
timer (R111), and the setting of the three outputs in every state (R110). -/
def Obligations.GateDerivation : Prop :=
  (∀ up down cif, derivedPosition true up down cif = .inLocal ∧
    derivedPosition false true false false = .up ∧ derivedPosition false true false true = .warning ∧
    derivedPosition false false true cif = .down ∧ derivedPosition false false false cif = .stopped .position ∧
    derivedPosition false true true cif = .stopped .switches) ∧
  (∀ (s : State) (r : GateRecord),
    (s.deriveGate r).position = derivedPosition (r.key ≠ 0 && s.accepted r.key) (s.accepted r.upSwitch)
      (s.accepted r.downSwitch) (s.cif r.segment) ∧
    (s.deriveGate r).reversals = 0 ∧ (s.deriveGate r).travelExpiry = none ∧
    ((s.deriveGate r).position = .warning → (∀ sign ∈ r.approach, s.Agrees r.segment sign) →
      (s.deriveGate r).holdStart = some (s.now / usPerSecond)) ∧
    ((s.deriveGate r).position ≠ .warning ∨ (∃ sign ∈ r.approach, ¬ s.Agrees r.segment sign) →
      (s.deriveGate r).holdStart = none)) ∧
  (∀ kind cause, GatePosition.up.setting = (false, false, false) ∧
    GatePosition.warning.setting = (false, false, true) ∧ GatePosition.lowering.setting = (true, false, true) ∧
    GatePosition.down.setting = (false, false, true) ∧ (GatePosition.raising kind).setting = (false, true, true) ∧
    (GatePosition.stopped cause).setting = (false, false, true) ∧
    GatePosition.inLocal.setting = (false, false, false))

/-- GATE_RAISE: refused WRONG_STATE unless the gate is DOWN, INTERLOCK/CLOSURE under a closure in force,
INTERLOCK/HAZARD at or above the permit level, and else the gate is RAISING, count 0, with its travel timer started.
GATE_CLEAR: refused WRONG_STATE unless the gate is STOPPED; else its state is derived and answered with its stop cause
(R129, R130). -/
def Obligations.StationMovesGates : Prop :=
  (∀ m tag f s k r g q d, Ready s kindGateRaise tag f → s.Settled → f.length = 1 → byteAt f 0 = k →
    lookup s.settings.gates k = some r → s.gate k = some g → lookup s.settings.segments r.segment = some q →
      lookup s.segments r.segment = some d →
        (g.position ≠ .down → Refuses (.gateRaise m tag f) m kindGateRaise tag .wrongState .noReason s) ∧
        (g.position = .down → d.closure ≠ none →
          Refuses (.gateRaise m tag f) m kindGateRaise tag .interlock .closure s) ∧
        (g.position = .down → d.closure = none → q.permit ≤ d.hmax →
          Refuses (.gateRaise m tag f) m kindGateRaise tag .interlock .hazard s) ∧
        (g.position = .down → d.closure = none → d.hmax < q.permit →
          ∃ t, Taken (.gateRaise m tag f) m kindGateRaise tag (.done []) s t ∧
            Moves k g ⟨.raising .requested, none, 0, some (secondsAt m s + r.travel)⟩ .request
              [.inbound, .outbox] s t)) ∧
  ∀ m tag f s k r g, Ready s kindGateClear tag f → s.Settled → f.length = 1 → byteAt f 0 = k →
    lookup s.settings.gates k = some r → s.gate k = some g →
      ((∀ cause, g.position ≠ .stopped cause) →
        Refuses (.gateClear m tag f) m kindGateClear tag .wrongState .noReason s) ∧
      ∀ cause, g.position = .stopped cause →
        ∀ p, p = derivedPosition (r.key ≠ 0 && s.accepted r.key) (s.accepted r.upSwitch) (s.accepted r.downSwitch)
          (s.cif r.segment) →
          ∃ t, Taken (.gateClear m tag f) m kindGateClear tag (.done [p.code, p.stopCode]) s t ∧
            Moves k g (atRest p 0) .request [.inbound, .outbox] s t

/-- Gate number and fields of a gate record lie in their ranges, no approach sign twice (R19, R106). -/
def Sys2Proof.Claims.GateInRange (k : Nat) (r : GateRecord) : Prop :=
  1 ≤ k ∧ k ≤ 8 ∧ 1 ≤ r.segment ∧ r.segment ≤ 8 ∧ 30 ≤ r.warnHold ∧ r.warnHold ≤ 600 ∧ 5 ≤ r.travel ∧
    r.travel ≤ 120 ∧ 2 ≤ r.clearHold ∧ r.clearHold ≤ 30 ∧
    (∀ l ∈ [r.upSwitch, r.downSwitch, r.lower, r.raise, r.flasher], 1 ≤ l ∧ l ≤ 16) ∧ r.presence ≤ 16 ∧ r.key ≤ 16 ∧
    (∀ x ∈ r.approach, 1 ≤ x ∧ x ≤ 16) ∧ r.approach.Nodup

/-- The guarded segment and the approach signs of a gate record are defined (R106). -/
def Sys2Proof.Claims.GateNamesDefined (c : Settings) (r : GateRecord) : Prop :=
  (lookup c.segments r.segment).isSome = true ∧ ∀ x ∈ r.approach, (lookup c.signs x).isSome = true

/-- Every approach sign of a gate record announces its guarded segment (R106). -/
def Sys2Proof.Claims.ApproachAnnounces (c : Settings) (r : GateRecord) : Prop :=
  ∀ x ∈ r.approach, ∃ q, lookup c.signs x = some q ∧ r.segment ∈ q.segments

/-- No line of a gate record conflicts with another, with another gate's or with a channel's (R19). -/
def Sys2Proof.Claims.GateLinesFree (c : Settings) (k : Nat) (r : GateRecord) : Prop :=
  r.inputs.Nodup ∧ r.outputs.Nodup ∧
    (∀ j q, j ≠ k → lookup c.gates j = some q → (∀ l ∈ r.inputs, l ∉ q.inputs) ∧ ∀ l ∈ r.outputs, l ∉ q.outputs) ∧
    ∀ j x, itemAt c.calibration.channels j = some x → ∀ l ∈ r.inputs, l ∉ x.lines

/-- The gate of a number, if there is one, is neither in LOWERING nor in RAISING (R106, R108). -/
def Sys2Proof.Claims.GateStill (s : State) (k : Nat) : Prop :=
  ∀ g, s.gate k = some g → g.position ≠ .lowering ∧ ∀ kind, g.position ≠ .raising kind

/-- DEFINE_GATE of a gate that is new or does not move: the record is stored, the gate takes its derived state with a
fresh count, the outputs of the new record have the setting of its state and an output that no record names any more is
off, the clear-zone timer is observed anew where the presence line is new, the change is reported and handed on, and the
reply carries state and stop cause. Of a gate in LOWERING or RAISING it is refused IN_MOTION (R17, R20, R106, R107,
R110). -/
def Obligations.DefineGateDerives : Prop :=
  ∀ m tag f s k r, Ready s kindDefineGate tag f → f.length = 17 → byteAt f 0 = k → gateOf f = r →
    1 ≤ byteAt f 13 → byteAt f 13 ≤ 3 → GateInRange k r → GateNamesDefined s.settings r →
      ApproachAnnounces s.settings r → GateLinesFree s.settings k r →
      (s.Settled → (lookup s.settings.gates k).isSome = true → ¬ GateStill s k →
        Refuses (.defineGate m tag f) m kindDefineGate tag .inMotion .noReason s) ∧
      (GateStill s k → ∀ p, p = derivedPosition (r.key ≠ 0 && s.accepted r.key) (s.accepted r.upSwitch)
        (s.accepted r.downSwitch) (s.cif r.segment) →
        ∃ t g, t.gate k = some g ∧
          Taken (.defineGate m tag f) m kindDefineGate tag (.done [byte k, g.position.code, g.position.stopCode]) s t ∧
          Put s.settings.gates t.settings.gates k (some r) ∧ GateMay (atRest p 0) g ∧
          (levelAt t.field.outputs r.lower, levelAt t.field.outputs r.raise, levelAt t.field.outputs r.flasher) =
            g.position.setting ∧
          (∀ q, lookup s.settings.gates k = some q → ∀ l ∈ q.outputs, 1 ≤ l → l ≤ 16 →
            (∀ j x, lookup t.settings.gates j = some x → l ∉ x.outputs) → levelAt t.field.outputs l = false) ∧
          ReportedFirst (if (s.gate k).map GateState.position = some p then []
            else [.gate k ((s.gate k).map GateState.position) (some p) 0 .define]) s t ∧
          (∀ z, itemAt s.field.clearZones k = some z →
            itemAt t.field.clearZones k = some (
              if (lookup s.settings.gates k).map GateRecord.presence = some r.presence then z
              else if r.presence ≠ 0 ∧ s.accepted r.presence = true then .occupied else .idle)) ∧
          (∀ j, j ≠ k → itemAt t.field.clearZones j = itemAt s.field.clearZones j) ∧
          Reacts [k] [] [] [] s t ∧ Frame (answered ++ road ++ [.gateRecords, .zones]) s t)

/-- REMOVE_GATE of a gate that does not move: record and gate state go, its outputs are turned off, its clear-zone timer
becomes IDLE, the removal is reported and handed on. Of a gate in LOWERING or RAISING it is refused IN_MOTION (R20,
R108). The reversal count 0 in that report is the model's reading (log entry 28). -/
def Obligations.RemoveGateTurnsOff : Prop :=
  ∀ m tag s k r g, Ready s kindRemoveItem tag [3, byte k] → lookup s.settings.gates k = some r → s.gate k = some g →
    (s.Settled → ¬ GateStill s k → Refuses (.removeGate m tag [3, byte k]) m kindRemoveItem tag .inMotion .noReason s) ∧
    (s.settings.OutputsOwned → GateStill s k →
      ∃ t, Taken (.removeGate m tag [3, byte k]) m kindRemoveItem tag (.done [byte k]) s t ∧
        Put s.settings.gates t.settings.gates k none ∧ t.gate k = none ∧
        (∀ l ∈ r.outputs, levelAt t.field.outputs l = false) ∧ itemAt t.field.clearZones k = some .idle ∧
        (∀ j, j ≠ k → itemAt t.field.clearZones j = itemAt s.field.clearZones j) ∧
        ReportedFirst [.gate k (some g.position) none 0 .define] s t ∧ Reacts [k] [] [] [] s t ∧
        Frame (answered ++ road ++ [.gateRecords, .zones]) s t)

/-! ## Segments -/

/-- A segment's state record: the governing notices, Hmax as the largest effective level of the threatening paths, the
told closure in force as the closure in force (R89 to R91, R96), and the state by the rows of the table of R93 from the
top, from closure and restriction in force, Hmax, caution level and entry gates. Closure in force as the gates read it
is that of the record. -/
def Obligations.SegmentStateTable : Prop :=
  (∀ (s : State) k r d, d = s.deriveSegment k r →
    d.closure = (s.governing .closure k).map Notice.number ∧
    d.restriction = (s.governing .restriction k).map Notice.number ∧ Largest s [k] d.hmax ∧
    (d.toldCif = true ↔ d.closure ≠ none) ∧
    (d.state = .closed ↔ d.closure ≠ none ∧ ∀ g ∈ s.entryPositions k, g = .down ∨ g = .inLocal) ∧
    (d.state = .closing ↔ d.closure ≠ none ∧ ∃ g ∈ s.entryPositions k, g ≠ .down ∧ g ≠ .inLocal) ∧
    (d.state = .released ↔ d.closure = none ∧ ∃ g ∈ s.entryPositions k, g ≠ .up) ∧
    (d.state = .caution ↔
      d.closure = none ∧ (∀ g ∈ s.entryPositions k, g = .up) ∧ (r.caution ≤ d.hmax ∨ d.restriction ≠ none)) ∧
    (d.state = .free ↔
      d.closure = none ∧ (∀ g ∈ s.entryPositions k, g = .up) ∧ d.hmax < r.caution ∧ d.restriction = none)) ∧
  (∀ (s : State) k p, p ∈ s.entryPositions k ↔
    ∃ j r g, lookup s.settings.gates j = some r ∧ r.segment = k ∧ s.gate j = some g ∧ g.position = p) ∧
  ∀ (s : State) k, s.cif k = true ↔ ∃ d, lookup s.segments k = some d ∧ d.closure ≠ none

/-- DEFINE_SEGMENT and REMOVE_SEGMENT: a new segment is derived, reported from UNDEFINED and answered with its state; a
redefined one has the state its sources then give, which the reply carries, and is handed on; a segment that no record
names is removed and reported to UNDEFINED, and one that a record names is refused CONFLICT (R99 to R102). -/
def Obligations.SegmentsDefinedAndRemoved : Prop :=
  (∀ m tag f s k r, Ready s kindDefineSegment tag f → s.Settled → f.length = 4 → byteAt f 0 = k → segmentOf f = r →
    1 ≤ k → k ≤ 8 → 1 ≤ r.caution → r.caution ≤ r.permit → r.permit ≤ 4 →
      (lookup s.settings.segments k = none →
        ∃ t, Taken (.defineSegment m tag f) m kindDefineSegment tag
            (.done [byte k, (s.deriveSegment k r).state.code]) s t ∧
          Put s.settings.segments t.settings.segments k (some r) ∧
          Put s.segments t.segments k (some (s.deriveSegment k r)) ∧
          Reported [.segment k none (some (s.deriveSegment k r).state) (s.deriveSegment k r).hmax
            (s.deriveSegment k r).closure] s t ∧
          Frame (answered ++ [.segmentRecords, .segments]) s t) ∧
      (lookup s.settings.segments k ≠ none → lookup s.segments k ≠ none →
        ∃ t, Taken (.defineSegment m tag f) m kindDefineSegment tag
            (.done [byte k, (t.deriveSegment k r).state.code]) s t ∧
          Put s.settings.segments t.settings.segments k (some r) ∧
          lookup t.segments k = some (t.deriveSegment k r) ∧ RoadReacts s t ∧ ReportedFirst [] s t ∧
          Frame (answered ++ road ++ [.segmentRecords]) s t)) ∧
  ∀ m tag s k r, Ready s kindRemoveItem tag [2, byte k] → s.Settled → lookup s.settings.segments k = some r →
    ∀ named : Prop,
      (named ↔ (∃ j q, lookup s.settings.paths j = some q ∧ k ∈ q.segments) ∨
        (∃ j q, lookup s.settings.gates j = some q ∧ q.segment = k) ∨
        (∃ j q, lookup s.settings.signs j = some q ∧ k ∈ q.segments) ∨
        ∃ n ∈ s.retained.notices, k ∈ n.segments) →
      (named → Refuses (.removeSegment m tag [2, byte k]) m kindRemoveItem tag .conflict .noReason s) ∧
      (¬ named → ∃ t, Taken (.removeSegment m tag [2, byte k]) m kindRemoveItem tag (.done [byte k]) s t ∧
        Put s.settings.segments t.settings.segments k none ∧ Put s.segments t.segments k none ∧
        Reported [.segment k (some .free) none 0 none] s t ∧
        Frame (answered ++ [.segmentRecords, .segments]) s t)

/-! ## The Pass Clock and the Notice List -/

/-- The governing notice of a segment is the ACTIVE record of its kind that covers the segment with the earliest
activation time, a tie going to the lower number and an unset time standing first; without one none governs. -/
def Obligations.GoverningNotice : Prop :=
  ∀ (s : State) kind k,
    (s.governing kind k = none ↔
      ∀ n ∈ s.retained.notices, ¬ ((∃ since, n.state = .active since) ∧ n.kind = kind ∧ k ∈ n.segments)) ∧
    ∀ n, s.governing kind k = some n →
      n ∈ s.retained.notices ∧ n.kind = kind ∧ k ∈ n.segments ∧
        ∃ since, n.state = .active since ∧
          ∀ o ∈ s.retained.notices, ∀ since', o.state = .active since' → o.kind = kind → k ∈ o.segments →
            timeKey since < timeKey since' ∨ (timeKey since = timeKey since' ∧ n.number ≤ o.number)

/-- A post gives a start or an end only while the clock is SET (R73). -/
def Sys2Proof.Claims.PostTimed (s : State) (p : PostedNotice) : Prop :=
  s.retained.clock = none → p.startTime = none ∧ p.endTime = none

/-- Every field of a post lies in its range, its segments defined and its end late enough (R73); a time of 0xFFFFFFFF is
out of range, which is the model's choice (log entry 14). -/
def Sys2Proof.Claims.PostInRange (s : State) (p : PostedNotice) : Prop :=
  1 ≤ p.number ∧ p.number ≤ 59999 ∧ p.kind ≤ 2 ∧ p.reason ≤ 6 ∧ 1 ≤ p.segments.length ∧ p.segments.length ≤ 8 ∧
    (∀ k ∈ p.segments, 1 ≤ k ∧ k ≤ 8 ∧ (lookup s.settings.segments k).isSome = true) ∧ p.segments.Nodup ∧
    (∀ a, p.startTime = some a → a ≤ 4294967294) ∧ (∀ e, p.endTime = some e → e ≤ 4294967294) ∧
    (∀ a e, p.startTime = some a → p.endTime = some e → a < e) ∧
    ∀ c e, s.retained.clock = some c → p.endTime = some e → c < e

/-- The list has the posted number or room for one more station record (R73). -/
def Sys2Proof.Claims.PostRoom (s : State) (p : PostedNotice) : Prop :=
  findNotice p.number s.retained.notices = none → (stationNotices s.retained.notices).length < 24

/-- NOTICE_POST: the record is new or amended, PENDING when its start lies after the present time, and else ACTIVE, with
the activation time it had or the present time; ACTIVATED is reported when it became ACTIVE, and where it was or is
ACTIVE the segments are handed on (R73 to R75). That a time of 0xFFFFFFFF is refused RANGE is the model's choice (log
entry 14). NOTICE_WITHDRAW: the record leaves the list whatever its origin and state, WITHDRAWN is reported, and an
ACTIVE one is handed on; a number that is not in the list is refused UNKNOWN_ITEM (R78). -/
def Obligations.NoticesPostedAndWithdrawn : Prop :=
  (∀ m tag f s p, Ready s kindNoticePost tag f → s.Settled → postedOf f = some p → PostTimed s p →
     PostInRange s p → PostRoom s p →
     ∀ (old : Option Notice) (later wasActive : Bool) (state : NoticeState),
       old = findNotice p.number s.retained.notices →
       (later = true ↔ ∃ a c, p.startTime = some a ∧ s.retained.clock = some c ∧ c < a) →
       (wasActive = true ↔ ∃ n since, old = some n ∧ n.state = .active since) →
       (later = true → state = .pending) →
       (later = false → wasActive = true → ∃ n, old = some n ∧ state = n.state) →
       (later = false → wasActive = false → state = .active s.retained.clock) →
         ∃ t n, Taken (.noticePost m tag f) m kindNoticePost tag (.done (word p.number ++ [state.code] ++
             timeBytes (match state with
               | .active since => since
               | .pending => none))) s t ∧
           n.number = p.number ∧ n.kind.code.toNat = p.kind ∧ n.reason.index = p.reason ∧ n.segments = p.segments ∧
           n.startTime = p.startTime ∧ n.endTime = p.endTime ∧ n.text = p.text ∧ n.origin = .station ∧
           n.state = state ∧
           t.retained.notices.Perm (n :: s.retained.notices.filter fun o => o.number != p.number) ∧
           ReportedFirst (if later = false ∧ wasActive = false then [.notice n.number .activated n.kind .station]
             else []) s t ∧ RoadReacts s t ∧ Frame (answered ++ road ++ [.notices]) s t ∧
           (later = true → wasActive = false → Quiet [.inbound, .outbox, .notices] s t)) ∧
  ∀ m tag f s, Ready s kindNoticeWithdraw tag f → s.Settled → f.length = 2 →
    (findNotice (wordAt f 0) s.retained.notices = none →
      Refuses (.noticeWithdraw m tag f) m kindNoticeWithdraw tag .unknownItem .noReason s) ∧
    ∀ n, findNotice (wordAt f 0) s.retained.notices = some n →
      ∃ t, Taken (.noticeWithdraw m tag f) m kindNoticeWithdraw tag (.done (word n.number)) s t ∧
        t.retained.notices = s.retained.notices.filter (fun o => o.number != n.number) ∧
        ReportedFirst [.notice n.number .withdrawn n.kind n.origin] s t ∧ RoadReacts s t ∧
        Frame (answered ++ road ++ [.notices]) s t ∧
        (n.state = .pending → Reported [.notice n.number .withdrawn n.kind n.origin] s t ∧
          Frame (answered ++ [.notices]) s t)

/-- TIME_SET and CLOCK_TICK: the clock takes its new time and counts on one second later; a walk to a later time, or
from UNSET, activates and expires what falls due, and a walk back changes nothing (R68 to R70). Every other timer of
the part stays as it is. A tick of an UNSET clock or before its second changes nothing (log entry 4). -/
def Obligations.ClockWalks : Prop :=
  (∀ m tag f s new, Ready s kindTimeSet tag f → s.Settled → f.length = 4 → longAt f 0 = new → new ≤ 4294967294 →
    ∃ t, Taken (.timeSet m tag f) m kindTimeSet tag (.done (timeBytes s.retained.clock ++ long new)) s t ∧
      t.retained.clock = some new ∧ t.clockNext = max s.now m + usPerSecond ∧
      ((∀ c, s.retained.clock = some c → c < new) → Walks new [.inbound, .outbox] s t) ∧
      (∀ c, s.retained.clock = some c → new ≤ c → Quiet [.inbound, .outbox, .clock, .clockPhase] s t)) ∧
  ∀ m s, s.powered = true → s.Settled →
    (∀ c, s.retained.clock = some c → c < 4294967294 → s.clockNext ≤ max s.now m →
      ∃ t, exec (.clockTick m) s = .next t ∧ Passed m s t ∧ t.retained.clock = some (c + 1) ∧
        t.clockNext = s.clockNext + usPerSecond ∧ Walks (c + 1) [] s t) ∧
    (s.retained.clock = some 4294967294 → ∃ t, exec (.clockTick m) s = .next t ∧ Passed m s t ∧
      t.retained.clock = some 4294967294 ∧ Quiet [.clockPhase] s t) ∧
    ((s.retained.clock = none ∨ max s.now m < s.clockNext) →
      ∃ t, exec (.clockTick m) s = .next t ∧ Passed m s t ∧ Quiet [] s t)

/-- An autonomous-closure ask: the notice is made when auto-close allows it, no ACTIVE closure covers the segment and
none numbered 60200 + s is listed; otherwise the ask is dropped and nothing changes (R82, R83). -/
def Obligations.AutonomousAsk : Prop :=
  ∀ (s : State) k,
    (¬ AskMeets s k → s.askClosure k = s) ∧
    (AskMeets s k → (s.askClosure k).retained.notices.Perm (autonomous s k :: s.retained.notices) ∧
      ReportedFirst [.notice (60200 + k) .created .closure .autonomous] s (s.askClosure k) ∧
      RoadReacts s (s.askClosure k) ∧ Frame ([.reports, .choices, .notices] ++ road) s (s.askClosure k))

/-! ## The Path Table -/

/-- PATH_FLOOR: the floor is posted, replaced or removed, the reply carries it with the effective level, and a change of
the effective level is reported and handed on; where it became 4, the autonomous closures that R82 allows are made (R58,
R60 to R63, R82). -/
def Obligations.PathFloorPosts : Prop :=
  ∀ m tag f s k level d r, Ready s kindPathFloor tag f → s.Settled → f.length = 3 → byteAt f 0 = k →
    byteAt f 1 = level → byteAt f 2 = d → level ≤ 4 → (level = 0 ∨ (1 ≤ d ∧ d ≤ 144)) →
      lookup s.settings.paths k = some r →
        ∀ before after : PathFigures, before = s.figures k →
          after = { before with floor := if level = 0 then none else some ⟨level, d⟩ } →
          ∃ t, Taken (.pathFloor m tag f) m kindPathFloor tag
              (.done [byte k, byte level, if level = 0 then 0 else byte d, byte (max before.level level)]) s t ∧
            after.effective = max before.level level ∧ t.figures k = after ∧
            (∀ j, j ≠ k → t.figures j = s.figures j) ∧
            (before.effective = after.effective → Quiet [.inbound, .outbox, .paths] s t) ∧
            ReportedFirst (levelReport k before after) s t ∧ RoadReacts s t ∧ NoticesGain s t ∧
            (after.effective ≠ 4 → t.retained.notices = s.retained.notices) ∧
            Frame (answered ++ road ++ [.paths, .notices]) s t

/-- Number and fields of a path record lie in their ranges, thresholds rising, the band below t1 and no threatened segment
twice (R50). -/
def Sys2Proof.Claims.PathInRange (k : Nat) (r : PathRecord) : Prop :=
  1 ≤ k ∧ k ≤ 12 ∧ r.snow ≤ 200 ∧ r.wind ≤ 200 ∧ r.warming ≤ 200 ∧ r.settling ≤ 100 ∧ 1 ≤ r.t1 ∧ r.t1 < r.t2 ∧
    r.t2 < r.t3 ∧ r.t3 < r.t4 ∧ r.t4 ≤ 10000 ∧ r.band ≤ 2000 ∧ r.band < r.t1 ∧ r.segments.Nodup ∧
    ∀ x ∈ r.segments, 1 ≤ x ∧ x ≤ 8

/-- DEFINE_PATH and REMOVE_PATH: a new path starts from H 0, L 0 and no floor, a redefined one keeps its figures, a
removed one's are cleared; changed threatened segments are handed on and no LEVEL report is queued
(R50 to R53). -/
def Obligations.PathsDefinedAndRemoved : Prop :=
  (∀ m tag f s k r, Ready s kindDefinePath tag f → s.Settled → f.length = 22 → byteAt f 0 = k → pathOf f = r →
    1 ≤ byteAt f 17 → byteAt f 17 ≤ 4 → PathInRange k r → AllDefined s.settings.segments r.segments →
      ∃ t, Taken (.definePath m tag f) m kindDefinePath tag (.done []) s t ∧
        Put s.settings.paths t.settings.paths k (some r) ∧
        t.figures k = (if (lookup s.settings.paths k).isSome then s.figures k else ⟨0, 0, none⟩) ∧
        (∀ j, j ≠ k → t.figures j = s.figures j) ∧ ReportedWithoutLevel s t ∧ RoadReacts s t ∧
        Frame (answered ++ road ++ [.pathRecords, .paths]) s t ∧
        (∀ q, lookup s.settings.paths k = some q → q.segments = r.segments →
          Quiet [.inbound, .outbox, .pathRecords] s t)) ∧
  ∀ m tag s k r, Ready s kindRemoveItem tag [1, byte k] → lookup s.settings.paths k = some r →
    ∃ t, Taken (.removePath m tag [1, byte k]) m kindRemoveItem tag (.done [byte k]) s t ∧
      Put s.settings.paths t.settings.paths k none ∧ t.figures k = ⟨0, 0, none⟩ ∧
      (∀ j, j ≠ k → t.figures j = s.figures j) ∧ ReportedWithoutLevel s t ∧ RoadReacts s t ∧
      Frame (answered ++ road ++ [.pathRecords, .paths]) s t

/-! ## The Sign Composer -/

/-- The place of a layer in the order of layers (R147); the temperature is placed before the wind (R153). -/
def Sys2Proof.Claims.stage : Layer → LineSource → Nat
  | .closure, _ => 0
  | .hazard, _ => 1
  | .restriction, _ => 2
  | .base, _ => 3
  | .weather, .wind => 5
  | .weather, _ => 4

/-- A cell is claimed before a stage. -/
def Sys2Proof.Claims.CellTaken (c : Machine.Claims) (before i : Nat) : Prop :=
  ∃ l, c.cells[i]? = some (some l) ∧ stage l (.entry 0) < before

/-- A line is claimed before a stage. -/
def Sys2Proof.Claims.LineTaken (c : Machine.Claims) (before i : Nat) : Prop :=
  ∃ l src, c.lines[i]? = some (some (l, src)) ∧ stage l src < before

/-- The first slot of some that is not taken. -/
def Sys2Proof.Claims.First (taken : Nat → Prop) (n i : Nat) : Prop := i < n ∧ ¬ taken i ∧ ∀ j, j < i → taken j

/-- A line of some codes cut at a length or filled with spaces (R157). -/
def Sys2Proof.Claims.Fitted (length : Nat) (codes shown : List Code) : Prop :=
  shown.length = length ∧ ∀ j, j < length → shown[j]? = some (codes.getD j 0)

/-- The entries of the closure layer's first and third line (R149). -/
def Sys2Proof.Claims.closureEntries (g : Option Notice) : Nat × Nat :=
  match g with
  | some n => (if n.origin = .station then n.text.getD 247 else 247, 240 + n.reason.index)
  | none => (247, 246)

/-- The five layers of a composed image. The closure segment is that of the first of three rounds that finds one: a
guarded segment of a gate in WARNING that names the sign, of one in LOWERING, an announced segment in CLOSING or CLOSED,
the lowest-numbered each time. Closure claims pictogram 1 and its text, and in style FULL the blank cell, the segment's
name and the reason besides; hazard and restriction claim the first free cell and the first free line independently; the
base layer claims slot by slot what the front page holds; the weather layer claims the first free lines for its
readouts; and a slot that no layer claims is blank. Every line shows the codes of its source at the line length
(R147 to R153, R157). -/
def Obligations.ImageShowsLayers : Prop :=
  ∀ (s : State) (sign : Nat) (r : SignRecord) (front : Page) (p : ProfileRecord) (image : Image) (c : Machine.Claims),
    lookup s.settings.profiles r.profile = some p → image = s.compose sign r front → c = image.claims →
      (∃ o1 o2 o3,
        Lowest (fun x => ∃ j q g, lookup s.settings.gates j = some q ∧ sign ∈ q.approach ∧ s.gate j = some g ∧
          g.position = .warning ∧ x = q.segment) o1 ∧
        Lowest (fun x => ∃ j q g, lookup s.settings.gates j = some q ∧ sign ∈ q.approach ∧ s.gate j = some g ∧
          g.position = .lowering ∧ x = q.segment) o2 ∧
        Lowest (fun x => x ∈ r.segments ∧ ∃ g, lookup s.segments x = some g ∧
          (g.state = .closing ∨ g.state = .closed)) o3 ∧
        c.closureSegment = o1.or (o2.or o3)) ∧
      (∀ i, c.cells[i]? = some (some .closure) ↔
        i < r.cells ∧ c.closureSegment ≠ none ∧ (i = 0 ∨ (p.style = .full ∧ i = 1))) ∧
      (∀ i src, c.lines[i]? = some (some (.closure, src)) ↔
        i < r.lines ∧ ∃ k, c.closureSegment = some k ∧
          ((i = 0 ∧ src = .entry (closureEntries (s.governing .closure k)).1) ∨
            (p.style = .full ∧ i = 1 ∧ src = .entry (s.settings.segmentName k)) ∨
            (p.style = .full ∧ i = 2 ∧ src = .entry (closureEntries (s.governing .closure k)).2))) ∧
      (∀ h, Largest s r.segments h → ∀ acts : Prop, (acts ↔ p.hazard = true ∧ 1 ≤ h ∧ p.showLevel ≤ h) →
        (∀ i, c.cells[i]? = some (some .hazard) ↔ acts ∧ First (CellTaken c 1) r.cells i) ∧
        ∀ i src, c.lines[i]? = some (some (.hazard, src)) ↔
          acts ∧ src = .entry (247 + h) ∧ First (LineTaken c 1) r.lines i) ∧
      (∀ o, Lowest (fun x => x ∈ r.segments ∧ s.governing .restriction x ≠ none) o →
        (∀ i, c.cells[i]? = some (some .restriction) ↔
          p.restriction = true ∧ o ≠ none ∧ First (CellTaken c 2) r.cells i) ∧
        ∀ i src, c.lines[i]? = some (some (.restriction, src)) ↔
          p.restriction = true ∧ First (LineTaken c 2) r.lines i ∧
            ∃ k n, o = some k ∧ s.governing .restriction k = some n ∧ src = .entry (n.text.getD 252)) ∧
      (∀ i, c.cells[i]? = some (some .base) ↔
        p.base = true ∧ i < r.cells ∧ ¬ CellTaken c 3 i ∧ ∃ n, front.cells[i]? = some (some n)) ∧
      (∀ i src, c.lines[i]? = some (some (.base, src)) ↔
        p.base = true ∧ i < r.lines ∧ ¬ LineTaken c 3 i ∧ ∃ n, front.lines[i]? = some (some n) ∧ src = .entry n) ∧
      (∀ i : Nat, c.cells[i]? ≠ some (some .weather)) ∧
      (∀ i src, c.lines[i]? = some (some (.weather, src)) ↔
        p.weather = true ∧
          ((src = .temperature ∧ p.form ≠ .wind ∧ First (LineTaken c 4) r.lines i) ∨
            (src = .wind ∧ p.form ≠ .temp ∧ First (LineTaken c 5) r.lines i))) ∧
      image.cells.length = r.cells ∧ c.cells.length = r.cells ∧ image.lines.length = r.lines ∧
      c.lines.length = r.lines ∧
      (∀ (i : Nat) l, c.cells[i]? = some l → image.cells[i]? = some (match l with
        | some .closure => if i = 0 then 1 else 0
        | some .hazard => 2
        | some .restriction => 3
        | some .base => (front.cells[i]?.join).getD 0
        | some .weather => 0
        | none => 0)) ∧
      ∀ (i : Nat) l, c.lines[i]? = some l → ∃ shown, image.lines[i]? = some shown ∧ Fitted r.lineLength (match l with
        | some x => s.sourceText x.2
        | none => []) shown

/-- Codes of the character set, given as numbers (R216). -/
def Sys2Proof.Claims.codes (ns : List Nat) : List Code := ns.map (Fin.ofNat 64)

/-- The codes of the decimal digits of a number below 1000, without leading zeros: 27 for 0 to 36 for 9 (R216). -/
def Sys2Proof.Claims.figures (n : Nat) : List Nat :=
  if n < 10 then [27 + n]
  else if n < 100 then [27 + n / 10, 27 + n % 10]
  else [27 + n / 100, 27 + n / 10 % 10, 27 + n % 10]

/-- The temperature and wind texts: the entry, a space, and the rounded figure with its unit; two minus signs for FAULT
and NO STEP; a speed above 150 km/h as more than 150. A line of a text entry has the entry's codes. -/
def Obligations.ReadoutTexts : Prop :=
  ∀ s : State,
    (∀ t : Int, -400 ≤ t → t ≤ 400 → (s.composer.temp = .valid t ∨ s.composer.temp = .held t) →
      ∀ d : Int, d = (if 0 ≤ t then (t + 5) / 10 else -((-t + 5) / 10)) →
        s.sourceText .temperature = s.settings.text 253 ++
          codes ([0] ++ (if d < 0 then [40] else []) ++ figures d.natAbs ++ [48, 3])) ∧
    ((s.composer.temp = .fault ∨ s.composer.temp = .noStep) →
      s.sourceText .temperature = s.settings.text 253 ++ codes [0, 40, 40]) ∧
    (∀ u k, s.composer.wind = some u → k = (u * 36 + 50) / 100 →
      s.sourceText .wind = s.settings.text 254 ++
        codes ([0] ++ (if 150 < k then [50, 28, 32, 27] else figures k) ++ [0, 11, 13, 42, 8])) ∧
    (s.composer.wind = none → s.sourceText .wind = s.settings.text 254 ++ codes [0, 40, 40]) ∧
    ∀ e, s.sourceText (.entry e) = s.settings.texts[e]?.getD []

/-- Number and fields of a sign record lie in their ranges, no announced segment twice (R135). -/
def Sys2Proof.Claims.SignInRange (k : Nat) (r : SignRecord) : Prop :=
  1 ≤ k ∧ k ≤ 16 ∧ 1 ≤ r.address ∧ r.address ≤ 8 ∧ r.cells ≤ 2 ∧ 1 ≤ r.lines ∧ r.lines ≤ 3 ∧ 8 ≤ r.lineLength ∧
    r.lineLength ≤ 20 ∧ 1 ≤ r.profile ∧ r.profile ≤ 8 ∧ 1 ≤ r.segments.length ∧ r.segments.length ≤ 4 ∧
    (∀ x ∈ r.segments, 1 ≤ x ∧ x ≤ 8) ∧ r.segments.Nodup

/-- The profile and the announced segments of a sign record are defined (R135). -/
def Sys2Proof.Claims.SignNamesDefined (c : Settings) (r : SignRecord) : Prop :=
  (lookup c.profiles r.profile).isSome = true ∧ AllDefined c.segments r.segments

/-- No other sign has the place of a sign record, and no gate that names the sign loses its guarded segment (R135). -/
def Sys2Proof.Claims.SignFree (c : Settings) (k : Nat) (r : SignRecord) : Prop :=
  (∀ j q, j ≠ k → lookup c.signs j = some q → ¬ (q.string = r.string ∧ q.address = r.address)) ∧
    ∀ j q, lookup c.gates j = some q → k ∈ q.approach → q.segment ∈ r.segments

/-- An attempt in flight on a sign is orphaned, and no other changed (R175, R176). -/
def Sys2Proof.Claims.Orphans (k : Nat) (s t : State) : Prop :=
  ∀ x a, s.transfer x = some a → t.transfer x = some { a with orphaned := a.orphaned || a.sign == k }

/-- DEFINE_SIGN: a new sign has transparent pages, a marked image and a fresh panel record; a redefined one keeps the
slots it has, is marked where its identity changed and keeps its mark where it did not, and where string or address
changed it is marked, its panel record made afresh and its attempt orphaned; the image of either is what its sources
give, in the slots of the new record (R135, R136, R160, R175). That a redefinition with other slots and the
same identity takes the new slots is the model's choice (log entry 29). String and address in the report of a moved sign
are the new ones, which is the model's reading
(log entry 25). -/
def Obligations.DefineSignComposes : Prop :=
  ∀ m tag f s k r, Ready s kindDefineSign tag f → s.SignsWhole → 8 ≤ f.length → f.length = 8 + byteAt f 7 →
    byteAt f 0 = k → signOf f = some r → SignInRange k r → SignNamesDefined s.settings r → SignFree s.settings k r →
      ∃ t, Taken (.defineSign m tag f) m kindDefineSign tag (.done [byte k]) s t ∧
        Put s.settings.signs t.settings.signs k (some r) ∧ RecomposesOnly (fun j => j = k) s t ∧
        Frame (answered ++ road ++ [.signRecords]) s t ∧
        (lookup s.settings.signs k = none →
          (∃ c, t.sign k = some c ∧ c.front = .transparent ∧ c.back = .transparent ∧ c.marked = true) ∧
          t.ImageFollows k ∧
          (∃ p, t.panel k = some p ∧ PanelMay ⟨.unknown, none, none, none, 0, none, none⟩ p) ∧
          ReportedFirst [] s t ∧ Reacts [] [k] [k] [] s t) ∧
        ∀ old c p, lookup s.settings.signs k = some old → s.sign k = some c → s.panel k = some p →
          (∃ d, t.sign k = some d ∧ (c.marked = true → d.marked = true) ∧
            (∀ i, i < 2 → d.front.cells[i]? = (if i < r.cells then c.front.cells[i]? else some none) ∧
              d.back.cells[i]? = (if i < r.cells then c.back.cells[i]? else some none)) ∧
            (∀ i, i < 3 → d.front.lines[i]? = (if i < r.lines then c.front.lines[i]? else some none) ∧
              d.back.lines[i]? = (if i < r.lines then c.back.lines[i]? else some none)) ∧
            (old.string ≠ r.string ∨ old.address ≠ r.address → d.marked = true)) ∧ t.ImageFollows k ∧
          (old.string = r.string → old.address = r.address → Recomposed s t k ∧ ReportedFirst [] s t ∧
            Reacts [] [] [k] [] s t) ∧
          (old.string ≠ r.string ∨ old.address ≠ r.address →
            (∃ q, t.panel k = some q ∧ PanelMay ⟨.unknown, none, none, none, 0, none, none⟩ q) ∧ Orphans k s t ∧
            ReportedFirst (if p.state = .fault then [.sign k r.string r.address .moved] else []) s t ∧
            Reacts [] [k] [k] [.a, .b] s t)

/-- REMOVE_SIGN: a sign that no gate names goes with its pages, image and panel record, leaves every group, and an
attempt on it is orphaned; removed from FAULT it is reported. A sign that a gate names is refused CONFLICT (R137,
R174, R176). -/
def Obligations.RemoveSignDrops : Prop :=
  ∀ m tag s k r p, Ready s kindRemoveItem tag [4, byte k] → s.Settled → lookup s.settings.signs k = some r →
    s.panel k = some p →
      ((∃ j q, lookup s.settings.gates j = some q ∧ k ∈ q.approach) →
        Refuses (.removeSign m tag [4, byte k]) m kindRemoveItem tag .conflict .noReason s) ∧
      ((∀ j q, lookup s.settings.gates j = some q → k ∉ q.approach) →
        ∃ t, Taken (.removeSign m tag [4, byte k]) m kindRemoveItem tag (.done [byte k]) s t ∧
          Put s.settings.signs t.settings.signs k none ∧ Put s.composer.signs t.composer.signs k none ∧
          Put s.strings.panels t.strings.panels k none ∧ Orphans k s t ∧
          (∀ x, s.transfer x = none → t.transfer x = none) ∧
          (∀ j, lookup t.settings.groups j =
            (lookup s.settings.groups j).map fun signs => signs.filter fun x => x != k) ∧
          Reported (if p.state = .fault then [.sign k r.string r.address .removed] else []) s t ∧
          Frame (answered ++ [.signRecords, .groups, .signs, .panels, .transfers]) s t)

/-- DEFINE_PROFILE, REMOVE_PROFILE, DEFINE_GROUP and REMOVE_GROUP: the record is stored or deleted; a profile recomposes
the signs that follow it and no other, each to the image its sources give, marked where the identity changed and left as
it is marked where it did not, and is refused CONFLICT while one follows it; a group changes no image (R138 to R140,
R160). -/
def Obligations.ProfilesAndGroups : Prop :=
  (∀ m tag f s k r, Ready s kindDefineProfile tag f → f.length = 8 → byteAt f 0 = k → 1 ≤ k → k ≤ 8 →
    profileOf f = some r →
      ∃ t, Taken (.defineProfile m tag f) m kindDefineProfile tag (.done [byte k]) s t ∧
        Put s.settings.profiles t.settings.profiles k (some r) ∧
        (∀ j q, lookup s.settings.signs j = some q → q.profile = k → Recomposed s t j) ∧
        RecomposesOnly (fun j => ∃ q, lookup s.settings.signs j = some q ∧ q.profile = k) s t ∧
        ReportedFirst [] s t ∧ RoadReacts s t ∧ Frame (answered ++ road ++ [.profiles]) s t) ∧
  (∀ m tag s k r, Ready s kindRemoveItem tag [5, byte k] → s.Settled → lookup s.settings.profiles k = some r →
    ((∃ j q, lookup s.settings.signs j = some q ∧ q.profile = k) →
      Refuses (.removeProfile m tag [5, byte k]) m kindRemoveItem tag .conflict .noReason s) ∧
    ((∀ j q, lookup s.settings.signs j = some q → q.profile ≠ k) →
      ∃ t, Taken (.removeProfile m tag [5, byte k]) m kindRemoveItem tag (.done [byte k]) s t ∧
        Put s.settings.profiles t.settings.profiles k none ∧ Quiet [.inbound, .outbox, .profiles] s t)) ∧
  (∀ m tag f s k signs, Ready s kindDefineGroup tag f → s.Settled → 2 ≤ f.length → f.length = 2 + byteAt f 1 →
    byteAt f 0 = k → bytesAt f 2 (byteAt f 1) = signs → 1 ≤ k → k ≤ 8 → byteAt f 1 ≤ 16 → signs.Nodup →
      (∀ x ∈ signs, 1 ≤ x ∧ x ≤ 16 ∧ (lookup s.settings.signs x).isSome = true) →
        ∃ t g, Taken (.defineGroup m tag f) m kindDefineGroup tag (.done [byte k]) s t ∧
          Put s.settings.groups t.settings.groups k (some g) ∧ g.Perm signs ∧ g.Pairwise (· < ·) ∧
          Quiet [.inbound, .outbox, .groups] s t) ∧
  ∀ m tag s k g, Ready s kindRemoveItem tag [6, byte k] → s.Settled → lookup s.settings.groups k = some g →
    ∃ t, Taken (.removeGroup m tag [6, byte k]) m kindRemoveItem tag (.done [byte k]) s t ∧
      Put s.settings.groups t.settings.groups k none ∧ Quiet [.inbound, .outbox, .groups] s t

/-- The signs a page request names: one sign, or those of a group (R145, R146). -/
def Sys2Proof.Claims.Targets (c : Settings) (f : List Byte) (signs : List Nat) : Prop :=
  (byteAt f 0 = 0 ∧ (lookup c.signs (byteAt f 1)).isSome = true ∧ signs = [byteAt f 1]) ∨
    (byteAt f 0 = 1 ∧ lookup c.groups (byteAt f 1) = some signs)

/-- PAGE_WRITE and PAGE_SWAP: every target sign takes the slots it has into its back page, its front page untouched and
no image changed; or exchanges its pages and is recomposed, as no other sign is, to the image its new front page gives,
marked where the identity changed and left as it is marked where it did not. The reply counts the signs (R145, R146, R160). -/
def Obligations.PagesWrittenAndSwapped : Prop :=
  (∀ m tag f s signs page, Ready s kindPageWrite tag f → s.Settled → f.length = 12 → Targets s.settings f signs →
    pageOf f = some page →
      ∃ t, Taken (.pageWrite m tag f) m kindPageWrite tag (.done [byte signs.length]) s t ∧
        (∀ k r c, k ∈ signs → lookup s.settings.signs k = some r → s.sign k = some c →
          ∃ d, t.sign k = some d ∧ d.front = c.front ∧ d.image = c.image ∧ d.marked = c.marked ∧
            (∀ i, i < 2 → d.back.cells[i]? = if i < r.cells then page.cells[i]? else some none) ∧
            ∀ i, i < 3 → d.back.lines[i]? = if i < r.lines then page.lines[i]? else some none) ∧
        (∀ k, k ∉ signs → t.sign k = s.sign k) ∧ Quiet [.inbound, .outbox, .signs] s t) ∧
  ∀ m tag f s signs, Ready s kindPageSwap tag f → f.length = 2 → Targets s.settings f signs → signs.Nodup →
    ∃ t, Taken (.pageSwap m tag f) m kindPageSwap tag (.done [byte signs.length]) s t ∧
      (∀ k r c, k ∈ signs → lookup s.settings.signs k = some r → s.sign k = some c →
        (∃ d, t.sign k = some d ∧ d.front = c.back ∧ d.back = c.front ∧ (c.marked = true → d.marked = true)) ∧
          Recomposed s t k) ∧
      RecomposesOnly (fun k => k ∈ signs) s t ∧ ReportedFirst [] s t ∧ Reacts [] [] signs [] s t ∧
      Frame (answered ++ road) s t

/-- An image has a line drawn from an entry whose text has changed: the entry of a text line, 253 for the temperature
and 254 for the wind (R142, R155, R156). -/
def Sys2Proof.Claims.DrawsOnChange (s t : State) (image : Image) : Prop :=
  ∃ x e, some x ∈ image.claims.lines ∧ t.settings.text e ≠ s.settings.text e ∧
    e = match x.2 with
      | .entry n => n
      | .temperature => 253
      | .wind => 254

/-- TEXT_LOAD: the texts are stored in consecutive entries, those past entry 255 are not, the reply counts the stored
ones, and the signs that draw a line from a changed entry, and no other, are recomposed, marked where the identity changed
and left as they are marked where it did not (R142, R160; log entry 23 says which entries changed). -/
def Obligations.TextLoadStores : Prop :=
  ∀ m tag f s ts, Ready s kindTextLoad tag f → 2 ≤ f.length → textsOf (byteAt f 1) (f.drop 2) = some ts →
    1 ≤ byteAt f 1 → byteAt f 1 ≤ 8 → (∀ t ∈ ts, t.length ≤ 20 ∧ ∀ b ∈ t, b.toNat ≤ 63) →
      ∃ t, Taken (.textLoad m tag f) m kindTextLoad tag (.done [byte (min ts.length (256 - byteAt f 0))]) s t ∧
        ts.length = byteAt f 1 ∧
        (∀ j x, ts[j]? = some x → byteAt f 0 + j ≤ 255 →
          (t.settings.text (byteAt f 0 + j)).map (fun (c : Code) => c.val) = x.map fun b => b.toNat) ∧
        (∀ e, e < byteAt f 0 ∨ byteAt f 0 + ts.length ≤ e → t.settings.text e = s.settings.text e) ∧
        (∀ k c, s.sign k = some c → DrawsOnChange s t c.image → Recomposed s t k) ∧
        RecomposesOnly (fun k => ∃ c, s.sign k = some c ∧ DrawsOnChange s t c.image) s t ∧
        ReportedFirst [] s t ∧ RoadReacts s t ∧ Frame (answered ++ road ++ [.texts]) s t

/-! ## The String Controller -/

/-- Class and place of a sign as a candidate of a string (R171): marked and eligible with or without a closure segment,
due for a refresh, or due for a retry. Times are read to the millisecond; a record without the time counts as due. -/
def Sys2Proof.Claims.Ranks (s : State) (x : StringId) (k : Nat) (rank : Nat × Nat) : Prop :=
  ∃ r c p, lookup s.settings.signs k = some r ∧ r.string = x ∧ s.sign k = some c ∧ s.panel k = some p ∧
    ∃ due old : Prop,
      (due ↔ ∀ e, p.lastAttemptEnd = some e → 30000 ≤ msBetween s.now e) ∧
      (old ↔ ∀ e, p.lastConfirmation = some e → 60000 ≤ msBetween s.now e) ∧
      ((c.marked = true ∧ (p.state = .unknown ∨ p.state = .showing ∨ (p.state = .fault ∧ due)) ∧
          rank = (if c.image.claims.closureSegment.isSome then 1 else 2, 0)) ∨
        (c.marked = false ∧ p.state = .showing ∧ old ∧ rank = (3, p.lastConfirmation.getD 0 / usPerMs)) ∨
        (c.marked = false ∧ p.state = .fault ∧ due ∧ rank = (4, p.lastAttemptEnd.getD 0 / usPerMs)))

/-- The arbiter's choice is the candidate of the first class, within it the oldest, and on equal times the lowest
number; without a candidate there is none (R171). -/
def Obligations.ArbiterChoosesFirst : Prop :=
  ∀ (s : State) x,
    (s.choice x = none ↔ ∀ k rank, ¬ Ranks s x k rank) ∧
    ∀ k, s.choice x = some k → ∃ rank, Ranks s x k rank ∧
      ∀ j other, Ranks s x j other →
        rank.1 < other.1 ∨ (rank.1 = other.1 ∧ (rank.2 < other.2 ∨ (rank.2 = other.2 ∧ k ≤ j)))

/-- IMAGE_FRAME_SENT opens the reply window of 250 ms; REFRESH_DUE and RETRY_DUE make the arbiter of a FREE string
choose: a delivery begins from UNKNOWN or SHOWING, a retry leaves the panel in FAULT, and the composed image is what is
sent (R165, R169, R171, R172). On a BUSY string, or before the time, nothing happens (log entry 4). -/
def Obligations.StringsGoOn : Prop :=
  (∀ m x s a, s.powered = true → s.Settled → s.transfer x = some a → a.phase = .sendingFrame →
    ∃ t, exec (.imageFrameSent m x) s = .next t ∧ Passed m s t ∧
      t.transfer x = some { a with phase := .waiting (max s.now m / usPerMs * usPerMs + 250 * usPerMs) [] } ∧
      (∀ y, y ≠ x → t.transfer y = s.transfer y) ∧ Quiet [.transfers] s t) ∧
  ∀ m k s r p, s.powered = true → s.Settled → lookup s.settings.signs k = some r → s.panel k = some p →
    ∀ (i : Instr) (due : Prop),
      ((i = .refreshDue m k ∧
          (due ↔ p.state = .showing ∧
            ∀ e, p.lastConfirmation = some e → 60000 ≤ msBetween (max s.now m) e)) ∨
        (i = .retryDue m k ∧
          (due ↔ p.state = .fault ∧ ∀ e, p.lastAttemptEnd = some e → 30000 ≤ msBetween (max s.now m) e))) →
      ((¬ due ∨ (∃ a, s.transfer r.string = some a) ∨ (s.elapse m).choice r.string = none) →
        ∃ t, exec i s = .next t ∧ Passed m s t ∧ Quiet [] s t) ∧
      ∀ j q c o, due → s.transfer r.string = none → (s.elapse m).choice r.string = some j →
        lookup s.settings.signs j = some q → s.sign j = some c → s.panel j = some o →
          ∃ t, exec i s = .next t ∧ Passed m s t ∧
            t.transfer r.string = some ⟨j, q.address, c.image, 1, .sendingFrame, false⟩ ∧
            t.panel j = some (if o.state = .fault then o else { o with state := .sending, attempts := 0 }) ∧
            ReportedFirst [] s t ∧ RoadReacts s t ∧ Frame (always ++ road) s t

/-- A string's attempt has ended: the string is FREE, or its arbiter has begun another delivery or retry (R167). -/
def Sys2Proof.Claims.Ended (x : StringId) (t : State) : Prop :=
  ∀ b, t.transfer x = some b → b.number = 1 ∧ b.phase = .sendingFrame ∧ b.orphaned = false

/-- Bytes complete the frame of a SHOWN answer within the reply window: those the string has received with these are
a SHOWN frame of the panel's address with an identity, closed by the check bytes given (R166, R211, R212). The identity
and the check are two bytes each. The address is the one the IMAGE frame was sent to; for the orphaned attempt of a moved
or removed sign that is the model's choice (log entry 33). -/
def Sys2Proof.Claims.Completes (m : Moment) (a : Attempt) (s : State) (bytes : List (Option Byte))
    (identity check : List Byte) : Prop :=
  ∃ w received, a.phase = .waiting w received ∧ max s.now m / usPerMs * usPerMs ≤ w ∧ identity.length = 2 ∧
    check.length = 2 ∧ bytes ≠ [] ∧
    received.map some ++ bytes = ([0x5A, 4, 2, byte a.address] ++ identity ++ check).map some

/-- SHOWN_FRAME_RECEIVED with the last bytes of a frame that echoes the sent identity, within the window: the sent image
is confirmed, shown-since kept where the closure segment is the same, the panel SHOWING until its string grants it anew,
the mark cleared where the sent identity is the composed one and no gate that names the sign moves, on segments that
follow their sources as every step keeps them, a panel that was in FAULT reported, and the string ended. An orphaned
attempt only ends (R166, R167, R174 to R176, R212), by a reply with the address its IMAGE frame was sent to (log entry
33). -/
def Obligations.ShownFrameConfirms : Prop :=
  ∀ m x s a bytes identity check, s.powered = true → s.Settled → s.transfer x = some a →
    identity = checkBytes a.sent.identity → check = checkBytes (checkValue ([4, 2, byte a.address] ++ identity)) →
      Completes m a s bytes identity check →
        (a.orphaned = true → ∃ t, exec (.shownFrameReceived m x bytes) s = .next t ∧ Passed m s t ∧ Ended x t ∧
          ReportedFirst [] s t ∧ Reacts [] [] [] [x] s t ∧ Frame (always ++ road) s t) ∧
        ∀ p c r, a.orphaned = false → s.panel a.sign = some p → s.sign a.sign = some c →
          lookup s.settings.signs a.sign = some r →
            ∃ t q d, exec (.shownFrameReceived m x bytes) s = .next t ∧ Passed m s t ∧ Ended x t ∧
              t.panel a.sign = some q ∧ PanelMay
                { state := .showing
                  confirmed := some a.sent
                  shownSince :=
                    if p.confirmed.map (fun i => i.claims.closureSegment) = some a.sent.claims.closureSegment then
                      p.shownSince
                    else some (max s.now m)
                  lastConfirmation := some (max s.now m)
                  attempts := 0
                  lastAttemptEnd := some (max s.now m)
                  lastFailure := none } q ∧
              t.sign a.sign = some d ∧ d.front = c.front ∧ d.back = c.back ∧
              (c.image.identity ≠ a.sent.identity → c.marked = true → d.marked = true) ∧
              (c.image.identity = a.sent.identity → s.SegmentsFollow →
                (∀ k q, lookup s.settings.gates k = some q → a.sign ∈ q.approach →
                  (t.gate k).map GateState.position = (s.gate k).map GateState.position) → d.marked = false) ∧
              ReportedFirst (if p.state = .fault then
                [.sign a.sign r.string r.address (.confirmed a.sent.identity a.sent.claims.closureSegment)] else []) s t ∧
              Reacts [] [a.sign] [a.sign] [x] s t ∧ Frame (always ++ road) s t

/-- A command with which the attempt of a string fails, and the cause: the window end with nothing or an incomplete
frame received; within the window a byte that breaks the frame begun, by a missing stop bit, a length other than 4, a
kind other than 2 or another address; or a complete SHOWN frame with another identity or with a bad check (R166, R212).
That a frame whose earlier bytes have come counts as begun where its end and the window end come together is the
model's choice (log entry 30), and so is the address that judges the reply to an orphaned attempt (log entry 33). -/
def Sys2Proof.Claims.Fails (i : Instr) (m : Moment) (s : State) (x : StringId) (a : Attempt) (cause : Failure) : Prop :=
  (∃ w received, a.phase = .waiting w received ∧ i = .replyWindowEnd m x ∧ w ≤ max s.now m ∧
    cause = if received = [] then .noReply else .badFrame) ∨
  (∃ w received b, a.phase = .waiting w received ∧ max s.now m / usPerMs * usPerMs ≤ w ∧
    i = .shownFrameReceived m x [b] ∧ cause = .badFrame ∧
    ((received ≠ [] ∧ b = none) ∨ (received.length = 1 ∧ b ≠ some 4) ∨ (received.length = 2 ∧ b ≠ some 2) ∨
      (received.length = 3 ∧ b ≠ some (byte a.address)))) ∨
  ∃ bytes identity check, i = .shownFrameReceived m x bytes ∧ Completes m a s bytes identity check ∧
    ((checkBytes (checkValue ([4, 2, byte a.address] ++ identity)) ≠ check ∧ cause = .badFrame) ∨
      (checkBytes (checkValue ([4, 2, byte a.address] ++ identity)) = check ∧
        identity ≠ checkBytes a.sent.identity ∧ cause = .wrongIdentity))

/-- A failed attempt: the delivery goes on with its next attempt and the image as it then stands; the third failure
ends it in FAULT with a report; a failed retry leaves the panel in FAULT with count 3; and an orphaned attempt, judged by
the address its IMAGE frame was sent to (log entry 33), only ends (R166, R168, R169, R175, R176, R212). -/
def Obligations.AttemptsFail : Prop :=
  ∀ i m x s a cause, s.powered = true → s.Settled → s.transfer x = some a → Fails i m s x a cause →
    (a.orphaned = true → ∃ t, exec i s = .next t ∧ Passed m s t ∧ Ended x t ∧ ReportedFirst [] s t ∧
      Reacts [] [] [] [x] s t ∧ Frame (always ++ road) s t) ∧
    ∀ p c r, a.orphaned = false → s.panel a.sign = some p → s.sign a.sign = some c →
      lookup s.settings.signs a.sign = some r →
        (p.state = .sending → p.attempts < 2 →
          ∃ t, exec i s = .next t ∧ Passed m s t ∧
            Put s.strings.panels t.strings.panels a.sign (some { p with
              attempts := p.attempts + 1, lastAttemptEnd := some (max s.now m), lastFailure := some cause }) ∧
            t.transfer x = some ⟨a.sign, r.address, c.image, a.number + 1, .sendingFrame, false⟩ ∧
            (∀ y, y ≠ x → t.transfer y = s.transfer y) ∧ Quiet [.panels, .transfers] s t) ∧
        (p.state = .sending → 2 ≤ p.attempts →
          ∃ t, exec i s = .next t ∧ Passed m s t ∧ Ended x t ∧
            t.panel a.sign = some { p with
              state := .fault, attempts := 3, lastAttemptEnd := some (max s.now m), lastFailure := some cause } ∧
            ReportedFirst [.sign a.sign r.string r.address (.enteredFault (some cause) p.confirmed.isSome)] s t ∧
            Reacts [] [a.sign] [] [x] s t ∧ Frame (always ++ road) s t) ∧
        (p.state = .fault →
          ∃ t, exec i s = .next t ∧ Passed m s t ∧ Ended x t ∧
            t.panel a.sign = some { p with
              attempts := 3, lastAttemptEnd := some (max s.now m), lastFailure := some cause } ∧
            ReportedFirst [] s t ∧ Reacts [] [a.sign] [] [x] s t ∧ Frame (always ++ road) s t)

/-- What a string's receiver makes of one byte that decides nothing: before a frame has begun it discards all but
0x5A, and in a frame it reads on (R212). -/
def Sys2Proof.Claims.readsOn (received : List Byte) (address : Nat) (b : Option Byte) : Option (List Byte) :=
  match received.length, b with
  | 0, b => if b = some 0x5A then some [0x5A] else some []
  | 1, b => if b = some 4 then some (received ++ [4]) else none
  | 2, b => if b = some 2 then some (received ++ [2]) else none
  | 3, some b => if b = byte address then some (received ++ [b]) else none
  | 4, some b => some (received ++ [b])
  | 5, some b => some (received ++ [b])
  | 6, some b => some (received ++ [b])
  | _, _ => none

/-- SHOWN_FRAME_RECEIVED with one byte that decides nothing: outside a reply window it is discarded; inside one the
receiver waits for 0x5A and reads the frame on, and nothing else happens (R166, R212). Which address byte the reply to an
orphaned attempt is read on with is the model's choice (log entry 33). -/
def Obligations.StringBytesRead : Prop :=
  ∀ m x s b, s.powered = true → s.Settled →
    ((∀ a w received, s.transfer x = some a → a.phase = .waiting w received → w < max s.now m / usPerMs * usPerMs) →
      ∀ bytes, ∃ t, exec (.shownFrameReceived m x bytes) s = .next t ∧ Passed m s t ∧ Quiet [] s t) ∧
    ∀ a w received after, s.transfer x = some a → a.phase = .waiting w received →
      max s.now m / usPerMs * usPerMs ≤ w → readsOn received a.address b = some after →
        ∃ t, exec (.shownFrameReceived m x [b]) s = .next t ∧ Passed m s t ∧
          t.transfer x = some { a with phase := .waiting w after } ∧ (∀ y, y ≠ x → t.transfer y = s.transfer y) ∧
          Quiet [.transfers] s t

/-! ## The Station Line Controller -/

/-- A valid frame has come: the silence timer restarts, an UNATTENDED line becomes ATTENDED with its report, and the
frame joins the queue, is refused BUSY when four wait, or is dropped when four BUSY replies wait (R182, R192). -/
def Sys2Proof.Claims.Arrives (m : Moment) (kind : Byte) (body : List Byte) (s t : State) : Prop :=
  t.line.receiver = .hunting ∧ t.line.lastValid = max s.now m ∧ t.line.attended = true ∧
    Reported (if s.line.attended then [] else [.linkAttended (msBetween (max s.now m) s.line.lastValid / 1000)]) s t ∧
    Frame (always ++ [.receiver, .inbound, .outbox, .silence, .attended]) s t ∧
    (s.line.inbound.length < 4 →
      t.line.inbound = s.line.inbound ++ [⟨kind, body⟩] ∧ t.line.outbox = s.line.outbox) ∧
    (4 ≤ s.line.inbound.length → (s.line.outbox.filter Reply.isBusy).length < 4 →
      t.line.inbound = s.line.inbound ∧
      t.line.outbox = s.line.outbox ++ [⟨body.headD 0, kind, .refused .busy .noReason⟩]) ∧
    (4 ≤ s.line.inbound.length → 4 ≤ (s.line.outbox.filter Reply.isBusy).length →
      t.line.inbound = s.line.inbound ∧ t.line.outbox = s.line.outbox)

/-- STATION_FRAME_RECEIVED with a whole valid frame: it is passed on (R180, R182, R192). -/
def Obligations.ValidFrameArrives : Prop :=
  ∀ m s kind body, s.powered = true → s.Settled → s.line.receiver = .hunting → body.length ≤ 240 →
    ∃ t, exec (.stationFrameReceived m (stationFrame kind body)) s = .next t ∧ Passed m s t ∧
      t.line.lastByte = max s.now m ∧ Arrives m kind body s t

/-- What the receiver makes of one byte that completes no frame (R180). -/
def Sys2Proof.Claims.takes (r : Receiver) (b : Byte) : Option Receiver :=
  match r with
  | .hunting => some (if b = 0xA5 then .length else .hunting)
  | .length => some (if b.toNat ≤ 240 then .kind b else .hunting)
  | .kind n => some (if n = 0 then .check n b [] none else .body n b [])
  | .body n k got =>
    some (if got.length + 1 < n.toNat then .body n k (got ++ [b]) else .check n k (got ++ [b]) none)
  | .check n k body none => some (.check n k body (some b))
  | .check _ _ _ (some _) => none

/-- STATION_FRAME_RECEIVED with one byte, in every state of the receiver: the rows of R180, the second check byte
passing a valid frame on and discarding any other. A byte that comes later than 50 ms after the last one finds the
frame in progress discarded and is taken in HUNTING, and one that comes at 50 ms continues the frame, as R181 allows. -/
def Obligations.StationBytesTaken : Prop :=
  ∀ m s b, s.powered = true → s.Settled →
    ∀ r, r = (if 50 < msBetween (max s.now m) s.line.lastByte then .hunting else s.line.receiver) →
      ∃ t, exec (.stationFrameReceived m [b]) s = .next t ∧ Passed m s t ∧ t.line.lastByte = max s.now m ∧
        (∀ after, takes r b = some after → t.line.receiver = after ∧ Quiet [.receiver] s t) ∧
        ∀ n k body first, r = .check n k body (some first) →
          (checkValue (n :: k :: body) = first ++ b → Arrives m k body s t) ∧
          (checkValue (n :: k :: body) ≠ first ++ b → t.line.receiver = .hunting ∧ Quiet [.receiver] s t)

/-- A frame with a bad check, BAD_LENGTH, MISSING_STOP_BIT and GAP_EXPIRY drop the frame in progress and do nothing
else: no reply, no restart of the silence timer (R180, R181). A GAP_EXPIRY before its moment does nothing (log entry
4). -/
def Obligations.BrokenFramesDropped : Prop :=
  ∀ m s, s.powered = true → s.Settled →
    (∀ (kind : Byte) (body check : List Byte), s.line.receiver = .hunting → body.length ≤ 240 → check.length = 2 →
      checkBytes (checkValue (byte body.length :: kind :: body)) ≠ check →
        ∃ t, exec (.stationFrameReceived m ([0xA5, byte body.length, kind] ++ body ++ check)) s = .next t ∧
          Passed m s t ∧ t.line.receiver = .hunting ∧ Quiet [.receiver] s t) ∧
    (∀ length : Byte, s.line.receiver = .length → 240 < length.toNat →
      ∃ t, exec (.badLength m length) s = .next t ∧ Passed m s t ∧ t.line.receiver = .hunting ∧
        Quiet [.receiver] s t) ∧
    (∃ t, exec (.missingStopBit m) s = .next t ∧ Passed m s t ∧ t.line.receiver = .hunting ∧
      t.line.lastByte = s.line.lastByte ∧ Quiet [.receiver] s t) ∧
    (s.line.receiver ≠ .hunting → 50 ≤ msBetween (max s.now m) s.line.lastByte →
      ∃ t, exec (.gapExpiry m) s = .next t ∧ Passed m s t ∧ t.line.receiver = .hunting ∧
        t.line.lastByte = s.line.lastByte ∧ Quiet [.receiver] s t) ∧
    (s.line.receiver = .hunting ∨ msBetween (max s.now m) s.line.lastByte < 50 →
      ∃ t, exec (.gapExpiry m) s = .next t ∧ Passed m s t ∧ Quiet [] s t)

/-- A buffer calls for a report frame: it holds 8 records, or its oldest has waited for 2 s (R189). -/
def Sys2Proof.Claims.Calls (now : Moment) (buffer : List Buffered) : Prop :=
  ∃ b rest, buffer = b :: rest ∧ (7 ≤ rest.length ∨ 2000 ≤ msBetween now b.queuedAt)

/-- A report frame with the oldest records of a buffer, up to 8, has begun; they stay in the buffer (R189). -/
def Sys2Proof.Claims.SendsOldest (buffer : List Buffered) (t : State) : Prop :=
  t.line.transmitter = .sendingReports ((buffer.take 8).map Buffered.record) ∧
    t.line.buffer = ((buffer.take 8).map fun r => { r with inFrame := true }) ++ buffer.drop 8

/-- REPLY_SENT, REPORT_AGE_EXPIRY and REPORT_FRAME_SENT: a sent reply leaves the outbox, and the records of a sent report
frame leave the buffer; the transmitter then begins the oldest reply that waits, else a report frame if one is due, else
it is FREE (R183, R189, R190). Where a request can be taken as the last reply ends and a report frame is due, the
transmitter may stay FREE for the request's reply, which is the model's reading of R190 (log entry 10). -/
def Obligations.TransmitterSends : Prop :=
  ∀ m s, s.powered = true → s.Settled →
    (∀ r rest, s.line.transmitter = .sendingReply → s.line.outbox = r :: rest →
      (r.isBusy = true ∨ s.line.restartDue = none) →
        ∃ t, exec (.replySent m) s = .next t ∧ Passed m s t ∧ t.line.outbox = rest ∧ Quiet [.outbox] s t ∧
          (rest ≠ [] → t.line.transmitter = .sendingReply ∧ t.line.buffer = s.line.buffer) ∧
          (rest = [] → ¬ Calls t.now s.line.buffer →
            t.line.transmitter = .free ∧ t.line.buffer = s.line.buffer) ∧
          (rest = [] → Calls t.now s.line.buffer → SendsOldest s.line.buffer t ∨
            (s.line.inbound ≠ [] ∧ s.line.carrying = none ∧ t.line.transmitter = .free ∧
              t.line.buffer = s.line.buffer))) ∧
    (s.line.transmitter = .free → s.line.outbox = [] → Calls (max s.now m) s.line.buffer →
      ∃ t, exec (.reportAgeExpiry m) s = .next t ∧ Passed m s t ∧ SendsOldest s.line.buffer t ∧
        t.line.nextSequence = s.line.nextSequence ∧ Frame always s t) ∧
    ∀ records left, s.line.transmitter = .sendingReports records →
      left = s.line.buffer.filter (fun r => !r.inFrame) →
        ∃ t, exec (.reportFrameSent m) s = .next t ∧ Passed m s t ∧ t.line.nextSequence = s.line.nextSequence ∧
          Frame always s t ∧
          (s.line.outbox ≠ [] → t.line.transmitter = .sendingReply ∧ t.line.buffer = left) ∧
          (s.line.outbox = [] → Calls t.now left → SendsOldest left t) ∧
          (s.line.outbox = [] → ¬ Calls t.now left → t.line.transmitter = .free ∧ t.line.buffer = left)

/-- After every command on a released part the transmitter is FREE only where no reply waits and no report frame is due,
but for the free order choice after a reply (log entry 10); a frame once begun goes on until it has been sent or the
part stops (R189, R190). -/
def Obligations.TransmitterNeverIdle : Prop :=
  ∀ i s t, s.powered = true → exec i s = .next t → t.powered = true →
    (t.line.transmitter = .free → t.line.outbox = [] ∧ (Calls t.now t.line.buffer → ∃ m, i = .replySent m)) ∧
    (s.line.transmitter ≠ .free → (∀ m, i ≠ .replySent m ∧ i ≠ .reportFrameSent m) →
      (∀ kept phase, i ≠ .start kept phase) → t.line.transmitter = s.line.transmitter)

/-- A queued report takes clock and sequence number and joins the buffer at its newest end; a full buffer first loses
its oldest weather record, or without one its oldest record (R187, R188). -/
def Obligations.ReportsJoinBuffer : Prop :=
  ∀ (s : State) body, ∃ kept,
    (s.report body).line.buffer = kept ++ [⟨⟨s.line.nextSequence, s.retained.clock, body⟩, s.now, false⟩] ∧
    (s.report body).line.nextSequence = (s.line.nextSequence + 1) % 65536 ∧
    (s.line.buffer.length < 32 → kept = s.line.buffer) ∧
    (32 ≤ s.line.buffer.length → (∀ b ∈ s.line.buffer, b.isWeather = false) → kept = s.line.buffer.drop 1) ∧
    (∀ before b after, 32 ≤ s.line.buffer.length → s.line.buffer = before ++ b :: after → b.isWeather = true →
      (∀ o ∈ before, o.isWeather = false) → kept = before ++ after) ∧
    Frame [.reports] s (s.report body)

/-- LINK_SET replaces limit and auto-close, at once against the running silence timer; SILENCE_LIMIT_REACHED makes an
ATTENDED line UNATTENDED with its report when the timer stands at the limit (R191, R193), and before that does nothing
(log entry 4). -/
def Obligations.SilenceMakesUnattended : Prop :=
  ∀ m s, ∀ silence, silence = msBetween (max s.now m) s.line.lastValid / 1000 → s.Settled →
    (∀ tag f limit auto, Ready s kindLinkSet tag f → f.length = 3 → wordAt f 0 = limit → 30 ≤ limit → limit ≤ 3600 →
      AutoClose.ofCode (byteAt f 2) = some auto →
        ∀ attended : Bool, attended = (s.line.attended && decide (silence < limit)) →
          ∃ t, Taken (.linkSet m tag f) m kindLinkSet tag
              (.done (word limit ++ [auto.code, if attended then 1 else 2])) s t ∧
            t.settings.silenceLimit = limit ∧ t.settings.autoClose = auto ∧ t.line.attended = attended ∧
            Reported (if s.line.attended && !attended then [.linkUnattended limit] else []) s t ∧
            Frame (answered ++ [.link, .attended]) s t) ∧
    (s.powered = true → s.line.attended = true → s.settings.silenceLimit ≤ silence →
      ∃ t, exec (.silenceLimitReached m) s = .next t ∧ Passed m s t ∧ t.line.attended = false ∧
        Reported [.linkUnattended s.settings.silenceLimit] s t ∧ Frame (always ++ [.attended]) s t) ∧
    (s.powered = true → s.line.attended = false ∨ silence < s.settings.silenceLimit →
      ∃ t, exec (.silenceLimitReached m) s = .next t ∧ Passed m s t ∧ Quiet [] s t)

/-- The eight queries change nothing and answer what the part holds at the moment they are taken, an item that is not
there with UNKNOWN_ITEM (R46, R65, R85, R103, R131, R143, R161, R177, R186). UNKNOWN_KIND: a frame without a tag is
refused MALFORMED with tag 0, and one of a kind that names no request UNKNOWN_KIND (R184). Reply bytes that the layouts
leave open are read as log entries 15, 24 and 32 say. -/
def Obligations.QueriesAnswer : Prop :=
  (∀ m s kind body, s.powered = true → s.Settled → s.line.carrying = none →
    s.line.outbox.all Reply.isBusy = true → s.line.inbound.head? = some ⟨kind, body⟩ →
      (body = [] → Refuses (.unknownKind m kind body) m kind 0 .malformed .noReason s) ∧
      ∀ tag rest, body = tag :: rest → kind ∉ requestKinds →
        Refuses (.unknownKind m kind body) m kind tag .unknownKind .noReason s) ∧
  ∀ m tag f s, s.Settled →
    (Ready s kindQueryStatus tag f → f = [] →
      ∃ t, Taken (.queryStatus m tag f) m kindQueryStatus tag (.done (s.elapse m).popFrame.statusReply) s t ∧
        Quiet [.inbound, .outbox] s t) ∧
    (Ready s kindQueryPath tag f → f.length = 1 → 1 ≤ byteAt f 0 → byteAt f 0 ≤ 12 →
      ∃ t, Taken (.queryPath m tag f) m kindQueryPath tag (match lookup s.settings.paths (byteAt f 0) with
        | some r => .done (pathReply s (byteAt f 0) r)
        | none => .refused .unknownItem .noReason) s t ∧ Quiet [.inbound, .outbox] s t) ∧
    (Ready s kindQuerySegment tag f → f.length = 1 → 1 ≤ byteAt f 0 → byteAt f 0 ≤ 8 →
      ∃ t, Taken (.querySegment m tag f) m kindQuerySegment tag (match lookup s.settings.segments (byteAt f 0) with
        | some r => .done (segmentReply s (byteAt f 0) r)
        | none => .refused .unknownItem .noReason) s t ∧ Quiet [.inbound, .outbox] s t) ∧
    (Ready s kindQueryGate tag f → f.length = 1 → 1 ≤ byteAt f 0 → byteAt f 0 ≤ 8 →
      ∃ t, Taken (.queryGate m tag f) m kindQueryGate tag (match lookup s.settings.gates (byteAt f 0) with
        | some r => .done (gateReply (s.elapse m) (byteAt f 0) r)
        | none => .refused .unknownItem .noReason) s t ∧ Quiet [.inbound, .outbox] s t) ∧
    (Ready s kindQuerySign tag f → f.length = 1 → 1 ≤ byteAt f 0 → byteAt f 0 ≤ 16 →
      ∃ t, Taken (.querySign m tag f) m kindQuerySign tag (match lookup s.settings.signs (byteAt f 0) with
        | some r => .done (signReply (s.elapse m) (byteAt f 0) r)
        | none => .refused .unknownItem .noReason) s t ∧ Quiet [.inbound, .outbox] s t) ∧
    (Ready s kindQueryNotices tag f → f.length = 1 → 1 ≤ byteAt f 0 → byteAt f 0 ≤ 32 →
      ∃ t, Taken (.queryNotices m tag f) m kindQueryNotices tag
        (.done (byte s.retained.notices.length ::
          ((s.retained.notices.drop (byteAt f 0 - 1)).take 8).flatMap noticeBytes)) s t ∧
        Quiet [.inbound, .outbox] s t) ∧
    (Ready s kindQueryStep tag f → f.length = 3 → ∀ found,
      (byteAt f 0 = 1 ∧ found = s.weather.history.getLast?) ∨
        (byteAt f 0 = 2 ∧ found = s.weather.history.find? (fun r => r.number == wordAt f 1)) →
      ∃ t, Taken (.queryStep m tag f) m kindQueryStep tag (match found with
        | some r => .done (stepBytes r)
        | none => .refused .unknownItem .noReason) s t ∧ Quiet [.inbound, .outbox] s t) ∧
    (Ready s kindQueryText tag f → f.length = 2 → 1 ≤ byteAt f 1 → byteAt f 1 ≤ 8 →
      ∃ t, Taken (.queryText m tag f) m kindQueryText tag
        (.done (byte (min (byteAt f 1) (256 - byteAt f 0)) ::
          ((s.settings.texts.toList.drop (byteAt f 0)).take (byteAt f 1)).flatMap textBytes)) s t ∧
        Quiet [.inbound, .outbox] s t)

/-- The seconds since a moment as a reply gives them, 0xFFFFFFFF where the moment is absent (R177, R209). -/
def Sys2Proof.Claims.ageOf (s : State) (m : Option Moment) : Nat :=
  match m with
  | none => 0xFFFFFFFF
  | some m => msBetween s.now m / 1000

/-- How many records a table holds. -/
def Sys2Proof.Claims.countOf {α : Type} {n : Nat} (v : Vector (Option α) n) : Nat :=
  (v.toList.filter Option.isSome).length

/-- A page as QUERY SIGN returns it: kind and value of its five slot entries (R207, R209). -/
def Sys2Proof.Claims.pageFields (p : Page) : List (Nat × Nat) :=
  ones (p.cells.toList.flatMap (fun x => match x with
    | some n => [1, n]
    | none => [0, 0]) ++ p.lines.toList.flatMap fun x => match x with
    | some n => [2, n]
    | none => [0, 0])

/-- The result bodies of the queries, field by field in their widths: of QUERY STATUS, QUERY PATH, QUERY SEGMENT, QUERY
GATE, QUERY SIGN, QUERY STEP, and the entries of QUERY NOTICES and QUERY TEXT (R46, R65, R85, R103, R131, R143, R161,
R163, R177, R186, R209). The bodies of a path, segment, gate and sign begin with the bytes of the record, whose fields
the statement RecordsReadBack gives. Numbers of gates, signs and groups stand in ascending order, which for the groups
and gates of QUERY SIGN is the model's choice (log entry 32). That QUERY SIGN's in-transfer byte and attempt number look
at the attempt of the sign's own string alone, and count an orphaned one there, is the model's reading (log entry 24).
Places past a count, an absent hold's requirement and a stopped travel timer are sent as 0, which is the model's reading
(log entry 15). -/
def Obligations.ReplyLayouts : Prop :=
  (∀ s : State, s.statusReply = layout
    ([(1, if s.line.attended then 1 else 2), (4, msBetween s.now s.line.lastValid / 1000),
      (2, s.settings.silenceLimit), (1, s.settings.autoClose.code.toNat), (1, flag s.retained.clock.isSome),
      (4, clockTime s.retained.clock), (1, if s.store.saved = some s.settings then 0 else 1),
      (1, s.lastStart.code.toNat), (1, countOf s.settings.paths), (1, countOf s.settings.segments),
      (1, countOf s.settings.gates), (1, countOf s.settings.signs), (1, countOf s.settings.profiles),
      (1, countOf s.settings.groups), (1, (s.retained.notices.filter fun n => n.origin = .station).length),
      (1, (s.retained.notices.filter fun n => n.origin ≠ .station).length), (1, s.weather.history.length),
      (1, s.line.buffer.length), (2, s.line.nextSequence), (1, s.line.inbound.length)])) ∧
  (∀ (s : State) k r, pathReply s k r = pathBytes k r ++ layout
    [(2, (s.figures k).h), (1, (s.figures k).level), (1, (s.figures k).floor.elim 0 Floor.level),
      (1, (s.figures k).floor.elim 0 Floor.remaining), (1, (s.figures k).effective)]) ∧
  (∀ (s : State) k r g, lookup s.segments k = some g → ∃ gates signs : List Nat,
    gates.Pairwise (· < ·) ∧ (∀ j, j ∈ gates ↔ ∃ q, lookup s.settings.gates j = some q ∧ q.segment = k) ∧
    signs.Pairwise (· < ·) ∧ (∀ j, j ∈ signs ↔ ∃ q, lookup s.settings.signs j = some q ∧ k ∈ q.segments) ∧
    segmentReply s k r = segmentBytes k r ++ layout
      ([(1, g.state.code.toNat), (2, g.closure.getD 0), (2, g.restriction.getD 0), (1, g.hmax), (1, gates.length)] ++
        ones (gates.flatMap fun j => [j, (s.gate j).elim 0 fun x => x.position.code.toNat]) ++
        ones (signs.length :: signs))) ∧
  (∀ (s : State) k r g q, s.gate k = some g → Required s r q → ∃ agreement : List Nat, agreement.length = 3 ∧
    (∀ j, j < 3 → (agreement[j]? = some 1 ∨ agreement[j]? = some 0) ∧
      (agreement[j]? = some 1 ↔ ∃ sign, r.approach[j]? = some sign ∧ s.Agrees r.segment sign)) ∧
    gateReply s k r = gateBytes k r ++ layout
      ([(1, g.position.code.toNat), (1, g.position.stopCode.toNat), (1, g.position.raiseCode.toNat), (1, g.reversals),
        (1, flag g.holdStart.isSome), (4, g.holdStart.elim 0xFFFFFFFF fun h => s.now / usPerSecond - h),
        (2, g.holdStart.elim 0 fun _ => q), (1, g.travelExpiry.elim 0 fun e => e - s.now / usPerSecond),
        (1, match itemAt s.field.clearZones k with
          | some .occupied => 1
          | some (.holding _) => 1
          | some .idle => 0
          | none => 0)] ++
        ones ([r.upSwitch, r.downSwitch, r.presence, r.key].map fun l => flag (l ≠ 0 && s.accepted l)) ++
        ones agreement)) ∧
  (∀ (s : State) k r c p, s.sign k = some c → s.panel k = some p → ∃ groups gates : List Nat,
    groups.Pairwise (· < ·) ∧ (∀ j, j ∈ groups ↔ ∃ q, lookup s.settings.groups j = some q ∧ k ∈ q) ∧
    gates.Pairwise (· < ·) ∧ (∀ j, j ∈ gates ↔ ∃ q, lookup s.settings.gates j = some q ∧ k ∈ q.approach) ∧
    signReply s k r = signBytes k r ++ layout
      (ones (groups.length :: groups) ++ ones (gates.length :: gates) ++ pageFields c.front ++ pageFields c.back ++
        ones (c.image.cells ++ c.image.lines.flatten.map Fin.val ++
          c.image.claims.cells.flatMap (fun x => [(layerCode x).toNat, 0]) ++
          c.image.claims.lines.flatMap fun x => match x with
            | none => [0, 0]
            | some (l, .entry n) => [l.code.toNat, n]
            | some (l, .temperature) => [l.code.toNat, 0]
            | some (l, .wind) => [l.code.toNat, 1]) ++
        [(1, c.image.claims.closureSegment.getD 0), (2, c.image.identity.toNat), (1, flag c.marked),
          (1, p.state.code.toNat)] ++
        (match s.transfer r.string with
          | some a => if a.sign = k then [(1, 1), (1, a.number)] else [(1, 0), (1, 0)]
          | none => [(1, 0), (1, 0)]) ++
        [(1, flag p.confirmed.isSome), (2, p.confirmed.elim 0 fun i => i.identity.toNat),
          (1, p.confirmed.elim 0 fun i => i.claims.closureSegment.getD 0), (4, ageOf s p.shownSince),
          (4, ageOf s p.lastConfirmation), (1, p.attempts), (4, ageOf s p.lastAttemptEnd),
          (1, (failureCode p.lastFailure).toNat),
          (2, if p.state = .fault then p.lastAttemptEnd.elim 0 (fun e => (30000 - msBetween s.now e) / 1000) else 0)])) ∧
  (∀ r : StepRecord, stepBytes r = layout
    ([(2, r.number), (4, clockTime r.endTime), (2, r.tips), (2, r.p), (2, r.tempPulses), (2, degrees r.t),
      (1, r.tState.code.toNat), (2, r.pulses), (2, r.u), (1, r.sector.getD 0xFF)] ++
      r.bins.toList.map (fun n => (2, n)) ++ [(2, r.invalid), (1, stepFlags r.flags), (1, r.entries.length)] ++
      r.entries.flatMap fun e => [(1, e.path), (2, e.h), (1, flag e.clamped)])) ∧
  (∀ n : Notice, n.segments.length ≤ 8 → noticeBytes n = layout
    ([(2, n.number), (1, n.kind.code.toNat), (1, n.reason.index), (4, clockTime n.startTime), (4, clockTime n.endTime),
      (1, flag n.text.isSome), (1, n.text.getD 0), (1, n.origin.code.toNat), (1, n.state.code.toNat),
      (4, match n.state with
        | .active since => clockTime since
        | .pending => 0xFFFFFFFF), (1, n.segments.length)] ++
      ones (n.segments ++ List.replicate (8 - n.segments.length) 0))) ∧
  ∀ t : List Code, textBytes t = layout (ones (t.length :: t.map Fin.val))

/-! ## Settings Store and start-up -/

/-- SAVE_SETTINGS begins a store write of the working settings with the saved copy invalid; STORE_WRITE_END and
STORE_WRITE_TIMEOUT end it, with the copy valid or not, and answer the request (R184, R196, R197). What byte count and
check value the reply carries is free (log entry 8). A STORE_WRITE_TIMEOUT before its moment does nothing (log entry
4). -/
def Obligations.SettingsSaved : Prop :=
  ∀ m s, s.Settled →
    (∀ tag f, Ready s kindSaveSettings tag f →
      (f = [] → ∃ t, exec (.saveSettings m tag f) s = .next t ∧ Passed m s t ∧
        t.line.inbound = s.line.inbound.tail ∧ t.line.carrying = some tag ∧ t.store.saved = none ∧
        t.store.write = some ⟨s.settings, max s.now m⟩ ∧ t.store.writes = s.store.writes ∧
        Quiet [.inbound, .carrying, .saved, .write] s t) ∧
      (f ≠ [] → Refuses (.saveSettings m tag f) m kindSaveSettings tag .malformed .noReason s)) ∧
    (∀ tag w, s.powered = true → s.line.carrying = some tag → s.store.write = some w →
      (max s.now m ≤ w.began + 3 * usPerSecond →
        ∃ t, ∃ count check : BitVec 16, exec (.storeWriteEnd m true) s = .next t ∧ Passed m s t ∧
          t.store.saved = some w.copy ∧ t.store.write = none ∧ t.line.carrying = none ∧
          t.line.outbox = s.line.outbox ++
            [⟨tag, kindSaveSettings, .done (checkBytes count ++ checkBytes check)⟩] ∧
          Quiet [.outbox, .carrying, .saved, .write] s t) ∧
      (∀ i : Instr,
        (i = .storeWriteEnd m false ∨ (i = .storeWriteEnd m true ∧ w.began + 3 * usPerSecond < max s.now m) ∨
          (i = .storeWriteTimeout m ∧ w.began + 3 * usPerSecond ≤ max s.now m)) →
        ∃ t, exec i s = .next t ∧ Passed m s t ∧ t.store.saved = none ∧ t.store.write = none ∧
          t.line.carrying = none ∧
          t.line.outbox = s.line.outbox ++ [⟨tag, kindSaveSettings, .refused .storeFail .noReason⟩] ∧
          Quiet [.outbox, .carrying, .saved, .write] s t)) ∧
    (s.powered = true → (∀ w, s.store.write = some w → max s.now m < w.began + 3 * usPerSecond) →
      ∃ t, exec (.storeWriteTimeout m) s = .next t ∧ Passed m s t ∧ Quiet [] s t)

/-- The reports of a start before its RESTART report: at a cold start those of the held notices, at a warm one those of
the walk to a SET clock (R81, R86). -/
def Sys2Proof.Claims.StartReports (kind : StartKind) (s t : State) (pre : List ReportBody) : Prop :=
  match kind with
  | .cold => pre = t.retained.notices.map fun n => .notice n.number .created .closure .held
  | .warm => pre = match s.retained.clock with
    | some c => s.retained.notices.flatMap (walkReports c)
    | none => []

/-- The state a start derives for a gate from its lines, before any closure is in force (R111, R133). -/
def Sys2Proof.Claims.startPosition (s : State) (r : GateRecord) : GatePosition :=
  derivedPosition (r.key ≠ 0 && levelAt s.field.lines r.key) (levelAt s.field.lines r.upSwitch)
    (levelAt s.field.lines r.downSwitch) false

/-- The transfer of a string after the first choice of a start: FREE where no sign is on the string, else the first
attempt on the lowest-numbered sign of it whose image carries a closure segment, or where none does on its
lowest-numbered sign (R171, R178). -/
def Sys2Proof.Claims.FirstGrant (x : StringId) (t : State) : Prop :=
  ∃ closed any,
    Lowest (fun k => ∃ r c, lookup t.settings.signs k = some r ∧ r.string = x ∧ t.sign k = some c ∧
      c.image.claims.closureSegment ≠ none) closed ∧
    Lowest (fun k => ∃ r, lookup t.settings.signs k = some r ∧ r.string = x) any ∧
    (any = none → t.transfer x = none) ∧
    ∀ k, closed.or any = some k → ∃ r c, lookup t.settings.signs k = some r ∧ t.sign k = some c ∧
      t.transfer x = some ⟨k, r.address, c.image, 1, .sendingFrame, false⟩

/-- What a start of a kind leaves: settings from the saved copy or the factory, the Retained Area kept or cleared, every
block in its start state, held notices for the segments with an entry gate derived DOWN, each string with its first
delivery begun, the outputs that no gate names off and every other at the setting of its gate's state, and the RESTART
report last
(R1, R6, R7, R10, R17, R21, R22, R43, R45, R66 to R68, R81, R86, R111, R133, R162, R178, R194, R198 to R202). -/
def Sys2Proof.Claims.Started (kind : StartKind) (cause : StartCause) (reason : Option ColdReason) (s t : State) : Prop :=
  t.powered = true ∧ t.now = 0 ∧ t.lastStart = kind ∧ t.pending = s.pending ∧
  t.settings = s.store.saved.getD factorySettings ∧ t.store.saved = s.store.saved ∧ t.store.write = none ∧
  t.weather = ⟨0, 0, 0, []⟩ ∧ t.composer.temp = .noStep ∧ t.composer.wind = none ∧
  t.field.lines = s.field.lines ∧
  (∀ k l, itemAt s.field.lines k = some l → itemAt t.field.inputs k = some ⟨l, none⟩) ∧
  t.line.receiver = .hunting ∧ t.line.inbound = [] ∧ t.line.outbox = [] ∧ t.line.carrying = none ∧
  t.line.restartDue = none ∧ t.line.attended = true ∧ t.line.lastValid = 0 ∧ t.retained.checkHolds = true ∧
  (kind = .cold → t.retained.clock = none ∧ t.retained.lastTemp = none ∧ t.retained.prevSector = none ∧
    (∀ k, 1 ≤ k → k ≤ 12 → t.figures k = ⟨0, 0, none⟩) ∧
    (t.retained.notices.map Notice.number).Pairwise (· < ·) ∧
    ∀ n, n ∈ t.retained.notices ↔ ∃ k,
      n = ⟨60100 + k, .closure, [k], .other, none, none, none, .held, .active none⟩ ∧
      (lookup t.settings.segments k).isSome = true ∧
      ∃ j r, lookup t.settings.gates j = some r ∧ r.segment = k ∧ startPosition s r = .down) ∧
  (kind = .warm → t.retained.clock = s.retained.clock ∧ t.retained.lastTemp = s.retained.lastTemp ∧
    t.retained.prevSector = s.retained.prevSector ∧
    (∀ k, 1 ≤ k → k ≤ 12 → t.figures k =
      if (lookup t.settings.paths k).isSome then s.figures k else ⟨0, 0, none⟩) ∧
    t.retained.notices = match s.retained.clock with
      | some c => s.retained.notices.filterMap (afterWalk c)
      | none => s.retained.notices) ∧
  (∀ k r, lookup t.settings.signs k = some r → ∃ c state, t.sign k = some c ∧ c.front = .transparent ∧
    c.back = .transparent ∧ c.marked = true ∧ t.panel k = some ⟨state, none, none, none, 0, none, none⟩ ∧
    (state = .sending ∨ state = .unknown) ∧
    (state = .sending ↔ ∃ a, t.transfer r.string = some a ∧ a.sign = k)) ∧
  (∀ x, FirstGrant x t) ∧
  (∀ l, 1 ≤ l → l ≤ 16 → (∀ k r, lookup t.settings.gates k = some r → l ∉ r.outputs) →
    levelAt t.field.outputs l = false) ∧ (t.settings.OutputsOwned → t.OutputsFollow) ∧
  (∀ k, t.gate k = (lookup t.settings.gates k).map fun r =>
    atRest (if startPosition s r = .up ∧ t.cif r.segment = true then .warning else startPosition s r) 0) ∧
  (∀ k x, itemAt t.settings.calibration.channels k = some x → itemAt t.field.channels k = some (match x.mode with
    | .off => .off
    | .event => .event 0
    | .width => .width 0 0 (if levelAt s.field.lines x.source then .blind else .idle)
    | .vane => .vane (Vector.replicate 8 0) 0)) ∧
  (∀ k, 1 ≤ k → k ≤ 8 → itemAt t.field.clearZones k = some (match lookup t.settings.gates k with
    | some r => if r.presence ≠ 0 ∧ levelAt s.field.lines r.presence = true then .occupied else .idle
    | none => .idle)) ∧
  (∀ k, (lookup t.segments k).isSome = (lookup t.settings.segments k).isSome) ∧
  ∃ pre, StartReports kind s t pre ∧
    Reported (pre ++ [.restart kind cause reason s.store.saved.isNone (defined t.settings.paths).length
        (defined t.settings.segments).length (defined t.settings.gates).length (defined t.settings.signs).length
        t.retained.notices.length])
      ((s.withLine ⟨.hunting, 0, [], none, none, [], .free, [], 0, 0, true⟩).withClock t.retained.clock) t

/-- RESTART, START and SUPPLY_LOSS: an accepted RESTART is answered with the UNSAVED flag and takes effect when that
reply has been sent; a release by the supply monitor starts the part, warm where the area check holds; and a loss of the
supply keeps the Retained Area and the saved copy alone, with every output off (R199 to R202). How far the area check and
the pins live through an outage is the model's choice (log entries 16, 19 and 20), and so is the moment at which the
Pass Clock counts next: START gives it, and a RESTART carries it over (log entry 17, with R69, for the two clockNext
clauses). -/
def Obligations.PartStarts : Prop :=
  (∀ m tag f s kind, Ready s kindRestart tag f → s.Settled → f.length = 1 → StartKind.ofCode (byteAt f 0) = some kind →
    ∃ t, Taken (.restart m tag f) m kindRestart tag
        (.done [kind.code, if s.store.saved = some s.settings then 0 else 1]) s t ∧
      t.line.restartDue = some kind ∧ Quiet [.inbound, .outbox, .restartDue] s t) ∧
  (∀ m s r rest asked, s.powered = true → s.line.transmitter = .sendingReply → s.line.outbox = r :: rest →
    r.isBusy = false → s.line.restartDue = some asked →
      ∃ t, exec (.replySent m) s = .next t ∧ t.clockNext = s.clockNext - max s.now m ∧
        ∀ kind reason, kind = (if asked = .warm ∧ s.retained.checkHolds = true then .warm else .cold) →
          reason = (if kind = .warm then none else if asked = .cold then some .requested else some .retainedInvalid) →
            Started kind .request reason s t) ∧
  (∀ kept phase s, ∃ t, exec (.start kept phase) s = .next t ∧ t.clockNext = phase ∧
    ∀ kind, kind = (if s.retained.checkHolds = true ∧ kept = true then .warm else .cold) →
      Started kind .supply (if kind = .warm then none else some .retainedInvalid) s t) ∧
  ∀ m cut s, s.powered = true → ∃ t, exec (.supplyLoss m cut) s = .next t ∧ t.powered = false ∧
    t.retained = { s.retained with checkHolds := s.retained.checkHolds && !cut } ∧ t.store.saved = s.store.saved ∧
    t.field.lines = s.field.lines ∧ (∀ k, 1 ≤ k → k ≤ 16 → levelAt t.field.outputs k = false) ∧
    t.strings.transferA = none ∧ t.strings.transferB = none ∧ t.line.inbound = [] ∧ t.line.outbox = [] ∧
    t.line.buffer = [] ∧ t.store.write = none ∧ t.weather.history = [] ∧ t.pending = s.pending

/-- One check of a request: what has to hold, and the refusal where it does not (R185). -/
structure Sys2Proof.Claims.Condition where
  met : Prop
  code : RefusalCode
  sub : SubReason

/-- A check that refuses without a sub-reason. -/
abbrev Sys2Proof.Claims.needs (code : RefusalCode) (met : Prop) : Condition := ⟨met, code, .noReason⟩

/-- The first check that is not met gives the refusal; where every check is met there is none. -/
def Sys2Proof.Claims.FirstUnmet : List Condition → Option (RefusalCode × SubReason) → Prop
  | [], o => o = none
  | c :: rest, o => (¬ c.met ∧ o = some (c.code, c.sub)) ∨ (c.met ∧ FirstUnmet rest o)

/-- The checks of a request that names one item of a table and nothing else. -/
def Sys2Proof.Claims.itemConditions {α : Type} {n : Nat} (f : List Byte) (table : Vector (Option α) n) :
    List Condition :=
  [needs .malformed (f.length = 1), needs .range (1 ≤ byteAt f 0 ∧ byteAt f 0 ≤ n),
    needs .unknownItem ((lookup table (byteAt f 0)).isSome = true)]

/-- The checks of a row of REMOVE ITEM: length, item kind, number, record, and what the owning block asks of the number. A
row has nothing to do with a frame that names another item kind (log entry 6). -/
def Sys2Proof.Claims.removalConditions {α : Type} {n : Nat} (item : Nat) (f : List Byte) (table : Vector (Option α) n)
    (more : Nat → List Condition) : Option (List Condition) :=
  if f.length = 2 ∧ 1 ≤ byteAt f 0 ∧ byteAt f 0 ≤ 6 ∧ byteAt f 0 ≠ item then none
  else some ([needs .malformed (f.length = 2), needs .range (1 ≤ byteAt f 0 ∧ byteAt f 0 ≤ 6),
    needs .range (1 ≤ byteAt f 1 ∧ byteAt f 1 ≤ n), needs .unknownItem ((lookup table (byteAt f 1)).isSome = true)] ++
    more (byteAt f 1))

/-- The target of a page request is a sign or a group with a number it can have (R145, R146). -/
def Sys2Proof.Claims.TargetInRange (f : List Byte) : Prop :=
  (byteAt f 0 = 0 ∧ 1 ≤ byteAt f 1 ∧ byteAt f 1 ≤ 16) ∨ (byteAt f 0 = 1 ∧ 1 ≤ byteAt f 1 ∧ byteAt f 1 ≤ 8)

/-- A page entry fits a cell: TRANSPARENT or a pictogram up to 31 (R145, R207). -/
def Sys2Proof.Claims.CellEntry (kind n : Nat) : Prop := kind = 0 ∨ (kind = 1 ∧ n ≤ 31)

/-- A page entry fits a line: TRANSPARENT or a text entry (R145, R207). -/
def Sys2Proof.Claims.LineEntry (kind : Nat) : Prop := kind = 0 ∨ kind = 2

/-- The checks of the requests of clock, notices and paths, in their order (R50, R58, R69, R73, R78). -/
def Sys2Proof.Claims.noticeConditions (s : State) : Instr → Option (List Condition)
  | .timeSet _ _ f => some [needs .malformed (f.length = 4), needs .range (longAt f 0 ≤ 4294967294)]
  | .noticePost _ _ f => some [needs .malformed (postedOf f ≠ none),
      needs .noClock (∀ p, postedOf f = some p → PostTimed s p),
      needs .range (∀ p, postedOf f = some p → PostInRange s p),
      needs .full (∀ p, postedOf f = some p → PostRoom s p)]
  | .noticeWithdraw _ _ f => some [needs .malformed (f.length = 2),
      needs .unknownItem (findNotice (wordAt f 0) s.retained.notices ≠ none)]
  | .queryNotices _ _ f => some [needs .malformed (f.length = 1), needs .range (1 ≤ byteAt f 0 ∧ byteAt f 0 ≤ 32)]
  | .definePath _ _ f => some [needs .malformed (f.length = 22),
      needs .range (PathInRange (byteAt f 0) (pathOf f) ∧ 1 ≤ byteAt f 17 ∧ byteAt f 17 ≤ 4),
      needs .unknownItem (AllDefined s.settings.segments (pathOf f).segments)]
  | .removePath _ _ f => removalConditions 1 f s.settings.paths fun _ => []
  | .pathFloor _ _ f => some [needs .malformed (f.length = 3),
      needs .range (1 ≤ byteAt f 0 ∧ byteAt f 0 ≤ 12 ∧ byteAt f 1 ≤ 4 ∧
        (byteAt f 1 = 0 ∨ (1 ≤ byteAt f 2 ∧ byteAt f 2 ≤ 144))),
      needs .unknownItem ((lookup s.settings.paths (byteAt f 0)).isSome = true)]
  | .queryPath _ _ f => some (itemConditions f s.settings.paths)
  | _ => none

/-- The checks of the requests of segments and gates, in their order (R99, R102, R103, R106, R108, R129 to R131). -/
def Sys2Proof.Claims.roadConditions (s : State) : Instr → Option (List Condition)
  | .defineSegment _ _ f => some [needs .malformed (f.length = 4),
      needs .range (1 ≤ byteAt f 0 ∧ byteAt f 0 ≤ 8 ∧ 1 ≤ byteAt f 2 ∧ byteAt f 2 ≤ byteAt f 3 ∧ byteAt f 3 ≤ 4)]
  | .removeSegment _ _ f => removalConditions 2 f s.settings.segments fun k =>
      [needs .conflict ((∀ j q, lookup s.settings.paths j = some q → k ∉ q.segments) ∧
        (∀ j q, lookup s.settings.gates j = some q → q.segment ≠ k) ∧
        (∀ j q, lookup s.settings.signs j = some q → k ∉ q.segments) ∧ ∀ n ∈ s.retained.notices, k ∉ n.segments)]
  | .querySegment _ _ f => some (itemConditions f s.settings.segments)
  | .defineGate _ _ f => some [needs .malformed (f.length = 17),
      needs .range (GateInRange (byteAt f 0) (gateOf f) ∧ 1 ≤ byteAt f 13 ∧ byteAt f 13 ≤ 3),
      needs .unknownItem (GateNamesDefined s.settings (gateOf f)),
      needs .range (ApproachAnnounces s.settings (gateOf f)),
      needs .conflict (GateLinesFree s.settings (byteAt f 0) (gateOf f)),
      needs .inMotion (GateStill s (byteAt f 0))]
  | .removeGate _ _ f => removalConditions 3 f s.settings.gates fun k => [needs .inMotion (GateStill s k)]
  | .gateRaise _ _ f => some (itemConditions f s.settings.gates ++
      [needs .wrongState (∀ g, s.gate (byteAt f 0) = some g → g.position = .down),
        ⟨∀ r, lookup s.settings.gates (byteAt f 0) = some r → s.cif r.segment = false, .interlock, .closure⟩,
        ⟨∀ r q d, lookup s.settings.gates (byteAt f 0) = some r → lookup s.settings.segments r.segment = some q →
          lookup s.segments r.segment = some d → d.hmax < q.permit, .interlock, .hazard⟩])
  | .gateClear _ _ f => some (itemConditions f s.settings.gates ++
      [needs .wrongState (∀ g, s.gate (byteAt f 0) = some g → ∃ cause, g.position = .stopped cause)])
  | .queryGate _ _ f => some (itemConditions f s.settings.gates)
  | _ => none

/-- The checks of the requests of signs, profiles, groups, pages and texts, in their order (R135, R137 to R140, R142, R143,
R145, R146, R161). -/
def Sys2Proof.Claims.signConditions (s : State) : Instr → Option (List Condition)
  | .defineSign _ _ f => some [needs .malformed (8 ≤ f.length ∧ f.length = 8 + byteAt f 7),
      needs .range (∃ r, signOf f = some r ∧ SignInRange (byteAt f 0) r),
      needs .unknownItem (∀ r, signOf f = some r → SignNamesDefined s.settings r),
      needs .conflict (∀ r, signOf f = some r → SignFree s.settings (byteAt f 0) r)]
  | .removeSign _ _ f => removalConditions 4 f s.settings.signs fun k =>
      [needs .conflict (∀ j q, lookup s.settings.gates j = some q → k ∉ q.approach)]
  | .querySign _ _ f => some (itemConditions f s.settings.signs)
  | .defineProfile _ _ f => some [needs .malformed (f.length = 8),
      needs .range (1 ≤ byteAt f 0 ∧ byteAt f 0 ≤ 8 ∧ byteAt f 1 ≤ 1 ∧ 1 ≤ byteAt f 2 ∧ byteAt f 2 ≤ 4 ∧
        byteAt f 3 ≤ 1 ∧ byteAt f 4 ≤ 1 ∧ byteAt f 5 ≤ 1 ∧ 1 ≤ byteAt f 6 ∧ byteAt f 6 ≤ 3 ∧ 1 ≤ byteAt f 7 ∧
        byteAt f 7 ≤ 2)]
  | .removeProfile _ _ f => removalConditions 5 f s.settings.profiles fun k =>
      [needs .conflict (∀ j q, lookup s.settings.signs j = some q → q.profile ≠ k)]
  | .defineGroup _ _ f => some [needs .malformed (2 ≤ f.length ∧ f.length = 2 + byteAt f 1),
      needs .range (1 ≤ byteAt f 0 ∧ byteAt f 0 ≤ 8 ∧ byteAt f 1 ≤ 16 ∧
        (∀ x ∈ bytesAt f 2 (byteAt f 1), 1 ≤ x ∧ x ≤ 16) ∧ (bytesAt f 2 (byteAt f 1)).Nodup),
      needs .unknownItem (AllDefined s.settings.signs (bytesAt f 2 (byteAt f 1)))]
  | .removeGroup _ _ f => removalConditions 6 f s.settings.groups fun _ => []
  | .pageWrite _ _ f => some [needs .malformed (f.length = 12),
      needs .range (TargetInRange f ∧ CellEntry (byteAt f 2) (byteAt f 3) ∧ CellEntry (byteAt f 4) (byteAt f 5) ∧
        LineEntry (byteAt f 6) ∧ LineEntry (byteAt f 8) ∧ LineEntry (byteAt f 10)),
      needs .unknownItem (∃ signs, Targets s.settings f signs)]
  | .pageSwap _ _ f => some [needs .malformed (f.length = 2), needs .range (TargetInRange f),
      needs .unknownItem (∃ signs, Targets s.settings f signs)]
  | .textLoad _ _ f => some [needs .malformed (2 ≤ f.length ∧ textsOf (byteAt f 1) (f.drop 2) ≠ none),
      needs .range (1 ≤ byteAt f 1 ∧ byteAt f 1 ≤ 8 ∧ ∀ ts, textsOf (byteAt f 1) (f.drop 2) = some ts →
        ∀ x ∈ ts, x.length ≤ 20 ∧ ∀ b ∈ x, b.toNat ≤ 63)]
  | .queryText _ _ f => some [needs .malformed (f.length = 2), needs .range (1 ≤ byteAt f 1 ∧ byteAt f 1 ≤ 8)]
  | _ => none

/-- The checks of the requests of the part as a whole: calibration, link, store, restart, status and steps, in their
order (R18, R46, R186, R193, R196, R201). -/
def Sys2Proof.Claims.partConditions (s : State) : Instr → Option (List Condition)
  | .calibrate _ _ f => some [needs .malformed (f.length = 43),
      needs .range (∃ new, calibrationOf f = some new ∧ CalibrationInRange new),
      needs .conflict (∀ new, calibrationOf f = some new → CalibrationFree s.settings new)]
  | .linkSet _ _ f => some [needs .malformed (f.length = 3),
      needs .range (30 ≤ wordAt f 0 ∧ wordAt f 0 ≤ 3600 ∧ byteAt f 2 ≤ 2)]
  | .saveSettings _ _ f => some [needs .malformed (f = [])]
  | .restart _ _ f => some [needs .malformed (f.length = 1), needs .range (byteAt f 0 = 1 ∨ byteAt f 0 = 2)]
  | .queryStatus _ _ f => some [needs .malformed (f = [])]
  | .queryStep _ _ f => some [needs .malformed (f.length = 3), needs .range (byteAt f 0 = 1 ∨ byteAt f 0 = 2),
      needs .unknownItem (∃ r ∈ s.weather.history, byteAt f 0 = 2 → r.number = wordAt f 1)]
  | _ => none

/-- The checks of every request row, in their order; none for a command that is no request, for UNKNOWN_KIND and for a
removal row with a frame of another item kind. -/
def Sys2Proof.Claims.conditions (s : State) (i : Instr) : Option (List Condition) :=
  (noticeConditions s i).or ((roadConditions s i).or ((signConditions s i).or (partConditions s i)))

/-- A request is refused by the first of its checks that is not met, with that check's code and sub-reason, and answered
DONE where every check is met (SAVE SETTINGS when its write has ended). A refused request changes nothing: it leaves the
queue, its REFUSED reply is placed, and no report is queued (R18, R46, R50, R58, R69, R73, R78, R85, R99, R102, R103, R106,
R108, R129 to R131, R135, R137 to R140, R142, R143, R145, R146, R161, R184, R186, R193, R196, R201). That a post's time of
0xFFFFFFFF is out of range, and which row takes a REMOVE ITEM that names no item, is the model's choice (log entries 6
and 14). -/
def Obligations.RequestsRefusedInOrder : Prop :=
  (∀ i kind tag fields s t code sub, i.requestFrame = some (kind, tag :: fields) → Ready s kind tag fields →
    s.Settled → exec i s = .next t → t.line.outbox = s.line.outbox ++ [⟨tag, kind, .refused code sub⟩] →
      t.line.inbound = s.line.inbound.tail ∧ Quiet [.inbound, .outbox] s t) ∧
  ∀ i kind tag fields s checks, i.requestFrame = some (kind, tag :: fields) → Ready s kind tag fields → s.Settled →
    s.GatesWhole → conditions s i = some checks →
      (∀ code sub, FirstUnmet checks (some (code, sub)) →
        ∃ t, exec i s = .next t ∧ Answered s t kind tag (.refused code sub) ∧ Quiet [.inbound, .outbox] s t) ∧
      (FirstUnmet checks none → kind ≠ kindSaveSettings →
        ∃ t result, exec i s = .next t ∧ Answered s t kind tag (.done result))

/-! ## What every step keeps -/

/-- Every step keeps the report buffer within 32 records, the inbound queue within 4 frames and the step history within
36 records, the outbox with at most one reply to a carried-out request and 4 BUSY replies, and no arbiter with a choice
to take or gate with a panel's change to be told (R45, R172, R173, R182, R183, R188). -/
def Obligations.StoresStayBounded : Prop :=
  (∀ s t, s.Bounded → step s = .next t → t.Bounded) ∧
    (∀ s t, s.OutboxInOrder → step s = .next t → t.OutboxInOrder) ∧ ∀ s t, s.Settled → step s = .next t → t.Settled

/-- Every step keeps every path's H within 0 to 10000, L within 0 to 4 and floor within its range, and so E within 0 to 4
(R39, R49, R60); and the bins of every VANE channel summing to the sample instants that have passed (R12). -/
def Obligations.FiguresAndBinsStayInRange : Prop :=
  (∀ s t, s.FiguresInRange → step s = .next t → t.FiguresInRange ∧ ∀ k, (t.figures k).effective ≤ 4) ∧
    ∀ s t, s.VaneCounts → step s = .next t → t.VaneCounts

/-- Every step keeps the Notice List in list order, with no number twice, at most 24 station records and at most one
part-made record per segment, and so within 32 records (R72, R81 to R83). -/
def Obligations.NoticeListStaysInOrder : Prop :=
  ∀ s t, s.NoticesInOrder → s.PartMadeOnce → step s = .next t →
    t.NoticesInOrder ∧ t.PartMadeOnce ∧ t.retained.notices.length ≤ 32

/-- Every step keeps a panel record and pages for exactly the signs that have a record, and every SENDING sign the sign in
transfer on its string: on each string at most one sign is SENDING (R163, R164). -/
def Obligations.OneSignSendingPerString : Prop :=
  ∀ s t, s.SignsWhole → s.SendingHeld → step s = .next t → t.SignsWhole ∧ t.SendingHeld ∧
    ∀ j k a b p q, lookup t.settings.signs j = some a → lookup t.settings.signs k = some b → a.string = b.string →
      t.panel j = some p → t.panel k = some q → p.state = .sending → q.state = .sending → j = k

/-- Every step keeps every line with one owner, and each gate's outputs at the setting of its state, and so never has a
gate's lower and raise outputs both on (R18, R19, R110). -/
def Obligations.LowerAndRaiseNeverBothOn : Prop :=
  ∀ s t, s.TablesOwned → s.OutputsFollow → step s = .next t → t.TablesOwned ∧ t.OutputsFollow ∧ t.NeverBothWays

/-- What a report says of a segment: its state before and after, none for UNDEFINED (R95). -/
def Sys2Proof.Claims.segmentChange (k : Nat) : ReportBody → Option (Option RoadState × Option RoadState)
  | .segment j before after _ _ => if j = k then some (before, after) else none
  | _ => none

/-- What a report says of a gate: its state, with stop cause and raise kind, before and after, none for UNDEFINED
(R132). -/
def Sys2Proof.Claims.gateChange (k : Nat) : ReportBody → Option (Option GatePosition × Option GatePosition)
  | .gate j before after _ _ => if j = k then some (before, after) else none
  | _ => none

/-- The changes that some reports tell of one item lead from a state to another: each begins in the state the one before
it ended in, and is a change. -/
def Sys2Proof.Claims.Leads {α : Type} (change : ReportBody → Option (α × α)) : List ReportBody → α → α → Prop
  | [], first, last => first = last
  | b :: rest, first, last =>
    match change b with
    | none => Leads change rest first last
    | some (before, after) => before = first ∧ before ≠ after ∧ Leads change rest after last

/-- Every step keeps every defined segment's state record what its sources give: governing notices, levels of the paths
that threaten it and states of its entry gates; and, since a gate answers the tells of closure in force, no gate UP
under one or in WARNING without one. The reports that a command queues tell every change of a segment's and of a gate's
state from the one before it to the one after it (R89 to R96, R111 to R113, R132); in what order the gates of several
segments are told is the model's choice (log entry 31), and on it nothing here depends. A start reports no such change
(R104, R133), and with the end of a report frame records leave the buffer. -/
def Obligations.SegmentsFollowSources : Prop :=
  (∀ s t, s.NoticesInOrder → s.PartMadeOnce → s.GatesWhole → s.SegmentsFollow → step s = .next t →
    t.GatesWhole ∧ t.SegmentsFollow ∧ (s.TablesWhole → s.GatesFollow → t.GatesFollow)) ∧
  ∀ i s t, exec i s = .next t → t.powered = true → s.powered = true → s.GatesWhole → s.SegmentsFollow →
    s.TablesWhole → (∀ kept phase, i ≠ .start kept phase) → (∀ m, i ≠ .reportFrameSent m) →
      (∀ m, i = .replySent m → s.line.restartDue = none) →
        ∃ queued, Reported queued (s.withClock t.retained.clock) t ∧ ∀ k,
          Leads (segmentChange k) queued ((lookup s.segments k).map SegmentState.state)
            ((lookup t.segments k).map SegmentState.state) ∧
          Leads (gateChange k) queued ((s.gate k).map GateState.position) ((t.gate k).map GateState.position)

/-- Every step keeps every sign's image what its sources give: identity and claims are those of a composition, and the
slots those of the sign's record; and it keeps the records naming only what is defined. A command that changes the
identity of a sign's image leaves the sign marked (R102, R135, R137, R139, R147, R158 to R160). -/
def Obligations.ImagesFollowSources : Prop :=
  (∀ s t, s.NoticesInOrder → s.PartMadeOnce → s.GatesWhole → s.SegmentsFollow → s.SignsWhole → s.TablesWhole →
    s.ImagesFollow → step s = .next t → t.TablesWhole ∧ t.ImagesFollow) ∧
  ∀ i s t k c d, exec i s = .next t → s.sign k = some c → t.sign k = some d →
    d.image.identity ≠ c.image.identity → d.marked = true

/-- Every step keeps each gate's hold start present exactly while the gate is in WARNING, in LOWERING or in RAISING of
kind OBSTRUCTION and every approach sign agrees. A hold start that a command sets is the present second; and on segments
that follow their sources, as every step keeps them, one that was there is kept, but for a DEFINE GATE of the gate, which
begins it afresh (R107, R109, R111, R114, R115, R120, R122, R123). -/
def Obligations.HoldsFollowAgreement : Prop :=
  (∀ s t, s.GatesWhole → s.TablesWhole → s.HoldsFollow → step s = .next t → t.HoldsFollow) ∧
  ∀ i s t k h start, exec i s = .next t → s.GatesWhole → s.TablesWhole → s.HoldsFollow → t.gate k = some h →
    h.holdStart = some start →
      ((∀ g, s.gate k = some g → g.holdStart = none) → start = t.now / usPerSecond) ∧
      ∀ g old, s.SegmentsFollow → s.gate k = some g → g.holdStart = some old →
        start = old ∨ (start = t.now / usPerSecond ∧ ∃ m tag f, i = .defineGate m tag f ∧ byteAt f 0 = k)

/-- No command brings a gate into LOWERING unless its clear zone is not running and its approach signs have agreed for the
required time; into RAISING of kind REQUESTED unless it is a GATE RAISE for it with no closure in force and Hmax below
the permit level; or into RAISING of kind OBSTRUCTION unless it was LOWERING with fewer than 3 reversals (R110, R117,
R122, R129). -/
def Obligations.BoomMovesOnlyWhenAllowed : Prop :=
  ∀ i s t k h, exec i s = .next t → t.gate k = some h →
    (h.position = .lowering → (∀ g, s.gate k = some g → g.position ≠ .lowering) →
      ∃ r, lookup t.settings.gates k = some r ∧ itemAt t.field.clearZones k = some .idle ∧
        Served t (t.now / usPerSecond) r h) ∧
    (h.position = .raising .requested → (∀ g, s.gate k = some g → g.position ≠ .raising .requested) →
      ∃ m tag f r, i = .gateRaise m tag f ∧ byteAt f 0 = k ∧ lookup s.settings.gates k = some r ∧
        s.cif r.segment = false ∧
        ∀ q d, lookup s.settings.segments r.segment = some q → lookup s.segments r.segment = some d →
          d.hmax < q.permit) ∧
    (h.position = .raising .obstruction → (∀ g, s.gate k = some g → g.position ≠ .raising .obstruction) →
      ∃ g, s.gate k = some g ∧ g.position = .lowering ∧ g.reversals < 3 ∧ h.reversals = g.reversals + 1)
end

