-- ==== Sys2Proof/Laws/State.lean ====
section
/-! SUPPORT. One lemma for each field of State under each update of one block, and under elapse: true by rfl, used
by simp, so that no proof unfolds a record update. -/

namespace Sys2Proof.Laws

open Sys2Proof.Machine

variable (s : State)

/-! ## withField -/

@[simp] theorem withField_pending (x : FieldInterface) : (s.withField x).pending = s.pending := rfl
@[simp] theorem withField_powered (x : FieldInterface) : (s.withField x).powered = s.powered := rfl
@[simp] theorem withField_now (x : FieldInterface) : (s.withField x).now = s.now := rfl
@[simp] theorem withField_field (x : FieldInterface) : (s.withField x).field = x := rfl
@[simp] theorem withField_weather (x : FieldInterface) : (s.withField x).weather = s.weather := rfl
@[simp] theorem withField_retained (x : FieldInterface) : (s.withField x).retained = s.retained := rfl
@[simp] theorem withField_clockNext (x : FieldInterface) : (s.withField x).clockNext = s.clockNext := rfl
@[simp] theorem withField_segments (x : FieldInterface) : (s.withField x).segments = s.segments := rfl
@[simp] theorem withField_gates (x : FieldInterface) : (s.withField x).gates = s.gates := rfl
@[simp] theorem withField_composer (x : FieldInterface) : (s.withField x).composer = s.composer := rfl
@[simp] theorem withField_strings (x : FieldInterface) : (s.withField x).strings = s.strings := rfl
@[simp] theorem withField_line (x : FieldInterface) : (s.withField x).line = s.line := rfl
@[simp] theorem withField_store (x : FieldInterface) : (s.withField x).store = s.store := rfl
@[simp] theorem withField_lastStart (x : FieldInterface) : (s.withField x).lastStart = s.lastStart := rfl
@[simp] theorem withField_schedule (x : FieldInterface) : (s.withField x).schedule = s.schedule := rfl
@[simp] theorem withField_settings (x : FieldInterface) : (s.withField x).settings = s.settings := rfl

/-! ## withWeather -/

@[simp] theorem withWeather_pending (x : WeatherUnit) : (s.withWeather x).pending = s.pending := rfl
@[simp] theorem withWeather_powered (x : WeatherUnit) : (s.withWeather x).powered = s.powered := rfl
@[simp] theorem withWeather_now (x : WeatherUnit) : (s.withWeather x).now = s.now := rfl
@[simp] theorem withWeather_field (x : WeatherUnit) : (s.withWeather x).field = s.field := rfl
@[simp] theorem withWeather_weather (x : WeatherUnit) : (s.withWeather x).weather = x := rfl
@[simp] theorem withWeather_retained (x : WeatherUnit) : (s.withWeather x).retained = s.retained := rfl
@[simp] theorem withWeather_clockNext (x : WeatherUnit) : (s.withWeather x).clockNext = s.clockNext := rfl
@[simp] theorem withWeather_segments (x : WeatherUnit) : (s.withWeather x).segments = s.segments := rfl
@[simp] theorem withWeather_gates (x : WeatherUnit) : (s.withWeather x).gates = s.gates := rfl
@[simp] theorem withWeather_composer (x : WeatherUnit) : (s.withWeather x).composer = s.composer := rfl
@[simp] theorem withWeather_strings (x : WeatherUnit) : (s.withWeather x).strings = s.strings := rfl
@[simp] theorem withWeather_line (x : WeatherUnit) : (s.withWeather x).line = s.line := rfl
@[simp] theorem withWeather_store (x : WeatherUnit) : (s.withWeather x).store = s.store := rfl
@[simp] theorem withWeather_lastStart (x : WeatherUnit) : (s.withWeather x).lastStart = s.lastStart := rfl
@[simp] theorem withWeather_schedule (x : WeatherUnit) : (s.withWeather x).schedule = s.schedule := rfl
@[simp] theorem withWeather_settings (x : WeatherUnit) : (s.withWeather x).settings = s.settings := rfl

/-! ## withRetained -/

@[simp] theorem withRetained_pending (x : Retained) : (s.withRetained x).pending = s.pending := rfl
@[simp] theorem withRetained_powered (x : Retained) : (s.withRetained x).powered = s.powered := rfl
@[simp] theorem withRetained_now (x : Retained) : (s.withRetained x).now = s.now := rfl
@[simp] theorem withRetained_field (x : Retained) : (s.withRetained x).field = s.field := rfl
@[simp] theorem withRetained_weather (x : Retained) : (s.withRetained x).weather = s.weather := rfl
@[simp] theorem withRetained_retained (x : Retained) : (s.withRetained x).retained = x := rfl
@[simp] theorem withRetained_clockNext (x : Retained) : (s.withRetained x).clockNext = s.clockNext := rfl
@[simp] theorem withRetained_segments (x : Retained) : (s.withRetained x).segments = s.segments := rfl
@[simp] theorem withRetained_gates (x : Retained) : (s.withRetained x).gates = s.gates := rfl
@[simp] theorem withRetained_composer (x : Retained) : (s.withRetained x).composer = s.composer := rfl
@[simp] theorem withRetained_strings (x : Retained) : (s.withRetained x).strings = s.strings := rfl
@[simp] theorem withRetained_line (x : Retained) : (s.withRetained x).line = s.line := rfl
@[simp] theorem withRetained_store (x : Retained) : (s.withRetained x).store = s.store := rfl
@[simp] theorem withRetained_lastStart (x : Retained) : (s.withRetained x).lastStart = s.lastStart := rfl
@[simp] theorem withRetained_schedule (x : Retained) : (s.withRetained x).schedule = s.schedule := rfl
@[simp] theorem withRetained_settings (x : Retained) : (s.withRetained x).settings = s.settings := rfl

/-! ## withSegments -/

@[simp] theorem withSegments_pending (x : Vector (Option SegmentState) 8) : (s.withSegments x).pending = s.pending := rfl
@[simp] theorem withSegments_powered (x : Vector (Option SegmentState) 8) : (s.withSegments x).powered = s.powered := rfl
@[simp] theorem withSegments_now (x : Vector (Option SegmentState) 8) : (s.withSegments x).now = s.now := rfl
@[simp] theorem withSegments_field (x : Vector (Option SegmentState) 8) : (s.withSegments x).field = s.field := rfl
@[simp] theorem withSegments_weather (x : Vector (Option SegmentState) 8) : (s.withSegments x).weather = s.weather := rfl
@[simp] theorem withSegments_retained (x : Vector (Option SegmentState) 8) : (s.withSegments x).retained = s.retained := rfl
@[simp] theorem withSegments_clockNext (x : Vector (Option SegmentState) 8) : (s.withSegments x).clockNext = s.clockNext := rfl
@[simp] theorem withSegments_segments (x : Vector (Option SegmentState) 8) : (s.withSegments x).segments = x := rfl
@[simp] theorem withSegments_gates (x : Vector (Option SegmentState) 8) : (s.withSegments x).gates = s.gates := rfl
@[simp] theorem withSegments_composer (x : Vector (Option SegmentState) 8) : (s.withSegments x).composer = s.composer := rfl
@[simp] theorem withSegments_strings (x : Vector (Option SegmentState) 8) : (s.withSegments x).strings = s.strings := rfl
@[simp] theorem withSegments_line (x : Vector (Option SegmentState) 8) : (s.withSegments x).line = s.line := rfl
@[simp] theorem withSegments_store (x : Vector (Option SegmentState) 8) : (s.withSegments x).store = s.store := rfl
@[simp] theorem withSegments_lastStart (x : Vector (Option SegmentState) 8) : (s.withSegments x).lastStart = s.lastStart := rfl
@[simp] theorem withSegments_schedule (x : Vector (Option SegmentState) 8) : (s.withSegments x).schedule = s.schedule := rfl
@[simp] theorem withSegments_settings (x : Vector (Option SegmentState) 8) : (s.withSegments x).settings = s.settings := rfl

/-! ## withGates -/

@[simp] theorem withGates_pending (x : Vector (Option GateState) 8) : (s.withGates x).pending = s.pending := rfl
@[simp] theorem withGates_powered (x : Vector (Option GateState) 8) : (s.withGates x).powered = s.powered := rfl
@[simp] theorem withGates_now (x : Vector (Option GateState) 8) : (s.withGates x).now = s.now := rfl
@[simp] theorem withGates_field (x : Vector (Option GateState) 8) : (s.withGates x).field = s.field := rfl
@[simp] theorem withGates_weather (x : Vector (Option GateState) 8) : (s.withGates x).weather = s.weather := rfl
@[simp] theorem withGates_retained (x : Vector (Option GateState) 8) : (s.withGates x).retained = s.retained := rfl
@[simp] theorem withGates_clockNext (x : Vector (Option GateState) 8) : (s.withGates x).clockNext = s.clockNext := rfl
@[simp] theorem withGates_segments (x : Vector (Option GateState) 8) : (s.withGates x).segments = s.segments := rfl
@[simp] theorem withGates_gates (x : Vector (Option GateState) 8) : (s.withGates x).gates = x := rfl
@[simp] theorem withGates_composer (x : Vector (Option GateState) 8) : (s.withGates x).composer = s.composer := rfl
@[simp] theorem withGates_strings (x : Vector (Option GateState) 8) : (s.withGates x).strings = s.strings := rfl
@[simp] theorem withGates_line (x : Vector (Option GateState) 8) : (s.withGates x).line = s.line := rfl
@[simp] theorem withGates_store (x : Vector (Option GateState) 8) : (s.withGates x).store = s.store := rfl
@[simp] theorem withGates_lastStart (x : Vector (Option GateState) 8) : (s.withGates x).lastStart = s.lastStart := rfl
@[simp] theorem withGates_schedule (x : Vector (Option GateState) 8) : (s.withGates x).schedule = s.schedule := rfl
@[simp] theorem withGates_settings (x : Vector (Option GateState) 8) : (s.withGates x).settings = s.settings := rfl

/-! ## withComposer -/

@[simp] theorem withComposer_pending (x : SignComposer) : (s.withComposer x).pending = s.pending := rfl
@[simp] theorem withComposer_powered (x : SignComposer) : (s.withComposer x).powered = s.powered := rfl
@[simp] theorem withComposer_now (x : SignComposer) : (s.withComposer x).now = s.now := rfl
@[simp] theorem withComposer_field (x : SignComposer) : (s.withComposer x).field = s.field := rfl
@[simp] theorem withComposer_weather (x : SignComposer) : (s.withComposer x).weather = s.weather := rfl
@[simp] theorem withComposer_retained (x : SignComposer) : (s.withComposer x).retained = s.retained := rfl
@[simp] theorem withComposer_clockNext (x : SignComposer) : (s.withComposer x).clockNext = s.clockNext := rfl
@[simp] theorem withComposer_segments (x : SignComposer) : (s.withComposer x).segments = s.segments := rfl
@[simp] theorem withComposer_gates (x : SignComposer) : (s.withComposer x).gates = s.gates := rfl
@[simp] theorem withComposer_composer (x : SignComposer) : (s.withComposer x).composer = x := rfl
@[simp] theorem withComposer_strings (x : SignComposer) : (s.withComposer x).strings = s.strings := rfl
@[simp] theorem withComposer_line (x : SignComposer) : (s.withComposer x).line = s.line := rfl
@[simp] theorem withComposer_store (x : SignComposer) : (s.withComposer x).store = s.store := rfl
@[simp] theorem withComposer_lastStart (x : SignComposer) : (s.withComposer x).lastStart = s.lastStart := rfl
@[simp] theorem withComposer_schedule (x : SignComposer) : (s.withComposer x).schedule = s.schedule := rfl
@[simp] theorem withComposer_settings (x : SignComposer) : (s.withComposer x).settings = s.settings := rfl

/-! ## withStrings -/

@[simp] theorem withStrings_pending (x : StringController) : (s.withStrings x).pending = s.pending := rfl
@[simp] theorem withStrings_powered (x : StringController) : (s.withStrings x).powered = s.powered := rfl
@[simp] theorem withStrings_now (x : StringController) : (s.withStrings x).now = s.now := rfl
@[simp] theorem withStrings_field (x : StringController) : (s.withStrings x).field = s.field := rfl
@[simp] theorem withStrings_weather (x : StringController) : (s.withStrings x).weather = s.weather := rfl
@[simp] theorem withStrings_retained (x : StringController) : (s.withStrings x).retained = s.retained := rfl
@[simp] theorem withStrings_clockNext (x : StringController) : (s.withStrings x).clockNext = s.clockNext := rfl
@[simp] theorem withStrings_segments (x : StringController) : (s.withStrings x).segments = s.segments := rfl
@[simp] theorem withStrings_gates (x : StringController) : (s.withStrings x).gates = s.gates := rfl
@[simp] theorem withStrings_composer (x : StringController) : (s.withStrings x).composer = s.composer := rfl
@[simp] theorem withStrings_strings (x : StringController) : (s.withStrings x).strings = x := rfl
@[simp] theorem withStrings_line (x : StringController) : (s.withStrings x).line = s.line := rfl
@[simp] theorem withStrings_store (x : StringController) : (s.withStrings x).store = s.store := rfl
@[simp] theorem withStrings_lastStart (x : StringController) : (s.withStrings x).lastStart = s.lastStart := rfl
@[simp] theorem withStrings_schedule (x : StringController) : (s.withStrings x).schedule = s.schedule := rfl
@[simp] theorem withStrings_settings (x : StringController) : (s.withStrings x).settings = s.settings := rfl

/-! ## withLine -/

@[simp] theorem withLine_pending (x : StationLine) : (s.withLine x).pending = s.pending := rfl
@[simp] theorem withLine_powered (x : StationLine) : (s.withLine x).powered = s.powered := rfl
@[simp] theorem withLine_now (x : StationLine) : (s.withLine x).now = s.now := rfl
@[simp] theorem withLine_field (x : StationLine) : (s.withLine x).field = s.field := rfl
@[simp] theorem withLine_weather (x : StationLine) : (s.withLine x).weather = s.weather := rfl
@[simp] theorem withLine_retained (x : StationLine) : (s.withLine x).retained = s.retained := rfl
@[simp] theorem withLine_clockNext (x : StationLine) : (s.withLine x).clockNext = s.clockNext := rfl
@[simp] theorem withLine_segments (x : StationLine) : (s.withLine x).segments = s.segments := rfl
@[simp] theorem withLine_gates (x : StationLine) : (s.withLine x).gates = s.gates := rfl
@[simp] theorem withLine_composer (x : StationLine) : (s.withLine x).composer = s.composer := rfl
@[simp] theorem withLine_strings (x : StationLine) : (s.withLine x).strings = s.strings := rfl
@[simp] theorem withLine_line (x : StationLine) : (s.withLine x).line = x := rfl
@[simp] theorem withLine_store (x : StationLine) : (s.withLine x).store = s.store := rfl
@[simp] theorem withLine_lastStart (x : StationLine) : (s.withLine x).lastStart = s.lastStart := rfl
@[simp] theorem withLine_schedule (x : StationLine) : (s.withLine x).schedule = s.schedule := rfl
@[simp] theorem withLine_settings (x : StationLine) : (s.withLine x).settings = s.settings := rfl

/-! ## withStore -/

@[simp] theorem withStore_pending (x : SettingsStore) : (s.withStore x).pending = s.pending := rfl
@[simp] theorem withStore_powered (x : SettingsStore) : (s.withStore x).powered = s.powered := rfl
@[simp] theorem withStore_now (x : SettingsStore) : (s.withStore x).now = s.now := rfl
@[simp] theorem withStore_field (x : SettingsStore) : (s.withStore x).field = s.field := rfl
@[simp] theorem withStore_weather (x : SettingsStore) : (s.withStore x).weather = s.weather := rfl
@[simp] theorem withStore_retained (x : SettingsStore) : (s.withStore x).retained = s.retained := rfl
@[simp] theorem withStore_clockNext (x : SettingsStore) : (s.withStore x).clockNext = s.clockNext := rfl
@[simp] theorem withStore_segments (x : SettingsStore) : (s.withStore x).segments = s.segments := rfl
@[simp] theorem withStore_gates (x : SettingsStore) : (s.withStore x).gates = s.gates := rfl
@[simp] theorem withStore_composer (x : SettingsStore) : (s.withStore x).composer = s.composer := rfl
@[simp] theorem withStore_strings (x : SettingsStore) : (s.withStore x).strings = s.strings := rfl
@[simp] theorem withStore_line (x : SettingsStore) : (s.withStore x).line = s.line := rfl
@[simp] theorem withStore_store (x : SettingsStore) : (s.withStore x).store = x := rfl
@[simp] theorem withStore_lastStart (x : SettingsStore) : (s.withStore x).lastStart = s.lastStart := rfl
@[simp] theorem withStore_schedule (x : SettingsStore) : (s.withStore x).schedule = s.schedule := rfl
@[simp] theorem withStore_settings (x : SettingsStore) : (s.withStore x).settings = x.working := rfl

/-! ## withSchedule -/

@[simp] theorem withSchedule_pending (x : Nat) : (s.withSchedule x).pending = s.pending := rfl
@[simp] theorem withSchedule_powered (x : Nat) : (s.withSchedule x).powered = s.powered := rfl
@[simp] theorem withSchedule_now (x : Nat) : (s.withSchedule x).now = s.now := rfl
@[simp] theorem withSchedule_field (x : Nat) : (s.withSchedule x).field = s.field := rfl
@[simp] theorem withSchedule_weather (x : Nat) : (s.withSchedule x).weather = s.weather := rfl
@[simp] theorem withSchedule_retained (x : Nat) : (s.withSchedule x).retained = s.retained := rfl
@[simp] theorem withSchedule_clockNext (x : Nat) : (s.withSchedule x).clockNext = s.clockNext := rfl
@[simp] theorem withSchedule_segments (x : Nat) : (s.withSchedule x).segments = s.segments := rfl
@[simp] theorem withSchedule_gates (x : Nat) : (s.withSchedule x).gates = s.gates := rfl
@[simp] theorem withSchedule_composer (x : Nat) : (s.withSchedule x).composer = s.composer := rfl
@[simp] theorem withSchedule_strings (x : Nat) : (s.withSchedule x).strings = s.strings := rfl
@[simp] theorem withSchedule_line (x : Nat) : (s.withSchedule x).line = s.line := rfl
@[simp] theorem withSchedule_store (x : Nat) : (s.withSchedule x).store = s.store := rfl
@[simp] theorem withSchedule_lastStart (x : Nat) : (s.withSchedule x).lastStart = s.lastStart := rfl
@[simp] theorem withSchedule_schedule (x : Nat) : (s.withSchedule x).schedule = x := rfl
@[simp] theorem withSchedule_settings (x : Nat) : (s.withSchedule x).settings = s.settings := rfl

/-! ## withSettings and elapse -/

@[simp] theorem withSettings_settings (c : Settings) : (s.withSettings c).settings = c := rfl
@[simp] theorem withSettings_pending (c : Settings) : (s.withSettings c).pending = s.pending := rfl
@[simp] theorem withSettings_powered (c : Settings) : (s.withSettings c).powered = s.powered := rfl
@[simp] theorem withSettings_now (c : Settings) : (s.withSettings c).now = s.now := rfl
@[simp] theorem withSettings_field (c : Settings) : (s.withSettings c).field = s.field := rfl
@[simp] theorem withSettings_weather (c : Settings) : (s.withSettings c).weather = s.weather := rfl
@[simp] theorem withSettings_retained (c : Settings) : (s.withSettings c).retained = s.retained := rfl
@[simp] theorem withSettings_clockNext (c : Settings) : (s.withSettings c).clockNext = s.clockNext := rfl
@[simp] theorem withSettings_segments (c : Settings) : (s.withSettings c).segments = s.segments := rfl
@[simp] theorem withSettings_gates (c : Settings) : (s.withSettings c).gates = s.gates := rfl
@[simp] theorem withSettings_composer (c : Settings) : (s.withSettings c).composer = s.composer := rfl
@[simp] theorem withSettings_strings (c : Settings) : (s.withSettings c).strings = s.strings := rfl
@[simp] theorem withSettings_line (c : Settings) : (s.withSettings c).line = s.line := rfl
@[simp] theorem withSettings_lastStart (c : Settings) : (s.withSettings c).lastStart = s.lastStart := rfl
@[simp] theorem withSettings_schedule (c : Settings) : (s.withSettings c).schedule = s.schedule := rfl
@[simp] theorem withSettings_saved (c : Settings) : (s.withSettings c).store.saved = s.store.saved := rfl
@[simp] theorem withSettings_write (c : Settings) : (s.withSettings c).store.write = s.store.write := rfl
@[simp] theorem withSettings_writes (c : Settings) : (s.withSettings c).store.writes = s.store.writes := rfl
@[simp] theorem elapse_now (t : Moment) : (s.elapse t).now = max s.now t := rfl
@[simp] theorem elapse_settings (t : Moment) : (s.elapse t).settings = s.settings := rfl
@[simp] theorem elapse_pending (t : Moment) : (s.elapse t).pending = s.pending := rfl
@[simp] theorem elapse_powered (t : Moment) : (s.elapse t).powered = s.powered := rfl
@[simp] theorem elapse_field (t : Moment) : (s.elapse t).field = s.field := rfl
@[simp] theorem elapse_weather (t : Moment) : (s.elapse t).weather = s.weather := rfl
@[simp] theorem elapse_retained (t : Moment) : (s.elapse t).retained = s.retained := rfl
@[simp] theorem elapse_clockNext (t : Moment) : (s.elapse t).clockNext = s.clockNext := rfl
@[simp] theorem elapse_segments (t : Moment) : (s.elapse t).segments = s.segments := rfl
@[simp] theorem elapse_gates (t : Moment) : (s.elapse t).gates = s.gates := rfl
@[simp] theorem elapse_composer (t : Moment) : (s.elapse t).composer = s.composer := rfl
@[simp] theorem elapse_strings (t : Moment) : (s.elapse t).strings = s.strings := rfl
@[simp] theorem elapse_line (t : Moment) : (s.elapse t).line = s.line := rfl
@[simp] theorem elapse_store (t : Moment) : (s.elapse t).store = s.store := rfl
@[simp] theorem elapse_lastStart (t : Moment) : (s.elapse t).lastStart = s.lastStart := rfl
@[simp] theorem elapse_schedule (t : Moment) : (s.elapse t).schedule = s.schedule := rfl

end Sys2Proof.Laws
end

