-- ==== Sys2Proof/Laws/Line.lean ====
section
/-! SUPPORT. What the operations of the Station Line Controller can do: joining the queue, placing a reply, beginning
a frame (R182, R183, R189, R190). -/

namespace Sys2Proof.Laws

open Sys2Proof Sys2Proof.Machine

/-! ## Transmitter (R189, R190) -/

/-- Marking the first records for a frame changes no record and no number of records. -/
theorem beginReports_buffer (s : State) :
    (s.beginReports).line.buffer.map Buffered.record = s.line.buffer.map Buffered.record := by
  show ((s.line.buffer.take Config.frameRecords).map (fun (r : Buffered) => { r with inFrame := true }) ++
      s.line.buffer.drop Config.frameRecords).map Buffered.record = s.line.buffer.map Buffered.record
  rw [List.map_append, List.map_map]
  show ((s.line.buffer.take Config.frameRecords).map Buffered.record) ++
      ((s.line.buffer.drop Config.frameRecords).map Buffered.record) = _
  rw [← List.map_append, List.take_append_drop]

/-- A state that differs from another in transmitter and frame marks alone. -/
def Transmits (s t : State) : Prop :=
  ∃ tr buf, t = s.withLine { s.line with transmitter := tr, buffer := buf } ∧
    buf.map Buffered.record = s.line.buffer.map Buffered.record

theorem Transmits.refl (s : State) : Transmits s s := ⟨s.line.transmitter, s.line.buffer, rfl, rfl⟩

/-- Beginning a report frame changes transmitter and marks alone. -/
theorem beginReports_transmits (s : State) : Transmits s s.beginReports := ⟨_, _, rfl, beginReports_buffer s⟩

/-- A kick changes transmitter and marks alone. -/
theorem kick_transmits (s : State) : Transmits s s.kick := by
  unfold State.kick
  split
  · exact .refl s
  · exact .refl s
  · split
    · exact ⟨.sendingReply, s.line.buffer, rfl, rfl⟩
    · split
      · exact beginReports_transmits s
      · exact .refl s

/-- A transmitter that is sending goes on sending. -/
theorem kick_of_sending (s : State) (h : s.line.transmitter ≠ .free) : s.kick = s := by
  unfold State.kick
  split
  · rfl
  · rfl
  · rename_i hf
    exact absurd hf h

/-- A FREE transmitter begins the oldest reply that waits. -/
theorem kick_of_reply (s : State) (h : s.line.transmitter = .free) (ho : s.line.outbox ≠ []) :
    s.kick = s.withLine { s.line with transmitter := .sendingReply } := by
  unfold State.kick
  rw [h]
  cases hb : s.line.outbox with
  | nil => exact absurd hb ho
  | cons r rest => rfl

/-- What placing a reply does: it stands last in the outbox; besides that only transmitter, marks and a free order
choice can change. -/
theorem placeReply_eq (s : State) (r : Reply) :
    ∃ tr buf sch, s.placeReply r =
        (s.withSchedule sch).withLine
          { s.line with outbox := s.line.outbox ++ [r], transmitter := tr, buffer := buf } ∧
      buf.map Buffered.record = s.line.buffer.map Buffered.record := by
  unfold State.placeReply
  split
  · dsimp only
    split
    · exact ⟨_, _, s.schedule / 2, rfl, beginReports_buffer s.choiceTaken⟩
    · exact ⟨s.line.transmitter, s.line.buffer, s.schedule / 2, rfl, rfl⟩
  · exact ⟨s.line.transmitter, s.line.buffer, s.schedule, rfl, rfl⟩

/-! ## Queue (R182) -/

/-- A frame joining a queue with room stands at its newest end and places no reply. -/
theorem joinQueue_of_room (s : State) (f : Frame) (h : s.line.inbound.length < 4) :
    s.joinQueue f = s.withLine { s.line with inbound := s.line.inbound ++ [f] } := by
  have h' : s.line.inbound.length < Config.queueSize := h
  simp [State.joinQueue, h']

/-- A frame that finds a full queue and fewer than 4 BUSY replies waiting is refused BUSY. -/
theorem joinQueue_of_full (s : State) (f : Frame) (h : 4 ≤ s.line.inbound.length)
    (hb : (s.line.outbox.filter Reply.isBusy).length < 4) : s.joinQueue f = s.placeReply f.busyReply := by
  have h' : ¬ s.line.inbound.length < Config.queueSize := Nat.not_lt.mpr h
  have hb' : (s.line.outbox.filter Reply.isBusy).length < Config.queueSize := hb
  simp [State.joinQueue, h', hb']

/-- A frame that finds a full queue and 4 BUSY replies waiting is dropped. -/
theorem joinQueue_of_overfull (s : State) (f : Frame) (h : 4 ≤ s.line.inbound.length)
    (hb : 4 ≤ (s.line.outbox.filter Reply.isBusy).length) : s.joinQueue f = s := by
  have h' : ¬ s.line.inbound.length < Config.queueSize := Nat.not_lt.mpr h
  have hb' : ¬ (s.line.outbox.filter Reply.isBusy).length < Config.queueSize := Nat.not_lt.mpr hb
  simp [State.joinQueue, h', hb']

/-- All that a joining frame can do: the queue gains it or stays, the outbox gains its BUSY reply or stays; besides
that only transmitter, marks and a free order choice can change. -/
theorem joinQueue_eq (s : State) (f : Frame) :
    ∃ inb out tr buf sch, s.joinQueue f =
        (s.withSchedule sch).withLine
          { s.line with inbound := inb, outbox := out, transmitter := tr, buffer := buf } ∧
      buf.map Buffered.record = s.line.buffer.map Buffered.record ∧
      ((inb = s.line.inbound ++ [f] ∧ s.line.inbound.length < 4 ∧ out = s.line.outbox) ∨
        (inb = s.line.inbound ∧ (out = s.line.outbox ∨
          (out = s.line.outbox ++ [f.busyReply] ∧ (s.line.outbox.filter Reply.isBusy).length < 4)))) := by
  by_cases h : s.line.inbound.length < 4
  · exact ⟨_, s.line.outbox, s.line.transmitter, s.line.buffer, s.schedule, joinQueue_of_room s f h, rfl,
      .inl ⟨rfl, h, rfl⟩⟩
  · by_cases hb : (s.line.outbox.filter Reply.isBusy).length < 4
    · obtain ⟨tr, buf, sch, he, hr⟩ := placeReply_eq s f.busyReply
      exact ⟨s.line.inbound, _, tr, buf, sch, (joinQueue_of_full s f (Nat.not_lt.mp h) hb).trans he, hr,
        .inr ⟨rfl, .inr ⟨rfl, hb⟩⟩⟩
    · exact ⟨s.line.inbound, s.line.outbox, s.line.transmitter, s.line.buffer, s.schedule,
        joinQueue_of_overfull s f (Nat.not_lt.mp h) (Nat.not_lt.mp hb), rfl, .inr ⟨rfl, .inl rfl⟩⟩

/-- A frame joining leaves at most 4 frames in a queue that held at most 4. -/
theorem joinQueue_inbound_le (s : State) (f : Frame) (h : s.line.inbound.length ≤ 4) :
    (s.joinQueue f).line.inbound.length ≤ 4 := by
  obtain ⟨inb, out, tr, buf, sch, he, -, hq⟩ := joinQueue_eq s f
  rw [he]
  show inb.length ≤ 4
  obtain ⟨rfl, hlt, -⟩ | ⟨rfl, -⟩ := hq
  · simpa using hlt
  · exact h

end Sys2Proof.Laws
end

