-- ==== Sys2Proof/Laws/Reports.lean ====
section
/-! SUPPORT. What queueing report records does (R187, R188): the length of the buffer, the sequence number, and the
rest of the state, which stays. -/

namespace Sys2Proof.Laws

open Sys2Proof Sys2Proof.Machine

/-! ## The buffer (R188) -/

/-- Discarding takes exactly one record from a buffer that holds any. -/
theorem discardOne_length (b : List Buffered) (h : b ≠ []) : (discardOne b).length + 1 = b.length := by
  have hpos : 0 < b.length := List.length_pos_iff.mpr h
  unfold discardOne
  split
  · rename_i hany
    obtain ⟨x, hx, hw⟩ := List.any_eq_true.mp hany
    rw [List.length_eraseP_of_mem hx hw]
    omega
  · rw [List.length_drop]
    omega

/-- A record joining keeps the buffer within 32 records. -/
theorem joinBuffer_length_le (b : List Buffered) (r : Buffered) (h : b.length ≤ 32) :
    (joinBuffer b r).length ≤ 32 := by
  unfold joinBuffer
  rw [List.length_append, List.length_singleton]
  split
  · rename_i hlt
    have : b.length < 32 := hlt
    omega
  · rename_i hge
    have hb : b ≠ [] := by
      intro h0
      subst h0
      exact hge (by decide)
    have := discardOne_length b hb
    omega

/-- A record joins a buffer with room at its newest end. -/
theorem joinBuffer_of_lt (b : List Buffered) (r : Buffered) (h : b.length < 32) : joinBuffer b r = b ++ [r] := by
  have h' : b.length < Config.bufferSize := h
  simp [joinBuffer, h']

/-! ## One report (R187) -/

section
variable (s : State) (b : ReportBody)

@[simp] theorem report_pending : (s.report b).pending = s.pending := rfl
@[simp] theorem report_powered : (s.report b).powered = s.powered := rfl
@[simp] theorem report_now : (s.report b).now = s.now := rfl
@[simp] theorem report_field : (s.report b).field = s.field := rfl
@[simp] theorem report_weather : (s.report b).weather = s.weather := rfl
@[simp] theorem report_retained : (s.report b).retained = s.retained := rfl
@[simp] theorem report_clockNext : (s.report b).clockNext = s.clockNext := rfl
@[simp] theorem report_segments : (s.report b).segments = s.segments := rfl
@[simp] theorem report_gates : (s.report b).gates = s.gates := rfl
@[simp] theorem report_composer : (s.report b).composer = s.composer := rfl
@[simp] theorem report_strings : (s.report b).strings = s.strings := rfl
@[simp] theorem report_store : (s.report b).store = s.store := rfl
@[simp] theorem report_settings : (s.report b).settings = s.settings := rfl
@[simp] theorem report_lastStart : (s.report b).lastStart = s.lastStart := rfl
@[simp] theorem report_schedule : (s.report b).schedule = s.schedule := rfl

/-- What a report does to the line: the record joins the buffer and the sequence number counts on. -/
theorem report_line :
    (s.report b).line =
      { s.line with
        buffer := joinBuffer s.line.buffer ⟨⟨s.line.nextSequence, s.retained.clock, b⟩, s.now, false⟩
        nextSequence := (s.line.nextSequence + 1) % 65536 } := rfl

end

/-! ## Several reports -/

@[simp] theorem reports_nil (s : State) : s.reports [] = s := rfl

@[simp] theorem reports_cons (s : State) (b : ReportBody) (bs : List ReportBody) :
    s.reports (b :: bs) = (s.report b).reports bs := rfl

theorem reports_append (s : State) (bs cs : List ReportBody) : s.reports (bs ++ cs) = (s.reports bs).reports cs := by
  simp [State.reports, List.foldl_append]

/-- Several reports change only the line. -/
theorem reports_eq_withLine (bs : List ReportBody) (s : State) : s.reports bs = s.withLine (s.reports bs).line := by
  induction bs generalizing s with
  | nil => rfl
  | cons b bs ih =>
    rw [reports_cons, ih (s.report b)]
    rfl

/-- What several reports do to the line depends on the line, the clock and the moment alone. -/
theorem reports_line_congr (bs : List ReportBody) (s t : State) (hl : s.line = t.line)
    (hc : s.retained.clock = t.retained.clock) (hn : s.now = t.now) : (s.reports bs).line = (t.reports bs).line := by
  induction bs generalizing s t with
  | nil => exact hl
  | cons b bs ih =>
    rw [reports_cons, reports_cons]
    refine ih _ _ ?_ hc hn
    rw [report_line, report_line, hl, hc, hn]

/-- Of the line, several reports change buffer and sequence number alone. -/
theorem reports_line (bs : List ReportBody) (s : State) :
    (s.reports bs).line =
      { s.line with
        buffer := (s.reports bs).line.buffer
        nextSequence := (s.reports bs).line.nextSequence } := by
  induction bs generalizing s with
  | nil => rfl
  | cons b bs ih =>
    rw [reports_cons, ih (s.report b)]
    rfl

/-- Reports keep the buffer within 32 records. -/
theorem reports_buffer_le (bs : List ReportBody) (s : State) (h : s.line.buffer.length ≤ 32) :
    (s.reports bs).line.buffer.length ≤ 32 := by
  induction bs generalizing s with
  | nil => exact h
  | cons b bs ih => exact ih _ (joinBuffer_length_le _ _ h)

end Sys2Proof.Laws
end

