-- ==== Sys2Proof/Laws/Reaction.lean ====
section
/-! SUPPORT. The reactions of the blocks to each other. Composing, granting, re-deriving, moving a gate, handing over
and settling all do the same kind of thing: they leave time, settings, retained state, weather and the incoming side of
the lines as they were, and on the station line they queue reports and nothing else. `Reaction` says that once; every
shared operation has its lemma, which later proofs cite instead of unfolding the operation. -/

namespace Sys2Proof.Laws

open Sys2Proof Sys2Proof.Machine

/-- What a reaction leaves as it was, besides the station line. -/
structure Still where
  pending : List Instr
  powered : Bool
  now : Moment
  lines : Vector Bool 16
  inputs : Vector InputState 16
  channels : Vector ChannelTotals 6
  clearZones : Vector ClearZone 8
  weather : WeatherUnit
  retained : Retained
  clockNext : Moment
  temp : TempReadout
  wind : Option Nat
  store : SettingsStore
  lastStart : StartKind

/-- The still part of a state. -/
def still (s : State) : Still :=
  ⟨s.pending, s.powered, s.now, s.field.lines, s.field.inputs, s.field.channels, s.field.clearZones, s.weather,
    s.retained, s.clockNext, s.composer.temp, s.composer.wind, s.store, s.lastStart⟩

/-- A reaction leaves the still part as it was and does nothing to the line but queue reports. -/
def Reaction (s t : State) : Prop := still t = still s ∧ ∃ bs, t.line = (s.reports bs).line

theorem Reaction.refl (s : State) : Reaction s s := ⟨rfl, [], rfl⟩

theorem Reaction.trans {s t u : State} (h : Reaction s t) (k : Reaction t u) : Reaction s u := by
  obtain ⟨h1, bs, h2⟩ := h
  obtain ⟨k1, cs, k2⟩ := k
  refine ⟨k1.trans h1, bs ++ cs, ?_⟩
  rw [k2, reports_append]
  have hr : t.retained.clock = s.retained.clock := congrArg (fun x => x.retained.clock) h1
  have hn : t.now = s.now := congrArg Still.now h1
  refine reports_line_congr cs _ _ h2 ?_ ?_
  · rw [hr, reports_eq_withLine bs s]
    rfl
  · rw [hn, reports_eq_withLine bs s]
    rfl

/-! ## What a reaction says of each part -/

section
variable {s t : State} (h : Reaction s t)
include h

theorem Reaction.pending : t.pending = s.pending := congrArg Still.pending h.1
theorem Reaction.powered : t.powered = s.powered := congrArg Still.powered h.1
theorem Reaction.now : t.now = s.now := congrArg Still.now h.1
theorem Reaction.lines : t.field.lines = s.field.lines := congrArg Still.lines h.1
theorem Reaction.inputs : t.field.inputs = s.field.inputs := congrArg Still.inputs h.1
theorem Reaction.channels : t.field.channels = s.field.channels := congrArg Still.channels h.1
theorem Reaction.clearZones : t.field.clearZones = s.field.clearZones := congrArg Still.clearZones h.1
theorem Reaction.weather : t.weather = s.weather := congrArg Still.weather h.1
theorem Reaction.retained : t.retained = s.retained := congrArg Still.retained h.1
theorem Reaction.clockNext : t.clockNext = s.clockNext := congrArg Still.clockNext h.1
theorem Reaction.temp : t.composer.temp = s.composer.temp := congrArg Still.temp h.1
theorem Reaction.wind : t.composer.wind = s.composer.wind := congrArg Still.wind h.1
theorem Reaction.store : t.store = s.store := congrArg Still.store h.1
theorem Reaction.settings : t.settings = s.settings := congrArg (fun x => x.store.working) h.1
theorem Reaction.lastStart : t.lastStart = s.lastStart := congrArg Still.lastStart h.1

/-- The line after a reaction is the line before it but for buffer and sequence number. -/
theorem Reaction.line :
    t.line = { s.line with buffer := t.line.buffer, nextSequence := t.line.nextSequence } := by
  obtain ⟨_, bs, hb⟩ := h
  rw [hb]
  exact reports_line bs s

theorem Reaction.receiver : t.line.receiver = s.line.receiver := by rw [h.line]
theorem Reaction.lastByte : t.line.lastByte = s.line.lastByte := by rw [h.line]
theorem Reaction.inbound : t.line.inbound = s.line.inbound := by rw [h.line]
theorem Reaction.carrying : t.line.carrying = s.line.carrying := by rw [h.line]
theorem Reaction.restartDue : t.line.restartDue = s.line.restartDue := by rw [h.line]
theorem Reaction.outbox : t.line.outbox = s.line.outbox := by rw [h.line]
theorem Reaction.transmitter : t.line.transmitter = s.line.transmitter := by rw [h.line]
theorem Reaction.lastValid : t.line.lastValid = s.line.lastValid := by rw [h.line]
theorem Reaction.attended : t.line.attended = s.line.attended := by rw [h.line]

/-- A reaction keeps the report buffer within 32 records. -/
theorem Reaction.buffer_le (hb : s.line.buffer.length ≤ 32) : t.line.buffer.length ≤ 32 := by
  obtain ⟨_, bs, hl⟩ := h
  rw [hl]
  exact reports_buffer_le bs s hb

end

/-- A fold of reactions is a reaction. -/
theorem Reaction.foldl {α : Type} {f : State → α → State} (hf : ∀ s x, Reaction s (f s x)) (xs : List α) (s : State) :
    Reaction s (xs.foldl f s) := by
  induction xs generalizing s with
  | nil => exact .refl s
  | cons x xs ih => exact (hf s x).trans (ih _)

/-! ## Reports and single-block updates -/

theorem reaction_report (s : State) (b : ReportBody) : Reaction s (s.report b) := ⟨rfl, [b], rfl⟩

theorem reaction_reports (s : State) (bs : List ReportBody) : Reaction s (s.reports bs) := by
  refine ⟨?_, bs, rfl⟩
  rw [reports_eq_withLine bs s]
  rfl

theorem reaction_withSegments (s : State) (x : Vector (Option SegmentState) 8) : Reaction s (s.withSegments x) :=
  ⟨rfl, [], rfl⟩
theorem reaction_withGate (s : State) (k : Nat) (g : Option GateState) : Reaction s (s.withGate k g) := ⟨rfl, [], rfl⟩
theorem reaction_withSign (s : State) (k : Nat) (x : Option SignState) : Reaction s (s.withSign k x) := ⟨rfl, [], rfl⟩
theorem reaction_withStrings (s : State) (x : StringController) : Reaction s (s.withStrings x) := ⟨rfl, [], rfl⟩
theorem reaction_withPanel (s : State) (k : Nat) (p : Option PanelRecord) : Reaction s (s.withPanel k p) :=
  ⟨rfl, [], rfl⟩
theorem reaction_withSchedule (s : State) (x : Nat) : Reaction s (s.withSchedule x) := ⟨rfl, [], rfl⟩
theorem reaction_choiceTaken (s : State) : Reaction s s.choiceTaken := ⟨rfl, [], rfl⟩
theorem reaction_applyOrder (s : State) (o : List (Nat × Bool)) : Reaction s (s.applyOrder o) := ⟨rfl, [], rfl⟩

theorem reaction_withTransfer (s : State) (x : StringId) (a : Option Attempt) : Reaction s (s.withTransfer x a) := by
  cases x <;> exact ⟨rfl, [], rfl⟩

/-! ## Arbiters and composing -/

theorem reaction_beginAttempt (s : State) (x : StringId) (k n : Nat) : Reaction s (s.beginAttempt x k n) := by
  unfold State.beginAttempt
  split
  · exact reaction_withTransfer _ _ _
  · exact .refl s

theorem reaction_beginDelivery (s : State) (k : Nat) (p : PanelRecord) : Reaction s (s.beginDelivery k p) :=
  ⟨rfl, [], rfl⟩

theorem reaction_grant (s : State) (x : StringId) (k : Nat) : Reaction s (s.grant x k) := by
  unfold State.grant
  split
  · exact .refl s
  · split
    · exact reaction_beginAttempt _ _ _ _
    · exact (reaction_beginDelivery _ _ _).trans (reaction_beginAttempt _ _ _ _)
    · exact (reaction_beginDelivery _ _ _).trans (reaction_beginAttempt _ _ _ _)
    · exact .refl s

theorem reaction_arbitrate (s : State) (x : StringId) : Reaction s (s.arbitrate x) := by
  unfold State.arbitrate
  split
  · exact .refl s
  · split
    · exact .refl s
    · exact reaction_grant _ _ _

theorem reaction_runArbiters (s : State) : Reaction s s.runArbiters := by
  have h0 : Reaction s (s.withStrings { s.strings with due := [] }) := reaction_withStrings _ _
  unfold State.runArbiters
  dsimp only
  split
  · split
    · exact (h0.trans (reaction_arbitrate _ _)).trans (reaction_arbitrate _ _)
    · exact h0.trans (reaction_arbitrate _ _)
  · split
    · exact h0.trans (reaction_arbitrate _ _)
    · exact h0

theorem reaction_callArbiter (s : State) (x : StringId) : Reaction s (s.callArbiter x) := ⟨rfl, [], rfl⟩

theorem reaction_recomposeSign (s : State) (k : Nat) : Reaction s (s.recomposeSign k).1 := by
  unfold State.recomposeSign
  split
  · dsimp only
    split
    · exact reaction_withSign _ _ _
    · exact reaction_withSign _ _ _
  · exact .refl s

theorem reaction_chooseNow (s : State) (x : StringId) : Reaction s (s.chooseNow x) := by
  have h0 : Reaction s (s.withStrings { s.strings with due := s.strings.due.filter fun y => y != x }) :=
    reaction_withStrings _ _
  exact h0.trans (reaction_arbitrate _ x)

theorem reaction_mayChoose (s : State) (x : StringId) : Reaction s (s.mayChoose x) := by
  unfold State.mayChoose
  split
  · split
    · exact reaction_choiceTaken _
    · exact (reaction_choiceTaken _).trans (reaction_chooseNow _ x)
  · exact .refl s

theorem reaction_handMarks (s : State) (ks : List Nat) : Reaction s (s.handMarks ks) := by
  unfold State.handMarks
  split
  · exact .refl s
  · have h0 := Reaction.foldl (fun s x => reaction_callArbiter s x) (s.settings.stringsOf ks) s
    exact (h0.trans (reaction_mayChoose _ .a)).trans (reaction_mayChoose _ .b)

theorem reaction_recomposeAll (ks marked : List Nat) (s : State) : Reaction s (State.recomposeAll ks marked s).1 := by
  induction ks generalizing s marked with
  | nil => exact .refl s
  | cons k ks ih =>
    unfold State.recomposeAll
    exact (reaction_recomposeSign s k).trans (ih _ _)

theorem reaction_recompose (s : State) (ks : List Nat) : Reaction s (s.recompose ks) :=
  (reaction_recomposeAll ks [] s).trans (reaction_handMarks _ _)

/-! ## Segments and gates -/

theorem reaction_evaluate (s : State) (ks : List Nat) : Reaction s (s.evaluate ks).1 := by
  unfold State.evaluate
  dsimp only
  split
  · exact (reaction_withSegments s _).trans (reaction_reports _ _)
  · exact ((reaction_withSegments s _).trans (reaction_reports _ _)).trans (reaction_recompose _ _)

theorem reaction_changeGateWith {f : GateRecord → State → State} (hf : ∀ r s, Reaction s (f r s)) (k : Nat)
    (c : GateCause) (g : GateState) (s : State) : Reaction s (s.changeGateWith f k c g) := by
  unfold State.changeGateWith
  split
  · rename_i r old _ _
    have h1 : Reaction s (if old.position = g.position then s.withGate k (some g)
        else (s.withGate k (some g)).report
          (.gate k (some old.position) (some g.position) g.reversals c)) := by
      split
      · exact reaction_withGate _ _ _
      · exact (reaction_withGate s k (some g)).trans (reaction_report _ _)
    dsimp only
    generalize (if old.position = g.position then s.withGate k (some g)
        else (s.withGate k (some g)).report
          (.gate k (some old.position) (some g.position) g.reversals c)) = u at h1 ⊢
    split
    · exact h1
    · exact (h1.trans (reaction_applyOrder _ _)).trans (hf _ _)
  · exact .refl s

theorem reaction_handOnQuiet (r : GateRecord) (s : State) : Reaction s (handOnQuiet r s) :=
  (reaction_evaluate s _).trans (reaction_recompose _ _)

theorem reaction_answerTell (s : State) (x : Nat × Bool) : Reaction s (s.answerTell x) := by
  unfold State.answerTell
  split
  · split
    · exact reaction_changeGateWith reaction_handOnQuiet _ _ _ _
    · exact reaction_changeGateWith reaction_handOnQuiet _ _ _ _
    · exact .refl s
  · exact .refl s

theorem reaction_answerTells (s : State) (xs : List (Nat × Bool)) : Reaction s (s.answerTells xs) :=
  Reaction.foldl (fun s x => reaction_answerTell s x) xs s

theorem reaction_handOver (s : State) (ks signs : List Nat) : Reaction s (s.handOver ks signs) := by
  unfold State.handOver
  dsimp only
  split
  · exact (reaction_evaluate s ks).trans (reaction_answerTells _ _)
  · exact ((reaction_evaluate s ks).trans (reaction_recompose _ _)).trans (reaction_answerTells _ _)

theorem reaction_changeGate (s : State) (k : Nat) (c : GateCause) (g : GateState) : Reaction s (s.changeGate k c g) :=
  reaction_changeGateWith (fun _ s => reaction_handOver s _ _) k c g s

theorem reaction_loweringTest (s : State) (k : Nat) : Reaction s (s.loweringTest k) := by
  unfold State.loweringTest
  split
  · split
    · exact reaction_changeGate _ _ _ _
    · exact .refl s
  · exact .refl s

theorem reaction_reviewHold (s : State) (k : Nat) : Reaction s (s.reviewHold k) := by
  unfold State.reviewHold
  split
  · split
    · exact (reaction_withGate s _ _).trans (reaction_loweringTest _ _)
    · exact .refl s
  · exact .refl s

theorem reaction_tellSign (s : State) (k : Nat) : Reaction s (s.tellSign k) :=
  Reaction.foldl (fun s x => reaction_reviewHold s x) _ s

/-! ## Change events of a gate's lines -/

theorem reaction_bothSwitches (s : State) (k : Nat) (g : GateState) : Reaction s (s.bothSwitches k g) := by
  unfold State.bothSwitches
  split
  · exact reaction_changeGate _ _ _ _
  · exact .refl s

theorem reaction_downSwitchRose (s : State) (k : Nat) : Reaction s (s.downSwitchRose k) := by
  unfold State.downSwitchRose
  split
  · split
    · exact reaction_bothSwitches _ _ _
    · split <;> first
        | exact reaction_changeGate _ _ _ _
        | exact .refl s
  · exact .refl s

theorem reaction_foundUp (s : State) (k : Nat) (r : GateRecord) (g : GateState) : Reaction s (s.foundUp k r g) := by
  unfold State.foundUp
  split <;> exact reaction_changeGate _ _ _ _

theorem reaction_upLimit (s : State) (k : Nat) (r : GateRecord) (g : GateState) (kind : RaiseKind) :
    Reaction s (s.upLimit k r g kind) := by
  unfold State.upLimit
  split
  · cases kind
    · exact reaction_changeGate _ _ _ _
    · exact (reaction_changeGate _ _ _ _).trans (reaction_loweringTest _ _)
  · exact reaction_changeGate _ _ _ _

theorem reaction_upSwitchRose (s : State) (k : Nat) : Reaction s (s.upSwitchRose k) := by
  unfold State.upSwitchRose
  split
  · split
    · exact reaction_bothSwitches _ _ _
    · split <;> first
        | exact reaction_upLimit _ _ _ _ _
        | exact reaction_changeGate _ _ _ _
        | exact reaction_foundUp _ _ _ _
        | exact .refl s
  · exact .refl s

theorem reaction_presenceRose (s : State) (k : Nat) : Reaction s (s.presenceRose k) := by
  unfold State.presenceRose
  split
  · split
    · split <;> exact reaction_changeGate _ _ _ _
    · exact .refl s
  · exact .refl s

theorem reaction_keyRose (s : State) (k : Nat) : Reaction s (s.keyRose k) := reaction_changeGate _ _ _ _

theorem reaction_keyFell (s : State) (k : Nat) : Reaction s (s.keyFell k) := by
  unfold State.keyFell
  split
  · split
    · exact reaction_changeGate _ _ _ _
    · exact .refl s
  · exact .refl s

theorem reaction_travelExpired (s : State) (k : Nat) : Reaction s (s.travelExpired k) := by
  unfold State.travelExpired
  split
  · exact reaction_changeGate _ _ _ _
  · exact .refl s

/-! ## Settling and hand-overs -/

theorem reaction_giveTells (s : State) : Reaction s s.giveTells :=
  (reaction_withStrings s _).trans (Reaction.foldl (fun s x => reaction_tellSign s x) _ _)

theorem reaction_settleRound (s : State) : Reaction s s.settleRound :=
  (reaction_giveTells s).trans (reaction_runArbiters _)

/-- Settling is a reaction. -/
theorem reaction_settle (s : State) : Reaction s s.settle :=
  ((reaction_settleRound s).trans (reaction_settleRound _)).trans (reaction_settleRound _)

theorem reaction_handTouched (s : State) (ks : List Nat) : Reaction s (s.handTouched ks) := by
  unfold State.handTouched
  split
  · exact .refl s
  · exact reaction_handOver _ _ _

/-! ## Hand-overs that may add an autonomous notice (R63, R82) -/

/-- A reaction but for the Notice List. -/
def LooseReaction (s t : State) : Prop := Reaction (s.withNotices t.retained.notices) t

/-- A reaction stays one when both sides take the same Notice List. -/
theorem Reaction.withNotices {s t : State} (h : Reaction s t) (l : List Notice) :
    Reaction (s.withNotices l) (t.withNotices l) := by
  obtain ⟨h1, bs, h2⟩ := h
  have e : ∀ u : State, still (u.withNotices l) =
      { still u with retained := { (still u).retained with notices := l } } := fun _ => rfl
  refine ⟨?_, bs, ?_⟩
  · rw [e, e, h1]
  · have : (t.withNotices l).line = t.line := rfl
    rw [this, h2]
    exact reports_line_congr bs _ _ rfl rfl rfl

theorem LooseReaction.of {s t : State} (h : Reaction s t) : LooseReaction s t := by
  have e : s.withNotices t.retained.notices = s := by
    rw [h.retained]
    rfl
  unfold LooseReaction
  rwa [e]

theorem LooseReaction.refl (s : State) : LooseReaction s s := .of (.refl s)

theorem LooseReaction.trans {s t u : State} (h : LooseReaction s t) (k : LooseReaction t u) : LooseReaction s u := by
  have h' := Reaction.withNotices h u.retained.notices
  exact Reaction.trans (s := s.withNotices u.retained.notices) h' k

theorem LooseReaction.foldl {α : Type} {f : State → α → State} (hf : ∀ s x, LooseReaction s (f s x)) (xs : List α)
    (s : State) : LooseReaction s (xs.foldl f s) := by
  induction xs generalizing s with
  | nil => exact .refl s
  | cons x xs ih => exact (hf s x).trans (ih _)

theorem loose_withNotices (s : State) (l : List Notice) : LooseReaction s (s.withNotices l) :=
  Reaction.refl (s.withNotices l)

theorem loose_askClosure (s : State) (k : Nat) : LooseReaction s (s.askClosure k) := by
  unfold State.askClosure
  split
  · exact ((loose_withNotices s _).trans (.of (reaction_report _ _))).trans (.of (reaction_handTouched _ _))
  · exact .refl s

theorem loose_trigger (s : State) (k : Nat) : LooseReaction s (s.trigger k) :=
  LooseReaction.foldl (fun s x => loose_askClosure s x) _ s

theorem loose_handLevels (s : State) (rs : List Rise) : LooseReaction s (s.handLevels rs) := by
  unfold State.handLevels
  split
  · exact .refl s
  · exact ((LooseReaction.of (reaction_reports s _)).trans (.of (reaction_handOver _ _ _))).trans
      (LooseReaction.foldl (fun s x => loose_trigger s x) _ _)

end Sys2Proof.Laws
end

