-- ==== Sys2Proof/Laws/Events.lean ====
section
/-! SUPPORT. What the shape of every command comes to: a part held in reset takes nothing; a released part takes the
effect, settles and lets its transmitter go on; a request is popped, carried out and answered (R184). -/

namespace Sys2Proof.Laws

open Sys2Proof Sys2Proof.Machine

/-! ## Settling between commands -/

theorem giveTells_of_empty (s : State) (h : s.strings.tells = []) : s.giveTells = s := by
  unfold State.giveTells
  rw [h]
  show s.withStrings { s.strings with tells := [] } = s
  rw [← h]
  rfl

theorem runArbiters_of_empty (s : State) (h : s.strings.due = []) : s.runArbiters = s := by
  unfold State.runArbiters
  rw [h]
  show s.withStrings { s.strings with due := [] } = s
  rw [← h]
  rfl

/-- Blocks that have nothing to settle stay as they are. -/
theorem settle_of_empty (s : State) (hd : s.strings.due = []) (ht : s.strings.tells = []) : s.settle = s := by
  have h : s.settleRound = s := by
    unfold State.settleRound
    rw [giveTells_of_empty s ht, runArbiters_of_empty s hd]
  unfold State.settle
  rw [h, h, h]

/-! ## Events -/

@[simp] theorem still_withLine (s : State) (l : StationLine) : still (s.withLine l) = still s := rfl
@[simp] theorem still_withSchedule (s : State) (n : Nat) : still (s.withSchedule n) = still s := rfl

theorem event_powered (t : Moment) (f : State → State) (s : State) (h : s.powered = true) :
    event t f s = .next ((s.elapse t).react f) := by simp [event, h]

theorem event_unpowered (t : Moment) (f : State → State) (s : State) (h : s.powered = false) :
    event t f s = .next s := by simp [event, h]

/-- What a kick leaves as it was. -/
theorem still_kick (s : State) : still s.kick = still s := by
  obtain ⟨tr, buf, h, -⟩ := kick_transmits s
  rw [h]
  rfl

/-- After an effect the still part is the effect's. -/
theorem still_react (f : State → State) (s : State) : still (s.react f) = still (f s) := by
  show still (f s).settle.kick = still (f s)
  rw [still_kick]
  exact (reaction_settle (f s)).1

/-- After an effect the road is the settled effect's: a kick touches the station line alone. -/
theorem react_road (f : State → State) (s : State) :
    (s.react f).segments = (f s).settle.segments ∧ (s.react f).gates = (f s).settle.gates ∧
      (s.react f).field = (f s).settle.field ∧ (s.react f).composer = (f s).settle.composer ∧
      (s.react f).strings = (f s).settle.strings ∧ (s.react f).schedule = (f s).settle.schedule := by
  obtain ⟨tr, buf, h, -⟩ := kick_transmits (f s).settle
  have h' : s.react f = (f s).settle.withLine { (f s).settle.line with transmitter := tr, buffer := buf } := h
  rw [h']
  generalize (f s).settle = u
  exact ⟨rfl, rfl, rfl, rfl, rfl, rfl⟩

/-- After an effect the line is the effect's, but for transmitter, buffer and sequence number. -/
theorem react_line (f : State → State) (s : State) :
    (s.react f).line =
      { (f s).line with
        transmitter := (s.react f).line.transmitter
        buffer := (s.react f).line.buffer
        nextSequence := (s.react f).line.nextSequence } := by
  obtain ⟨tr, buf, h, -⟩ := kick_transmits (f s).settle
  have h' : s.react f = (f s).settle.withLine { (f s).settle.line with transmitter := tr, buffer := buf } := h
  rw [h', withLine_line, (reaction_settle (f s)).line]

/-- An event keeps the report buffer within 32 records if its effect does. -/
theorem react_buffer_le (f : State → State) (s : State) (h : (f s).line.buffer.length ≤ 32) :
    (s.react f).line.buffer.length ≤ 32 := by
  obtain ⟨tr, buf, hk, hr⟩ := kick_transmits (f s).settle
  have h' : s.react f = (f s).settle.withLine { (f s).settle.line with transmitter := tr, buffer := buf } := hk
  have hl : buf.length = (f s).settle.line.buffer.length := by
    have := congrArg List.length hr
    simpa using this
  rw [h', withLine_line]
  show buf.length ≤ 32
  rw [hl]
  exact (reaction_settle (f s)).buffer_le h

/-! ## Requests (R184) -/

/-- A taken request in full: popped, carried out, settled and answered at the end of the outbox; besides that the reply
can change only transmitter, marks and a free order choice. -/
theorem carryOut_eq (kind tag : Byte) (f : State → State × Answer) (s : State) :
    ∃ tr buf sch, s.carryOut kind tag f =
        ((f s.popFrame).1.settle.withSchedule sch).withLine
          { (f s.popFrame).1.settle.line with
            outbox := (f s.popFrame).1.settle.line.outbox ++ [⟨tag, kind, (f s.popFrame).2⟩]
            transmitter := tr
            buffer := buf } ∧
      buf.map Buffered.record = (f s.popFrame).1.settle.line.buffer.map Buffered.record :=
  placeReply_eq _ _

/-- The still part after a taken request is that after carrying it out. -/
theorem still_carryOut (kind tag : Byte) (f : State → State × Answer) (s : State) :
    still (s.carryOut kind tag f) = still (f s.popFrame).1 := by
  obtain ⟨tr, buf, sch, h, -⟩ := carryOut_eq kind tag f s
  rw [h, still_withLine, still_withSchedule]
  exact (reaction_settle (f s.popFrame).1).1

/-- The outbox after a taken request: what carrying it out left, and its reply last. -/
theorem carryOut_outbox (kind tag : Byte) (f : State → State × Answer) (s : State) :
    (s.carryOut kind tag f).line.outbox =
      (f s.popFrame).1.line.outbox ++ [⟨tag, kind, (f s.popFrame).2⟩] := by
  obtain ⟨tr, buf, sch, h, -⟩ := carryOut_eq kind tag f s
  rw [h, withLine_line, (reaction_settle (f s.popFrame).1).outbox]

/-- The line after a taken request, but for outbox, transmitter, buffer and sequence number, is that after carrying it
out. -/
theorem carryOut_line (kind tag : Byte) (f : State → State × Answer) (s : State) :
    (s.carryOut kind tag f).line =
      { (f s.popFrame).1.line with
        outbox := (f s.popFrame).1.line.outbox ++ [⟨tag, kind, (f s.popFrame).2⟩]
        transmitter := (s.carryOut kind tag f).line.transmitter
        buffer := (s.carryOut kind tag f).line.buffer
        nextSequence := (s.carryOut kind tag f).line.nextSequence } := by
  obtain ⟨tr, buf, sch, h, -⟩ := carryOut_eq kind tag f s
  rw [h, withLine_line, (reaction_settle (f s.popFrame).1).line]

/-- A taken request on a released part. -/
theorem request_taken (t : Moment) (kind tag : Byte) (fields : List Byte) (f : State → State × Answer) (s : State)
    (hp : s.powered = true) (ht : s.takes ⟨kind, tag :: fields⟩ = true) :
    request t kind tag fields f s = .next ((s.elapse t).react fun s => s.carryOut kind tag f) := by
  have ht' : (s.elapse t).takes ⟨kind, tag :: fields⟩ = true := ht
  unfold request
  rw [event_powered _ _ _ hp]
  simp only [State.react, ht', if_true]

/-- The reply stands last in the outbox after a taken request. -/
theorem request_outbox (kind tag : Byte) (f : State → State × Answer) (s : State) :
    (s.react fun s => s.carryOut kind tag f).line.outbox =
      (f s.popFrame).1.line.outbox ++ [⟨tag, kind, (f s.popFrame).2⟩] := by
  have h := react_line (fun s => s.carryOut kind tag f) s
  have h' := congrArg StationLine.outbox h
  exact h'.trans (carryOut_outbox kind tag f s)

/-- The still part after a taken request. -/
theorem still_request (kind tag : Byte) (f : State → State × Answer) (s : State) :
    still (s.react fun s => s.carryOut kind tag f) = still (f s.popFrame).1 := by
  rw [still_react, still_carryOut]

end Sys2Proof.Laws
end

