-- ==== Sys2Proof/Laws/Tables.lean ====
section
/-! SUPPORT. Tables numbered from 1: what a read gives after a write, and which numbers a table lists. -/

namespace Sys2Proof.Laws

open Sys2Proof.Machine

variable {α : Type} {n : Nat}

/-- A number inside the table reads what the vector holds one place below it. -/
theorem itemAt_of_pos (v : Vector α n) {k : Nat} (h : 0 < k) : itemAt v k = v[k - 1]? := by
  simp [itemAt, Nat.pos_iff_ne_zero.mp h]

/-- Number 0 is in no table. -/
@[simp] theorem itemAt_zero (v : Vector α n) : itemAt v 0 = none := by simp [itemAt]

/-- A number above the table is not in it. -/
theorem itemAt_of_gt (v : Vector α n) {k : Nat} (h : n < k) : itemAt v k = none := by
  have hk : 0 < k := by omega
  rw [itemAt_of_pos v hk]
  exact Vector.getElem?_eq_none (by omega)

/-- Item `k` reads as written, inside the table. -/
theorem itemAt_putItem_self (v : Vector α n) {k : Nat} (x : α) (h : 1 ≤ k) (hn : k ≤ n) :
    itemAt (putItem v k x) k = some x := by
  have hk : k ≠ 0 := by omega
  have hlt : k - 1 < n := by omega
  simp [itemAt, putItem, hk, hlt]

/-- Another item reads as before. -/
theorem itemAt_putItem_ne (v : Vector α n) {k j : Nat} (x : α) (h : j ≠ k) :
    itemAt (putItem v k x) j = itemAt v j := by
  unfold itemAt putItem
  by_cases hj : j = 0
  · simp [hj]
  · by_cases hk : k = 0
    · simp [hk]
    · have : k - 1 ≠ j - 1 := by omega
      simp [hj, hk, Vector.getElem?_setIfInBounds_ne this]

/-- What item `j` reads after item `k` is written: the new value where they are one item, the old one elsewhere. -/
theorem itemAt_putItem_cases (v : Vector α n) (k j : Nat) (x y : α) (h : itemAt (putItem v k x) j = some y) :
    (j = k ∧ y = x) ∨ itemAt v j = some y := by
  by_cases hj : j = k
  · subst hj
    by_cases h0 : 1 ≤ j ∧ j ≤ n
    · rw [itemAt_putItem_self v x h0.1 h0.2] at h
      exact Or.inl ⟨rfl, (Option.some.inj h).symm⟩
    · have hnone : itemAt (putItem v j x) j = none := by
        rcases Nat.eq_zero_or_pos j with h1 | h1
        · simp [h1]
        · exact itemAt_of_gt _ (by omega)
      rw [hnone] at h
      cases h
  · exact Or.inr (by rwa [itemAt_putItem_ne v x hj] at h)

/-- The record of number `k` is the one written. -/
theorem lookup_putItem_self (v : Vector (Option α) n) {k : Nat} (x : Option α) (h : 1 ≤ k) (hn : k ≤ n) :
    lookup (putItem v k x) k = x := by
  simp [lookup, itemAt_putItem_self v x h hn]

/-- The record of another number is as before. -/
theorem lookup_putItem_ne (v : Vector (Option α) n) {k j : Nat} (x : Option α) (h : j ≠ k) :
    lookup (putItem v k x) j = lookup v j := by
  simp [lookup, itemAt_putItem_ne v x h]

/-- A number with a record lies in the table. -/
theorem lookup_bounds (v : Vector (Option α) n) {k : Nat} {x : α} (h : lookup v k = some x) : 1 ≤ k ∧ k ≤ n := by
  by_contra hc
  have : itemAt v k = none := by
    rcases Nat.eq_zero_or_pos k with h0 | h0
    · simp [h0]
    · exact itemAt_of_gt v (by omega)
  simp [lookup, this] at h

/-- What number `j` holds after number `k` is written. -/
theorem lookup_putItem_cases (v : Vector (Option α) n) (k j : Nat) (x : Option α) (y : α)
    (h : lookup (putItem v k x) j = some y) : (j = k ∧ x = some y) ∨ lookup v j = some y := by
  by_cases hj : j = k
  · subst hj
    have hb := lookup_bounds _ h
    rw [lookup_putItem_self v x hb.1 hb.2] at h
    exact Or.inl ⟨rfl, h⟩
  · exact Or.inr (by rwa [lookup_putItem_ne v x hj] at h)

/-- The numbers 1 to `n`. -/
@[simp] theorem mem_numbers {n k : Nat} : k ∈ numbers n ↔ 1 ≤ k ∧ k ≤ n := by
  simp only [numbers, List.mem_range'_1]
  omega

/-- A table of `none` has no records. -/
@[simp] theorem lookup_replicate_none (k : Nat) : lookup (Vector.replicate n (none : Option α)) k = none := by
  unfold lookup itemAt
  split
  · rfl
  · by_cases h : k - 1 < n <;> simp [h]

/-- Item `k` of a table with one value everywhere, inside the table. -/
theorem itemAt_replicate (x : α) {k : Nat} (h : 1 ≤ k) (hn : k ≤ n) : itemAt (Vector.replicate n x) k = some x := by
  have : k - 1 < n := by omega
  rw [itemAt_of_pos _ h]
  simp [this]

end Sys2Proof.Laws
end

