-- ==== Sys2Proof/Laws/Outputs.lean ====
section
/-! SUPPORT. What an order leaves on the output lines (R5, R110). -/

namespace Sys2Proof.Laws

open Sys2Proof Sys2Proof.Machine

theorem levelAt_putItem_self (v : Vector Bool 16) {k : Nat} (x : Bool) (h : 1 ≤ k ∧ k ≤ 16) :
    levelAt (putItem v k x) k = x := by
  simp [levelAt, itemAt_putItem_self v x h.1 h.2]

theorem levelAt_putItem_ne (v : Vector Bool 16) {k j : Nat} (x : Bool) (h : j ≠ k) :
    levelAt (putItem v k x) j = levelAt v j := by
  simp [levelAt, itemAt_putItem_ne v x h]

/-- Lines taken to one level: a line among them has it, another keeps its own. -/
theorem levelAt_foldl_putItem (b : Bool) (os : List (Nat × Bool)) (v : Vector Bool 16) (j : Nat)
    (hj : 1 ≤ j ∧ j ≤ 16) :
    levelAt (os.foldl (fun v o => putItem v o.1 b) v) j = if j ∈ os.map Prod.fst then b else levelAt v j := by
  induction os generalizing v with
  | nil => simp
  | cons o os ih =>
    rw [List.foldl_cons, ih]
    by_cases h : j = o.1
    · subst h
      simp [levelAt_putItem_self v b hj]
    · simp [levelAt_putItem_ne v b h, h]

/-- A line that an order turns on is on. -/
theorem levelAt_order_on (v : Vector Bool 16) (os : List (Nat × Bool)) (j : Nat) (hj : 1 ≤ j ∧ j ≤ 16)
    (h : (j, true) ∈ os) : levelAt (orderOutputs v os) j = true := by
  unfold orderOutputs
  rw [levelAt_foldl_putItem true _ _ j hj, if_pos]
  exact List.mem_map.mpr ⟨(j, true), List.mem_filter.mpr ⟨h, rfl⟩, rfl⟩

/-- A line that an order turns off and does not turn on is off. -/
theorem levelAt_order_off (v : Vector Bool 16) (os : List (Nat × Bool)) (j : Nat) (hj : 1 ≤ j ∧ j ≤ 16)
    (h : (j, false) ∈ os) (hn : (j, true) ∉ os) : levelAt (orderOutputs v os) j = false := by
  unfold orderOutputs
  rw [levelAt_foldl_putItem true _ _ j hj, if_neg, levelAt_foldl_putItem false _ _ j hj, if_pos]
  · exact List.mem_map.mpr ⟨(j, false), List.mem_filter.mpr ⟨h, rfl⟩, rfl⟩
  · intro hm
    obtain ⟨o, ho, rfl⟩ := List.mem_map.mp hm
    obtain ⟨ho1, ho2⟩ := List.mem_filter.mp ho
    apply hn
    have : o.2 = true := by simpa using ho2
    rw [← this]
    exact ho1

/-- A line that an order does not name keeps its level. -/
theorem levelAt_order_other (v : Vector Bool 16) (os : List (Nat × Bool)) (j : Nat) (hj : 1 ≤ j ∧ j ≤ 16)
    (h : j ∉ os.map Prod.fst) : levelAt (orderOutputs v os) j = levelAt v j := by
  unfold orderOutputs
  rw [levelAt_foldl_putItem true _ _ j hj, if_neg, levelAt_foldl_putItem false _ _ j hj, if_neg]
  · intro hm
    obtain ⟨o, ho, rfl⟩ := List.mem_map.mp hm
    exact h (List.mem_map.mpr ⟨o, (List.mem_filter.mp ho).1, rfl⟩)
  · intro hm
    obtain ⟨o, ho, rfl⟩ := List.mem_map.mp hm
    exact h (List.mem_map.mpr ⟨o, (List.mem_filter.mp ho).1, rfl⟩)

/-- No gate state drives the lower and the raise output together (R110). -/
theorem setting_exclusive (p : GatePosition) : (p.setting.1 && p.setting.2.1) = false := by
  cases p <;> rfl

end Sys2Proof.Laws
end

