-- ==== Sys2Proof/Laws/Ripple.lean ====
section
/-! SUPPORT. How far a reaction reaches into gates, panels, signs and strings. A gate that is neither UP nor in WARNING
keeps its state, count and travel timer, and one whose hold start follows no sign stays whole; a panel at most begins a
delivery; a sign keeps its pages and a mark once set; an attempt in flight stays. `Ripple` says that once. -/

namespace Sys2Proof.Laws

open Sys2Proof Sys2Proof.Machine

/-- Both sides absent, or both present and related. -/
def Both {α : Type} (R : α → α → Prop) (a b : Option α) : Prop :=
  match a, b with
  | none, none => True
  | some x, some y => R x y
  | none, some _ => False
  | some _, none => False

theorem Both.refl {α : Type} {R : α → α → Prop} (hR : ∀ x, R x x) (a : Option α) : Both R a a := by
  cases a
  · trivial
  · exact hR _

theorem Both.trans {α : Type} {R : α → α → Prop} (hR : ∀ x y z, R x y → R y z → R x z) {a b c : Option α}
    (h : Both R a b) (k : Both R b c) : Both R a c := by
  cases a <;> cases b <;> cases c <;> first
    | trivial
    | exact absurd h id
    | exact absurd k id
    | exact hR _ _ _ h k

/-- From a present left side, the right side and the relation. -/
theorem Both.some_left {α : Type} {R : α → α → Prop} {x : α} {b : Option α} (h : Both R (some x) b) :
    ∃ y, b = some y ∧ R x y := by
  cases b
  · exact absurd h id
  · exact ⟨_, rfl, h⟩

/-! ## The four relations -/

/-- Whether a gate stands UP or in WARNING, where a tell can move it. -/
def movable (p : GatePosition) : Prop := p = .up ∨ p = .warning

/-- What a reaction can do to a gate. -/
def GateRipple (g h : GateState) : Prop :=
  (movable g.position → (movable h.position ∨ h.position = .lowering) ∧ h.reversals = g.reversals) ∧
    (¬ movable g.position → h.position = g.position ∧ h.reversals = g.reversals ∧ h.travelExpiry = g.travelExpiry) ∧
    (¬ movable g.position → g.position.followsSigns = false → h = g)

theorem GateRipple.refl (g : GateState) : GateRipple g g :=
  ⟨fun h => ⟨Or.inl h, rfl⟩, fun _ => ⟨rfl, rfl, rfl⟩, fun _ _ => rfl⟩

theorem GateRipple.trans (g h i : GateState) (a : GateRipple g h) (b : GateRipple h i) : GateRipple g i := by
  obtain ⟨a1, a2, a3⟩ := a
  obtain ⟨b1, b2, b3⟩ := b
  refine ⟨?_, ?_, ?_⟩
  · intro hg
    obtain ⟨hm, hr⟩ := a1 hg
    by_cases hh : movable h.position
    · obtain ⟨c1, c2⟩ := b1 hh
      exact ⟨c1, c2.trans hr⟩
    · have hl : h.position = .lowering := hm.resolve_left hh
      obtain ⟨c1, c2, -⟩ := b2 hh
      exact ⟨Or.inr (c1.trans hl), c2.trans hr⟩
  · intro hg
    obtain ⟨c1, c2, c3⟩ := a2 hg
    obtain ⟨d1, d2, d3⟩ := b2 (by rwa [c1])
    exact ⟨d1.trans c1, d2.trans c2, d3.trans c3⟩
  · intro hg hf
    have e := a3 hg hf
    subst e
    exact b3 hg hf

/-- What a reaction can do to a panel record: begin a delivery, from UNKNOWN or SHOWING. -/
def PanelRipple (p q : PanelRecord) : Prop :=
  q = p ∨ ((p.state = .unknown ∨ p.state = .showing) ∧ q = { p with state := .sending, attempts := 0 })

theorem PanelRipple.refl (p : PanelRecord) : PanelRipple p p := Or.inl rfl

theorem PanelRipple.trans (p q r : PanelRecord) (a : PanelRipple p q) (b : PanelRipple q r) : PanelRipple p r := by
  rcases a with rfl | ⟨ha, rfl⟩
  · exact b
  · rcases b with rfl | ⟨hb, -⟩
    · exact Or.inr ⟨ha, rfl⟩
    · rcases hb with hb | hb <;> cases hb

/-- What a reaction can do to what the Sign Composer holds for a sign: a new image and a mark. -/
def SignRipple (c d : SignState) : Prop :=
  d.front = c.front ∧ d.back = c.back ∧ (c.marked = true → d.marked = true)

theorem SignRipple.refl (c : SignState) : SignRipple c c := ⟨rfl, rfl, id⟩

theorem SignRipple.trans (c d e : SignState) (a : SignRipple c d) (b : SignRipple d e) : SignRipple c e :=
  ⟨b.1.trans a.1, b.2.1.trans a.2.1, fun h => b.2.2 (a.2.2 h)⟩

/-- A reaction's reach into gates, panels, signs and strings. -/
structure Ripple (s t : State) : Prop where
  gates : ∀ k, Both GateRipple (s.gate k) (t.gate k)
  panels : ∀ k, Both PanelRipple (s.panel k) (t.panel k)
  signs : ∀ k, Both SignRipple (s.sign k) (t.sign k)
  transfers : ∀ x a, s.transfer x = some a → t.transfer x = some a

theorem Ripple.refl (s : State) : Ripple s s :=
  ⟨fun _ => .refl GateRipple.refl _, fun _ => .refl PanelRipple.refl _, fun _ => .refl SignRipple.refl _,
    fun _ _ h => h⟩

theorem Ripple.trans {s t u : State} (h : Ripple s t) (k : Ripple t u) : Ripple s u :=
  ⟨fun i => (h.gates i).trans GateRipple.trans (k.gates i), fun i => (h.panels i).trans PanelRipple.trans (k.panels i),
    fun i => (h.signs i).trans SignRipple.trans (k.signs i), fun x a e => k.transfers x a (h.transfers x a e)⟩

theorem Ripple.foldl {α : Type} {f : State → α → State} (hf : ∀ s x, Ripple s (f s x)) (xs : List α) (s : State) :
    Ripple s (xs.foldl f s) := by
  induction xs generalizing s with
  | nil => exact .refl s
  | cons x xs ih => exact (hf s x).trans (ih _)

/-- A state with the same gates, panels, signs and transfers is a ripple away. -/
theorem Ripple.of_eq {s t : State} (hg : t.gates = s.gates) (hp : t.strings.panels = s.strings.panels)
    (hc : t.composer.signs = s.composer.signs) (ha : t.strings.transferA = s.strings.transferA)
    (hb : t.strings.transferB = s.strings.transferB) : Ripple s t := by
  refine ⟨fun k => ?_, fun k => ?_, fun k => ?_, fun x a h => ?_⟩
  · unfold State.gate
    rw [hg]
    exact .refl GateRipple.refl _
  · unfold State.panel
    rw [hp]
    exact .refl PanelRipple.refl _
  · unfold State.sign
    rw [hc]
    exact .refl SignRipple.refl _
  · cases x
    · exact ha.trans h
    · exact hb.trans h

/-! ## Updates of one record -/

theorem gate_withGate (s : State) (k j : Nat) (g : Option GateState) (hk : 1 ≤ k ∧ k ≤ 8) :
    (s.withGate k g).gate j = if j = k then g else s.gate j := by
  unfold State.gate State.withGate
  by_cases h : j = k
  · subst h
    simp [lookup_putItem_self _ _ hk.1 hk.2]
  · simp [h, lookup_putItem_ne _ _ h]

theorem panel_withPanel (s : State) (k j : Nat) (p : Option PanelRecord) (hk : 1 ≤ k ∧ k ≤ 16) :
    (s.withPanel k p).panel j = if j = k then p else s.panel j := by
  unfold State.panel State.withPanel
  by_cases h : j = k
  · subst h
    simp [lookup_putItem_self _ _ hk.1 hk.2]
  · simp [h, lookup_putItem_ne _ _ h]

theorem sign_withSign (s : State) (k j : Nat) (c : Option SignState) (hk : 1 ≤ k ∧ k ≤ 16) :
    (s.withSign k c).sign j = if j = k then c else s.sign j := by
  unfold State.sign State.withSign
  by_cases h : j = k
  · subst h
    simp [lookup_putItem_self _ _ hk.1 hk.2]
  · simp [h, lookup_putItem_ne _ _ h]

/-- Replacing the state of a gate by a related one is a ripple. -/
theorem ripple_withGate (s : State) (k : Nat) (g h : GateState) (hg : s.gate k = some g) (hr : GateRipple g h) :
    Ripple s (s.withGate k (some h)) := by
  refine ⟨fun j => ?_, fun _ => .refl PanelRipple.refl _, fun _ => .refl SignRipple.refl _, fun _ _ e => e⟩
  rw [gate_withGate s k j (some h) (lookup_bounds _ hg)]
  by_cases hj : j = k
  · subst hj
    rw [if_pos rfl, hg]
    exact hr
  · rw [if_neg hj]
    exact .refl GateRipple.refl _

/-- Replacing a panel record by a related one is a ripple. -/
theorem ripple_withPanel (s : State) (k : Nat) (p q : PanelRecord) (hp : s.panel k = some p) (hr : PanelRipple p q) :
    Ripple s (s.withPanel k (some q)) := by
  refine ⟨fun _ => .refl GateRipple.refl _, fun j => ?_, fun _ => .refl SignRipple.refl _, fun x a e => ?_⟩
  · rw [panel_withPanel s k j (some q) (lookup_bounds _ hp)]
    by_cases hj : j = k
    · subst hj
      rw [if_pos rfl, hp]
      exact hr
    · rw [if_neg hj]
      exact .refl PanelRipple.refl _
  · cases x <;> exact e

/-- Replacing what is held for a sign by a related record is a ripple. -/
theorem ripple_withSign (s : State) (k : Nat) (c d : SignState) (hc : s.sign k = some c) (hr : SignRipple c d) :
    Ripple s (s.withSign k (some d)) := by
  refine ⟨fun _ => .refl GateRipple.refl _, fun _ => .refl PanelRipple.refl _, fun j => ?_, fun _ _ e => e⟩
  rw [sign_withSign s k j (some d) (lookup_bounds _ hc)]
  by_cases hj : j = k
  · subst hj
    rw [if_pos rfl, hc]
    exact hr
  · rw [if_neg hj]
    exact .refl SignRipple.refl _

theorem ripple_report (s : State) (b : ReportBody) : Ripple s (s.report b) := .of_eq rfl rfl rfl rfl rfl

theorem ripple_reports (s : State) (bs : List ReportBody) : Ripple s (s.reports bs) := by
  rw [reports_eq_withLine]
  exact .of_eq rfl rfl rfl rfl rfl

theorem ripple_applyOrder (s : State) (o : List (Nat × Bool)) : Ripple s (s.applyOrder o) :=
  .of_eq rfl rfl rfl rfl rfl
theorem ripple_choiceTaken (s : State) : Ripple s s.choiceTaken := .of_eq rfl rfl rfl rfl rfl
theorem ripple_callArbiter (s : State) (x : StringId) : Ripple s (s.callArbiter x) := .of_eq rfl rfl rfl rfl rfl
theorem ripple_withSegments (s : State) (x : Vector (Option SegmentState) 8) : Ripple s (s.withSegments x) :=
  .of_eq rfl rfl rfl rfl rfl

/-! ## Arbiters and composing -/

/-- An attempt begins on a FREE string. -/
theorem ripple_beginAttempt (s : State) (x : StringId) (k n : Nat) (hf : s.transfer x = none) :
    Ripple s (s.beginAttempt x k n) := by
  unfold State.beginAttempt
  split
  · refine ⟨fun j => ?_, fun j => ?_, fun j => ?_, fun y a e => ?_⟩
    · cases x <;> exact .refl GateRipple.refl _
    · cases x <;> exact .refl PanelRipple.refl _
    · cases x <;> exact .refl SignRipple.refl _
    · cases x <;> cases y <;> first
        | exact e
        | (rw [hf] at e; cases e)
  · exact .refl s

theorem ripple_beginDelivery (s : State) (k : Nat) (p : PanelRecord) (hp : s.panel k = some p)
    (hf : p.state = .unknown ∨ p.state = .showing) : Ripple s (s.beginDelivery k p) := by
  have h := ripple_withPanel s k p { p with state := .sending, attempts := 0 } hp (Or.inr ⟨hf, rfl⟩)
  exact h.trans (.of_eq rfl rfl rfl rfl rfl)

theorem transfer_beginDelivery (s : State) (k : Nat) (p : PanelRecord) (x : StringId) :
    (s.beginDelivery k p).transfer x = s.transfer x := by
  cases x <;> rfl

theorem ripple_grant (s : State) (x : StringId) (k : Nat) (hx : s.transfer x = none) : Ripple s (s.grant x k) := by
  unfold State.grant
  split
  · exact .refl s
  · rename_i p hp
    split
    · exact ripple_beginAttempt s x k 1 hx
    · rename_i hst
      exact (ripple_beginDelivery s k p hp (Or.inl hst)).trans
        (ripple_beginAttempt _ x k 1 ((transfer_beginDelivery s k p x).trans hx))
    · rename_i hst
      exact (ripple_beginDelivery s k p hp (Or.inr hst)).trans
        (ripple_beginAttempt _ x k 1 ((transfer_beginDelivery s k p x).trans hx))
    · exact .refl s

theorem ripple_arbitrate (s : State) (x : StringId) : Ripple s (s.arbitrate x) := by
  unfold State.arbitrate
  split
  · exact .refl s
  · rename_i hx
    split
    · exact .refl s
    · exact ripple_grant s x _ hx

theorem ripple_runArbiters (s : State) : Ripple s s.runArbiters := by
  have h0 : Ripple s (s.withStrings { s.strings with due := [] }) := .of_eq rfl rfl rfl rfl rfl
  unfold State.runArbiters
  dsimp only
  split
  · split
    · exact (h0.trans (ripple_arbitrate _ _)).trans (ripple_arbitrate _ _)
    · exact h0.trans (ripple_arbitrate _ _)
  · split
    · exact h0.trans (ripple_arbitrate _ _)
    · exact h0

theorem ripple_recomposeSign (s : State) (k : Nat) : Ripple s (s.recomposeSign k).1 := by
  unfold State.recomposeSign
  split
  · rename_i r c hr hc
    dsimp only
    split
    · exact ripple_withSign s k c _ hc ⟨rfl, rfl, id⟩
    · exact ripple_withSign s k c _ hc ⟨rfl, rfl, fun _ => rfl⟩
  · exact .refl s

theorem ripple_chooseNow (s : State) (x : StringId) : Ripple s (s.chooseNow x) := by
  have h0 : Ripple s (s.withStrings { s.strings with due := s.strings.due.filter fun y => y != x }) :=
    .of_eq rfl rfl rfl rfl rfl
  exact h0.trans (ripple_arbitrate _ x)

theorem ripple_mayChoose (s : State) (x : StringId) : Ripple s (s.mayChoose x) := by
  unfold State.mayChoose
  split
  · split
    · exact ripple_choiceTaken _
    · exact (ripple_choiceTaken _).trans (ripple_chooseNow _ x)
  · exact .refl s

theorem ripple_handMarks (s : State) (ks : List Nat) : Ripple s (s.handMarks ks) := by
  unfold State.handMarks
  split
  · exact .refl s
  · have h0 := Ripple.foldl (fun s x => ripple_callArbiter s x) (s.settings.stringsOf ks) s
    exact (h0.trans (ripple_mayChoose _ .a)).trans (ripple_mayChoose _ .b)

theorem ripple_recomposeAll (ks marked : List Nat) (s : State) : Ripple s (State.recomposeAll ks marked s).1 := by
  induction ks generalizing s marked with
  | nil => exact .refl s
  | cons k ks ih =>
    unfold State.recomposeAll
    exact (ripple_recomposeSign s k).trans (ih _ _)

theorem ripple_recompose (s : State) (ks : List Nat) : Ripple s (s.recompose ks) :=
  (ripple_recomposeAll ks [] s).trans (ripple_handMarks _ _)

/-! ## Segments and gates -/

theorem ripple_evaluate (s : State) (ks : List Nat) : Ripple s (s.evaluate ks).1 := by
  unfold State.evaluate
  dsimp only
  split
  · exact (ripple_withSegments s _).trans (ripple_reports _ _)
  · exact ((ripple_withSegments s _).trans (ripple_reports _ _)).trans (ripple_recompose _ _)

/-- A gate takes a new state with its hand-over: from the state with only the gate replaced, a ripple. -/
theorem ripple_changeGateWith {f : GateRecord → State → State} (hf : ∀ r s, Ripple s (f r s)) (k : Nat)
    (c : GateCause) (new : GateState) (s : State) (r : GateRecord) (old : GateState)
    (hr : lookup s.settings.gates k = some r) (ho : s.gate k = some old) :
    Ripple (s.withGate k (some new)) (s.changeGateWith f k c new) := by
  have h1 : Ripple (s.withGate k (some new)) (if old.position = new.position then s.withGate k (some new)
      else (s.withGate k (some new)).report
        (.gate k (some old.position) (some new.position) new.reversals c)) := by
    split
    · exact .refl _
    · exact ripple_report _ _
  unfold State.changeGateWith
  rw [hr, ho]
  dsimp only
  generalize (if old.position = new.position then s.withGate k (some new)
      else (s.withGate k (some new)).report
        (.gate k (some old.position) (some new.position) new.reversals c)) = u at h1 ⊢
  split
  · exact h1
  · exact (h1.trans (ripple_applyOrder _ _)).trans (hf _ _)

theorem ripple_handOnQuiet (r : GateRecord) (s : State) : Ripple s (handOnQuiet r s) :=
  (ripple_evaluate s _).trans (ripple_recompose _ _)

/-- A gate in UP or WARNING may take a state in UP, WARNING or LOWERING with its count. -/
theorem gateRipple_of_movable (g h : GateState) (hg : movable g.position)
    (hh : movable h.position ∨ h.position = .lowering) (hr : h.reversals = g.reversals) : GateRipple g h :=
  ⟨fun _ => ⟨hh, hr⟩, fun n => absurd hg n, fun n => absurd hg n⟩

/-- A gate that takes a related state ripples as a whole. -/
theorem ripple_relatedChange {f : GateRecord → State → State} (hf : ∀ r s, Ripple s (f r s)) (k : Nat)
    (c : GateCause) (new : GateState) (s : State) (r : GateRecord) (old : GateState)
    (hr : lookup s.settings.gates k = some r) (ho : s.gate k = some old) (hn : GateRipple old new) :
    Ripple s (s.changeGateWith f k c new) :=
  (ripple_withGate s k old new ho hn).trans (ripple_changeGateWith hf k c new s r old hr ho)

theorem ripple_answerTell (s : State) (x : Nat × Bool) : Ripple s (s.answerTell x) := by
  unfold State.answerTell
  split
  · rename_i r g hr hg
    split
    · rename_i hp _
      exact ripple_relatedChange ripple_handOnQuiet _ _ _ s r g hr hg
        (gateRipple_of_movable _ _ (Or.inl hp) (Or.inl (Or.inr rfl)) rfl)
    · rename_i hp _
      exact ripple_relatedChange ripple_handOnQuiet _ _ _ s r g hr hg
        (gateRipple_of_movable _ _ (Or.inr hp) (Or.inl (Or.inl rfl)) rfl)
    · exact .refl s
  · exact .refl s

theorem ripple_answerTells (s : State) (xs : List (Nat × Bool)) : Ripple s (s.answerTells xs) :=
  Ripple.foldl (fun s x => ripple_answerTell s x) xs s

theorem ripple_handOver (s : State) (ks signs : List Nat) : Ripple s (s.handOver ks signs) := by
  unfold State.handOver
  dsimp only
  split
  · exact (ripple_evaluate s ks).trans (ripple_answerTells _ _)
  · exact ((ripple_evaluate s ks).trans (ripple_recompose _ _)).trans (ripple_answerTells _ _)

/-- A gate takes a new state, reported and handed on: from the state with only the gate replaced, a ripple. -/
theorem ripple_changeGate (s : State) (k : Nat) (c : GateCause) (new : GateState) (r : GateRecord) (old : GateState)
    (hr : lookup s.settings.gates k = some r) (ho : s.gate k = some old) :
    Ripple (s.withGate k (some new)) (s.changeGate k c new) :=
  ripple_changeGateWith (fun _ s => ripple_handOver s _ _) k c new s r old hr ho

theorem ripple_loweringTest (s : State) (k : Nat) : Ripple s (s.loweringTest k) := by
  unfold State.loweringTest
  split
  · rename_i r g hr hg
    split
    · rename_i hl
      have hw : g.position = .warning := by
        simp only [State.mayLower, Bool.and_eq_true, beq_iff_eq] at hl
        exact hl.1.1.1
      exact ripple_relatedChange (fun _ s => ripple_handOver s _ _) k _ _ s r g hr hg
        (gateRipple_of_movable _ _ (Or.inr hw) (Or.inr rfl) rfl)
    · exact .refl s
  · exact .refl s

theorem ripple_reviewHold (s : State) (k : Nat) : Ripple s (s.reviewHold k) := by
  unfold State.reviewHold
  split
  · rename_i r g hr hg
    split
    · rename_i hf
      refine (ripple_withGate s k g _ hg ?_).trans (ripple_loweringTest _ _)
      by_cases hm : movable g.position
      · exact gateRipple_of_movable _ _ hm (Or.inl hm) rfl
      · exact ⟨fun h => absurd h hm, fun _ => ⟨rfl, rfl, rfl⟩, fun _ h => by rw [h] at hf; cases hf⟩
    · exact .refl s
  · exact .refl s

theorem ripple_tellSign (s : State) (k : Nat) : Ripple s (s.tellSign k) :=
  Ripple.foldl (fun s x => ripple_reviewHold s x) _ s

/-! ## Settling -/

theorem ripple_settleRound (s : State) : Ripple s s.settleRound := by
  have h0 : Ripple s (s.withStrings { s.strings with tells := [] }) := .of_eq rfl rfl rfl rfl rfl
  exact (h0.trans (Ripple.foldl (fun s x => ripple_tellSign s x) _ _)).trans (ripple_runArbiters _)

/-- Settling ripples. -/
theorem ripple_settle (s : State) : Ripple s s.settle :=
  ((ripple_settleRound s).trans (ripple_settleRound _)).trans (ripple_settleRound _)

theorem ripple_handTouched (s : State) (ks : List Nat) : Ripple s (s.handTouched ks) := by
  unfold State.handTouched
  split
  · exact .refl s
  · exact ripple_handOver _ _ _

/-! ## Hand-overs that may add an autonomous notice -/

theorem ripple_withNotices (s : State) (l : List Notice) : Ripple s (s.withNotices l) := .of_eq rfl rfl rfl rfl rfl

theorem ripple_askClosure (s : State) (k : Nat) : Ripple s (s.askClosure k) := by
  unfold State.askClosure
  split
  · exact ((ripple_withNotices s _).trans (ripple_report _ _)).trans (ripple_handTouched _ _)
  · exact .refl s

theorem ripple_trigger (s : State) (k : Nat) : Ripple s (s.trigger k) :=
  Ripple.foldl (fun s x => ripple_askClosure s x) _ s

theorem ripple_handLevels (s : State) (rs : List Rise) : Ripple s (s.handLevels rs) := by
  unfold State.handLevels
  split
  · exact .refl s
  · exact ((ripple_reports s _).trans (ripple_handOver _ _ _)).trans
      (Ripple.foldl (fun s x => ripple_trigger s x) _ _)

end Sys2Proof.Laws
end

