-- ==== Sys2Proof/Laws/Reach.lean ====
section
/-! SUPPORT. What no reaction reaches: the outputs that no gate record names, and which segments are defined. `Reach`
says it once; every shared operation has its lemma. -/

namespace Sys2Proof.Laws

open Sys2Proof Sys2Proof.Machine

/-- A line that no gate record names as an output. -/
def Unowned (c : Settings) (l : Nat) : Prop := ∀ k r, lookup c.gates k = some r → l ≠ r.lower ∧ l ≠ r.raise ∧ l ≠ r.flasher

/-- Gate records, the segments that have a state and the outputs of no gate stay. -/
structure Reach (s t : State) : Prop where
  owners : t.settings.gates = s.settings.gates
  segments : ∀ k, (lookup t.segments k).isSome = (lookup s.segments k).isSome
  outputs : ∀ l, 1 ≤ l ∧ l ≤ 16 → Unowned s.settings l → levelAt t.field.outputs l = levelAt s.field.outputs l

theorem Reach.refl (s : State) : Reach s s := ⟨rfl, fun _ => rfl, fun _ _ _ => rfl⟩

theorem Reach.trans {s t u : State} (h : Reach s t) (k : Reach t u) : Reach s u := by
  refine ⟨k.owners.trans h.owners, fun i => (k.segments i).trans (h.segments i), fun l hl hu => ?_⟩
  have hu' : Unowned t.settings l := by
    unfold Unowned
    rw [h.owners]
    exact hu
  exact (k.outputs l hl hu').trans (h.outputs l hl hu)

theorem Reach.foldl {α : Type} {f : State → α → State} (hf : ∀ s x, Reach s (f s x)) (xs : List α) (s : State) :
    Reach s (xs.foldl f s) := by
  induction xs generalizing s with
  | nil => exact .refl s
  | cons x xs ih => exact (hf s x).trans (ih _)

theorem Reach.of_eq {s t : State} (hs : t.settings.gates = s.settings.gates) (hg : t.segments = s.segments)
    (ho : t.field.outputs = s.field.outputs) : Reach s t :=
  ⟨hs, fun k => by rw [hg], fun l _ _ => by rw [ho]⟩

/-! ## Updates -/

theorem reach_report (s : State) (b : ReportBody) : Reach s (s.report b) := .of_eq rfl rfl rfl
theorem reach_withGate (s : State) (k : Nat) (g : Option GateState) : Reach s (s.withGate k g) := .of_eq rfl rfl rfl
theorem reach_withSign (s : State) (k : Nat) (x : Option SignState) : Reach s (s.withSign k x) := .of_eq rfl rfl rfl
theorem reach_withStrings (s : State) (x : StringController) : Reach s (s.withStrings x) := .of_eq rfl rfl rfl
theorem reach_choiceTaken (s : State) : Reach s s.choiceTaken := .of_eq rfl rfl rfl
theorem reach_callArbiter (s : State) (x : StringId) : Reach s (s.callArbiter x) := .of_eq rfl rfl rfl
theorem reach_withNotices (s : State) (l : List Notice) : Reach s (s.withNotices l) := .of_eq rfl rfl rfl
theorem reach_withLine (s : State) (l : StationLine) : Reach s (s.withLine l) := .of_eq rfl rfl rfl

theorem reach_withTransfer (s : State) (x : StringId) (a : Option Attempt) : Reach s (s.withTransfer x a) := by
  cases x <;> exact .of_eq rfl rfl rfl

theorem reach_reports (s : State) (bs : List ReportBody) : Reach s (s.reports bs) := by
  rw [reports_eq_withLine]
  exact .of_eq rfl rfl rfl

/-- An order for a gate turns no other output. -/
theorem reach_applyOrder (s : State) (k : Nat) (r : GateRecord) (hr : lookup s.settings.gates k = some r)
    (p : GatePosition) : Reach s (s.applyOrder (r.order p)) := by
  refine ⟨rfl, fun _ => rfl, fun l hl hu => ?_⟩
  obtain ⟨h1, h2, h3⟩ := hu k r hr
  refine levelAt_order_other _ _ l hl ?_
  simp [GateRecord.order, h1, h2, h3]

/-! ## Arbiters and composing -/

theorem reach_beginAttempt (s : State) (x : StringId) (k n : Nat) : Reach s (s.beginAttempt x k n) := by
  unfold State.beginAttempt
  split
  · exact reach_withTransfer _ _ _
  · exact .refl s

theorem reach_beginDelivery (s : State) (k : Nat) (p : PanelRecord) : Reach s (s.beginDelivery k p) :=
  .of_eq rfl rfl rfl

theorem reach_grant (s : State) (x : StringId) (k : Nat) : Reach s (s.grant x k) := by
  unfold State.grant
  split
  · exact .refl s
  · split
    · exact reach_beginAttempt _ _ _ _
    · exact (reach_beginDelivery _ _ _).trans (reach_beginAttempt _ _ _ _)
    · exact (reach_beginDelivery _ _ _).trans (reach_beginAttempt _ _ _ _)
    · exact .refl s

theorem reach_arbitrate (s : State) (x : StringId) : Reach s (s.arbitrate x) := by
  unfold State.arbitrate
  split
  · exact .refl s
  · split
    · exact .refl s
    · exact reach_grant _ _ _

theorem reach_runArbiters (s : State) : Reach s s.runArbiters := by
  have h0 : Reach s (s.withStrings { s.strings with due := [] }) := reach_withStrings _ _
  unfold State.runArbiters
  dsimp only
  split
  · split
    · exact (h0.trans (reach_arbitrate _ _)).trans (reach_arbitrate _ _)
    · exact h0.trans (reach_arbitrate _ _)
  · split
    · exact h0.trans (reach_arbitrate _ _)
    · exact h0

theorem reach_recomposeSign (s : State) (k : Nat) : Reach s (s.recomposeSign k).1 := by
  unfold State.recomposeSign
  split
  · dsimp only
    split <;> exact reach_withSign _ _ _
  · exact .refl s

theorem reach_chooseNow (s : State) (x : StringId) : Reach s (s.chooseNow x) := by
  have h0 : Reach s (s.withStrings { s.strings with due := s.strings.due.filter fun y => y != x }) :=
    reach_withStrings _ _
  exact h0.trans (reach_arbitrate _ x)

theorem reach_mayChoose (s : State) (x : StringId) : Reach s (s.mayChoose x) := by
  unfold State.mayChoose
  split
  · split
    · exact reach_choiceTaken _
    · exact (reach_choiceTaken _).trans (reach_chooseNow _ x)
  · exact .refl s

theorem reach_handMarks (s : State) (ks : List Nat) : Reach s (s.handMarks ks) := by
  unfold State.handMarks
  split
  · exact .refl s
  · have h0 := Reach.foldl (fun s x => reach_callArbiter s x) (s.settings.stringsOf ks) s
    exact (h0.trans (reach_mayChoose _ .a)).trans (reach_mayChoose _ .b)

theorem reach_recomposeAll (ks marked : List Nat) (s : State) : Reach s (State.recomposeAll ks marked s).1 := by
  induction ks generalizing s marked with
  | nil => exact .refl s
  | cons k ks ih =>
    unfold State.recomposeAll
    exact (reach_recomposeSign s k).trans (ih _ _)

theorem reach_recompose (s : State) (ks : List Nat) : Reach s (s.recompose ks) :=
  (reach_recomposeAll ks [] s).trans (reach_handMarks _ _)

/-! ## Segments and gates -/

/-- A re-derivation replaces records of segments that have one. -/
theorem reach_rederived (s : State) (ks : List Nat) :
    Reach s (s.withSegments ((s.rederive ks).foldl (fun v d => putItem v d.segment (some d.after)) s.segments)) := by
  refine ⟨rfl, fun k => ?_, fun _ _ _ => rfl⟩
  show (lookup ((s.rederive ks).foldl (fun v d => putItem v d.segment (some d.after)) s.segments) k).isSome = _
  have hm : ∀ d ∈ s.rederive ks, (lookup s.segments d.segment).isSome = true := by
    intro d hd
    obtain ⟨j, _, hj⟩ := List.mem_filterMap.mp hd
    revert hj
    split
    · rename_i ho
      intro hj
      cases hj
      rw [ho]
      rfl
    · intro hj
      cases hj
  generalize s.rederive ks = ds at hm
  generalize hv : s.segments = v at hm
  clear hv
  induction ds generalizing v with
  | nil => rfl
  | cons d ds ih =>
    have hd := hm d (List.mem_cons_self ..)
    obtain ⟨g, hg⟩ := Option.isSome_iff_exists.mp hd
    have hb := lookup_bounds _ hg
    have hstep : ∀ j, (lookup (putItem v d.segment (some d.after)) j).isSome = (lookup v j).isSome := by
      intro j
      by_cases hj : j = d.segment
      · subst hj
        rw [lookup_putItem_self _ _ hb.1 hb.2, hg]
        rfl
      · rw [lookup_putItem_ne _ _ hj]
    rw [List.foldl_cons, ih (putItem v d.segment (some d.after))
      (fun e he => by rw [hstep]; exact hm e (List.mem_cons_of_mem _ he)), hstep]

theorem reach_evaluate (s : State) (ks : List Nat) : Reach s (s.evaluate ks).1 := by
  unfold State.evaluate
  dsimp only
  split
  · exact (reach_rederived s _).trans (reach_reports _ _)
  · exact ((reach_rederived s _).trans (reach_reports _ _)).trans (reach_recompose _ _)

theorem reach_changeGateWith {f : GateRecord → State → State} (hf : ∀ r s, Reach s (f r s)) (k : Nat)
    (c : GateCause) (g : GateState) (s : State) : Reach s (s.changeGateWith f k c g) := by
  unfold State.changeGateWith
  split
  · rename_i r old hr _
    have h1 : Reach s (if old.position = g.position then s.withGate k (some g)
        else (s.withGate k (some g)).report
          (.gate k (some old.position) (some g.position) g.reversals c)) := by
      split
      · exact reach_withGate _ _ _
      · exact (reach_withGate s k (some g)).trans (reach_report _ _)
    dsimp only
    generalize (if old.position = g.position then s.withGate k (some g)
        else (s.withGate k (some g)).report
          (.gate k (some old.position) (some g.position) g.reversals c)) = u at h1 ⊢
    split
    · exact h1
    · exact (h1.trans (reach_applyOrder u k r (by rw [h1.owners]; exact hr) _)).trans (hf _ _)
  · exact .refl s

theorem reach_handOnQuiet (r : GateRecord) (s : State) : Reach s (handOnQuiet r s) :=
  (reach_evaluate s _).trans (reach_recompose _ _)

theorem reach_answerTell (s : State) (x : Nat × Bool) : Reach s (s.answerTell x) := by
  unfold State.answerTell
  split
  · split
    · exact reach_changeGateWith reach_handOnQuiet _ _ _ _
    · exact reach_changeGateWith reach_handOnQuiet _ _ _ _
    · exact .refl s
  · exact .refl s

theorem reach_answerTells (s : State) (xs : List (Nat × Bool)) : Reach s (s.answerTells xs) :=
  Reach.foldl (fun s x => reach_answerTell s x) xs s

theorem reach_handOver (s : State) (ks signs : List Nat) : Reach s (s.handOver ks signs) := by
  unfold State.handOver
  dsimp only
  split
  · exact (reach_evaluate s ks).trans (reach_answerTells _ _)
  · exact ((reach_evaluate s ks).trans (reach_recompose _ _)).trans (reach_answerTells _ _)

theorem reach_changeGate (s : State) (k : Nat) (c : GateCause) (g : GateState) : Reach s (s.changeGate k c g) :=
  reach_changeGateWith (fun _ s => reach_handOver s _ _) k c g s

theorem reach_loweringTest (s : State) (k : Nat) : Reach s (s.loweringTest k) := by
  unfold State.loweringTest
  split
  · split
    · exact reach_changeGate _ _ _ _
    · exact .refl s
  · exact .refl s

theorem reach_reviewHold (s : State) (k : Nat) : Reach s (s.reviewHold k) := by
  unfold State.reviewHold
  split
  · split
    · exact (reach_withGate s _ _).trans (reach_loweringTest _ _)
    · exact .refl s
  · exact .refl s

theorem reach_tellSign (s : State) (k : Nat) : Reach s (s.tellSign k) :=
  Reach.foldl (fun s x => reach_reviewHold s x) _ s

/-! ## Change events of a gate's lines -/

theorem reach_bothSwitches (s : State) (k : Nat) (g : GateState) : Reach s (s.bothSwitches k g) := by
  unfold State.bothSwitches
  split
  · exact reach_changeGate _ _ _ _
  · exact .refl s

theorem reach_downSwitchRose (s : State) (k : Nat) : Reach s (s.downSwitchRose k) := by
  unfold State.downSwitchRose
  split
  · split
    · exact reach_bothSwitches _ _ _
    · split <;> first
        | exact reach_changeGate _ _ _ _
        | exact .refl s
  · exact .refl s

theorem reach_upSwitchRose (s : State) (k : Nat) : Reach s (s.upSwitchRose k) := by
  have hfound : ∀ r g, Reach s (s.foundUp k r g) := by
    intro r g
    unfold State.foundUp
    split <;> exact reach_changeGate _ _ _ _
  have hlimit : ∀ r g kind, Reach s (s.upLimit k r g kind) := by
    intro r g kind
    unfold State.upLimit
    split
    · cases kind
      · exact reach_changeGate _ _ _ _
      · exact (reach_changeGate _ _ _ _).trans (reach_loweringTest _ _)
    · exact reach_changeGate _ _ _ _
  unfold State.upSwitchRose
  split
  · split
    · exact reach_bothSwitches _ _ _
    · split <;> first
        | exact hlimit _ _ _
        | exact reach_changeGate _ _ _ _
        | exact hfound _ _
        | exact .refl s
  · exact .refl s

theorem reach_presenceRose (s : State) (k : Nat) : Reach s (s.presenceRose k) := by
  unfold State.presenceRose
  split
  · split
    · split <;> exact reach_changeGate _ _ _ _
    · exact .refl s
  · exact .refl s

theorem reach_keyRose (s : State) (k : Nat) : Reach s (s.keyRose k) := reach_changeGate _ _ _ _

theorem reach_keyFell (s : State) (k : Nat) : Reach s (s.keyFell k) := by
  unfold State.keyFell
  split
  · split
    · exact reach_changeGate _ _ _ _
    · exact .refl s
  · exact .refl s

theorem reach_travelExpired (s : State) (k : Nat) : Reach s (s.travelExpired k) := by
  unfold State.travelExpired
  split
  · exact reach_changeGate _ _ _ _
  · exact .refl s

/-! ## Settling and hand-overs -/

theorem reach_settleRound (s : State) : Reach s s.settleRound := by
  have h0 : Reach s (s.withStrings { s.strings with tells := [] }) := reach_withStrings _ _
  exact (h0.trans (Reach.foldl (fun s x => reach_tellSign s x) _ _)).trans (reach_runArbiters _)

/-- Settling reaches no further. -/
theorem reach_settle (s : State) : Reach s s.settle :=
  ((reach_settleRound s).trans (reach_settleRound _)).trans (reach_settleRound _)

theorem reach_handTouched (s : State) (ks : List Nat) : Reach s (s.handTouched ks) := by
  unfold State.handTouched
  split
  · exact .refl s
  · exact reach_handOver _ _ _

theorem reach_askClosure (s : State) (k : Nat) : Reach s (s.askClosure k) := by
  unfold State.askClosure
  split
  · exact ((reach_withNotices s _).trans (reach_report _ _)).trans (reach_handTouched _ _)
  · exact .refl s

theorem reach_trigger (s : State) (k : Nat) : Reach s (s.trigger k) :=
  Reach.foldl (fun s x => reach_askClosure s x) _ s

theorem reach_handLevels (s : State) (rs : List Rise) : Reach s (s.handLevels rs) := by
  unfold State.handLevels
  split
  · exact .refl s
  · exact ((reach_reports s _).trans (reach_handOver _ _ _)).trans
      (Reach.foldl (fun s x => reach_trigger s x) _ _)

theorem reach_kick (s : State) : Reach s s.kick := by
  obtain ⟨tr, buf, h, -⟩ := kick_transmits s
  rw [h]
  exact reach_withLine _ _

/-- After an effect: what it left, and what no reaction reaches. -/
theorem reach_react (f : State → State) (s : State) : Reach (f s) (s.react f) :=
  (reach_settle (f s)).trans (reach_kick _)

end Sys2Proof.Laws
end

