-- ==== Sys2Proof/Laws/Commands.lean ====
section
/-! SUPPORT. What every command comes to, said once: from the state its effect leaves, the blocks settle, a reply is
placed and the transmitter goes on. `Follows` collects what that can do; a settled effect stays exactly as it is. -/

namespace Sys2Proof.Laws

open Sys2Proof Sys2Proof.Machine

/-! ## The records of the buffer -/

/-- What a joining record does to the records depends on the records alone, not on their marks. -/
theorem joinBuffer_records {b c : List Buffered} (h : b.map Buffered.record = c.map Buffered.record) (r q : Buffered)
    (hr : r.record = q.record) : (joinBuffer b r).map Buffered.record = (joinBuffer c q).map Buffered.record := by
  have hw : ∀ l : List Buffered, l.any Buffered.isWeather = (l.map Buffered.record).any fun x => x.body.isWeather := by
    intro l
    rw [List.any_map]
    rfl
  have he : ∀ l : List Buffered, (l.eraseP Buffered.isWeather).map Buffered.record =
      (l.map Buffered.record).eraseP fun x => x.body.isWeather := by
    intro l
    rw [List.eraseP_map]
    rfl
  have hl : b.length = c.length := by simpa using congrArg List.length h
  have hd : (discardOne b).map Buffered.record = (discardOne c).map Buffered.record := by
    unfold discardOne
    rw [hw, hw, h]
    split
    · rw [he, he, h]
    · rw [List.map_drop, List.map_drop, h]
  unfold joinBuffer
  rw [hl, List.map_append, List.map_append, List.map_singleton, List.map_singleton, hr]
  split
  · rw [h]
  · rw [hd]

/-- The records and the next sequence number of a line. -/
def recordsOf (l : StationLine) : List ReportRecord × Nat := (l.buffer.map Buffered.record, l.nextSequence)

/-- What queueing reports does to records and sequence number depends on them and the clock alone. -/
theorem reports_records (bs : List ReportBody) (s t : State) (hl : recordsOf s.line = recordsOf t.line)
    (hc : s.retained.clock = t.retained.clock) : recordsOf (s.reports bs).line = recordsOf (t.reports bs).line := by
  induction bs generalizing s t with
  | nil => exact hl
  | cons b bs ih =>
    rw [reports_cons, reports_cons]
    refine ih _ _ ?_ hc
    obtain ⟨h1, h2⟩ := Prod.mk.inj hl
    unfold recordsOf
    rw [report_line, report_line, hc, h2]
    dsimp only
    exact congrArg (fun x => (x, (t.line.nextSequence + 1) % 65536)) (joinBuffer_records h1 _ _ rfl)

/-! ## What follows an effect -/

/-- What settling, placing a reply and going on with the transmitter leave of the line. -/
structure LineFollows (u t : State) : Prop where
  receiver : t.line.receiver = u.line.receiver
  lastByte : t.line.lastByte = u.line.lastByte
  inbound : t.line.inbound = u.line.inbound
  carrying : t.line.carrying = u.line.carrying
  restartDue : t.line.restartDue = u.line.restartDue
  lastValid : t.line.lastValid = u.line.lastValid
  attended : t.line.attended = u.line.attended
  records : ∃ bs, recordsOf t.line = recordsOf (u.reports bs).line

/-- What follows an effect: the still part stays, reports are queued, and the road reacts. -/
structure Follows (u t : State) : Prop where
  still : still t = still u
  line : LineFollows u t
  ripple : Ripple u t
  reach : Reach u t

theorem Follows.of_reaction {u t : State} (h : Reaction u t) (hr : Ripple u t) (hc : Reach u t) : Follows u t :=
  ⟨h.1, ⟨h.receiver, h.lastByte, h.inbound, h.carrying, h.restartDue, h.lastValid, h.attended, by
    obtain ⟨bs, hb⟩ := h.2
    exact ⟨bs, by rw [hb]⟩⟩, hr, hc⟩

theorem follows_settle (u : State) : Follows u u.settle :=
  .of_reaction (reaction_settle u) (ripple_settle u) (reach_settle u)

/-- Transmitter, outbox, marks and order choices may change. -/
theorem Follows.relined {u t : State} (h : Follows u t) (tr : Transmitter) (ob : List Reply) (buf : List Buffered)
    (sch : Nat) (hb : buf.map Buffered.record = t.line.buffer.map Buffered.record) :
    Follows u ((t.withSchedule sch).withLine { t.line with outbox := ob, transmitter := tr, buffer := buf }) := by
  refine ⟨h.still, ⟨h.line.receiver, h.line.lastByte, h.line.inbound, h.line.carrying, h.line.restartDue,
    h.line.lastValid, h.line.attended, ?_⟩, h.ripple.trans (.of_eq rfl rfl rfl rfl rfl),
    h.reach.trans (.of_eq rfl rfl rfl)⟩
  obtain ⟨bs, he⟩ := h.line.records
  refine ⟨bs, ?_⟩
  rw [← he]
  unfold recordsOf
  show (buf.map Buffered.record, t.line.nextSequence) = _
  rw [hb]

theorem Follows.trans {s t u : State} (h : Follows s t) (k : Follows t u) : Follows s u := by
  refine ⟨k.still.trans h.still, ⟨k.line.receiver.trans h.line.receiver, k.line.lastByte.trans h.line.lastByte,
    k.line.inbound.trans h.line.inbound, k.line.carrying.trans h.line.carrying,
    k.line.restartDue.trans h.line.restartDue, k.line.lastValid.trans h.line.lastValid,
    k.line.attended.trans h.line.attended, ?_⟩, h.ripple.trans k.ripple, h.reach.trans k.reach⟩
  obtain ⟨bs, hb⟩ := h.line.records
  obtain ⟨cs, hc⟩ := k.line.records
  refine ⟨bs ++ cs, ?_⟩
  rw [reports_append, hc]
  refine reports_records cs _ _ hb ?_
  have h1 : t.retained.clock = s.retained.clock := congrArg (fun x => x.retained.clock) h.still
  rw [h1, reports_eq_withLine bs s]
  rfl

/-- What an effect of a released part comes to; the outbox is the effect's. -/
theorem react_follows (f : State → State) (s : State) :
    Follows (f s) (s.react f) ∧ (s.react f).line.outbox = (f s).line.outbox := by
  have hf := follows_settle (f s)
  have ho := (reaction_settle (f s)).outbox
  show Follows (f s) (f s).settle.kick ∧ (f s).settle.kick.line.outbox = (f s).line.outbox
  generalize (f s).settle = u at hf ho ⊢
  obtain ⟨tr, buf, h, hb⟩ := kick_transmits u
  rw [h]
  exact ⟨hf.relined tr u.line.outbox buf u.schedule hb, ho⟩

/-- An effect after which no block has anything to settle stays, but for transmitter and marks. -/
theorem react_exact (f : State → State) (s : State) (hd : (f s).strings.due = []) (ht : (f s).strings.tells = []) :
    ∃ tr buf, s.react f = (f s).withLine { (f s).line with transmitter := tr, buffer := buf } ∧
      buf.map Buffered.record = (f s).line.buffer.map Buffered.record := by
  have h : s.react f = (f s).kick := by
    unfold State.react
    rw [settle_of_empty _ hd ht]
  rw [h]
  exact kick_transmits (f s)

/-! ## Requests (R184) -/

/-- What a taken request comes to from the state its carrying out leaves, with its reply last in the outbox. -/
theorem request_follows (t : Moment) (kind tag : Byte) (fields : List Byte) (f : State → State × Answer) (s : State)
    (hp : s.powered = true) (ht : s.takes ⟨kind, tag :: fields⟩ = true) :
    ∃ v, request t kind tag fields f s = .next v ∧ Follows (f (s.elapse t).popFrame).1 v ∧
      v.line.outbox = (f (s.elapse t).popFrame).1.line.outbox ++ [⟨tag, kind, (f (s.elapse t).popFrame).2⟩] := by
  refine ⟨_, request_taken t kind tag fields f s hp ht, ?_, request_outbox kind tag f (s.elapse t)⟩
  obtain ⟨tr, buf, sch, h, hb⟩ := carryOut_eq kind tag f (s.elapse t)
  refine Follows.trans ?_ (react_follows (fun s => s.carryOut kind tag f) (s.elapse t)).1
  show Follows (f (s.elapse t).popFrame).1 ((s.elapse t).carryOut kind tag f)
  rw [h]
  exact (follows_settle _).relined tr _ buf sch hb

/-- A taken request whose carrying out leaves nothing to settle: the state it leaves, with its reply last in the outbox,
but for transmitter, marks and order choices. -/
theorem request_exact (t : Moment) (kind tag : Byte) (fields : List Byte) (f : State → State × Answer) (s : State)
    (hp : s.powered = true) (ht : s.takes ⟨kind, tag :: fields⟩ = true)
    (hd : (f (s.elapse t).popFrame).1.strings.due = []) (hs : (f (s.elapse t).popFrame).1.strings.tells = []) :
    ∃ tr buf sch, request t kind tag fields f s = .next (((f (s.elapse t).popFrame).1.withSchedule sch).withLine
        { (f (s.elapse t).popFrame).1.line with
          outbox := (f (s.elapse t).popFrame).1.line.outbox ++ [⟨tag, kind, (f (s.elapse t).popFrame).2⟩]
          transmitter := tr
          buffer := buf }) ∧
      buf.map Buffered.record = (f (s.elapse t).popFrame).1.line.buffer.map Buffered.record := by
  obtain ⟨tr, buf, sch, h, hb⟩ := carryOut_eq kind tag f (s.elapse t)
  rw [settle_of_empty _ hd hs] at h hb
  have hd' : ((s.elapse t).carryOut kind tag f).strings.due = [] := by rw [h]; exact hd
  have hs' : ((s.elapse t).carryOut kind tag f).strings.tells = [] := by rw [h]; exact hs
  obtain ⟨tr', buf', hr, hb'⟩ := react_exact (fun s => s.carryOut kind tag f) (s.elapse t) hd' hs'
  refine ⟨tr', buf', sch, ?_, ?_⟩
  · rw [request_taken t kind tag fields f s hp ht, hr, h]
    rfl
  · rw [hb', h]
    exact hb

end Sys2Proof.Laws
end

