-- ==== Sys2Proof/Laws/Claims.lean ====
section
/-! SUPPORT. How the statements' frames follow from what every command comes to: a frame over the effect carries over to
the state after the command, and so does the reach of the reactions. -/

namespace Sys2Proof.Laws

open Sys2Proof Sys2Proof.Machine Sys2Proof.Claims

/-! ## Requests and reports -/

/-- A ready request is taken. -/
theorem takes_of_ready {s : State} {kind tag : Byte} {f : List Byte} (h : Ready s kind tag f) :
    s.takes ⟨kind, tag :: f⟩ = true := by
  obtain ⟨-, h2, h3, h4⟩ := h
  simp [State.takes, State.canTake, h2, h3, h4]

/-- Reports queued by the effect stand first. -/
theorem reportedFirst_of_follows {bs : List ReportBody} {s u t : State}
    (hu : recordsOf u.line = recordsOf (s.reports bs).line) (hc : u.retained.clock = s.retained.clock)
    (h : Follows u t) : ReportedFirst bs s t := by
  obtain ⟨cs, he⟩ := h.line.records
  refine ⟨cs, ?_⟩
  have : recordsOf t.line = recordsOf (s.reports (bs ++ cs)).line := by
    rw [he, reports_append]
    refine reports_records cs _ _ hu ?_
    rw [hc, reports_eq_withLine bs s]
    rfl
  exact Prod.mk.inj this

/-- Nothing reported by the effect, and nothing after it. -/
theorem reported_of_records {bs : List ReportBody} {s t : State}
    (h : recordsOf t.line = recordsOf (s.reports bs).line) : Reported bs s t := Prod.mk.inj h

/-! ## Frames -/

theorem Frame.refl (c : List Part) (s : State) : Frame c s s := by
  intro p _
  cases p <;> unfold Stays <;> simp only [and_self]

theorem Frame.mono {c d : List Part} {s t : State} (h : Frame c s t) (hs : ∀ p ∈ c, p ∈ d) : Frame d s t :=
  fun p hp => h p fun hc => hp (hs p hc)

/-- A frame over the effect carries over what follows it, where it leaves out all that a reaction touches. -/
theorem frame_of_follows {c : List Part} {s u t : State} (hF : Frame c s u) (h : Follows u t)
    (hc : ∀ p ∈ always ++ road, p ∈ c) (ho : .outbox ∈ c ∨ t.line.outbox = u.line.outbox) : Frame c s t := by
  have hst := h.still
  have hsettings : t.settings = u.settings := congrArg (fun x => x.store.working) hst
  intro p hp
  have hin : p ∉ always ++ road := fun hm => hp (hc p hm)
  have hu := hF p hp
  cases p <;> first
    | exact absurd (show (_ : Part) ∈ always ++ road by decide) hin
    | exact (congrArg Still.pending hst).trans hu
    | exact (congrArg Still.powered hst).trans hu
    | exact (congrArg Still.lastStart hst).trans hu
    | exact (congrArg (fun x : Still => x.retained.checkHolds) hst).trans hu
    | exact (congrArg Still.lines hst).trans hu
    | exact (congrArg Still.inputs hst).trans hu
    | exact (congrArg Still.channels hst).trans hu
    | exact (congrArg Still.clearZones hst).trans hu
    | exact (congrArg Still.weather hst).trans hu
    | exact ⟨(congrArg (fun x : Still => x.retained.lastTemp) hst).trans hu.1,
        (congrArg (fun x : Still => x.retained.prevSector) hst).trans hu.2⟩
    | exact ⟨(congrArg Still.temp hst).trans hu.1, (congrArg Still.wind hst).trans hu.2⟩
    | exact (congrArg (fun x : Still => x.retained.clock) hst).trans hu
    | exact (congrArg Still.clockNext hst).trans hu
    | exact (congrArg (fun x : Still => x.retained.paths) hst).trans hu
    | exact (congrArg (fun x : Still => x.retained.notices) hst).trans hu
    | exact ⟨h.line.receiver.trans hu.1, h.line.lastByte.trans hu.2⟩
    | exact h.line.inbound.trans hu
    | exact h.line.carrying.trans hu
    | exact h.line.restartDue.trans hu
    | exact (ho.resolve_left hp).trans hu
    | exact h.line.lastValid.trans hu
    | exact h.line.attended.trans hu
    | exact (congrArg (fun x : Settings => x.calibration) hsettings).trans hu
    | exact (congrArg (fun x : Settings => x.paths) hsettings).trans hu
    | exact (congrArg (fun x : Settings => x.segments) hsettings).trans hu
    | exact (congrArg (fun x : Settings => x.gates) hsettings).trans hu
    | exact (congrArg (fun x : Settings => x.signs) hsettings).trans hu
    | exact (congrArg (fun x : Settings => x.profiles) hsettings).trans hu
    | exact (congrArg (fun x : Settings => x.groups) hsettings).trans hu
    | exact (congrArg (fun x : Settings => x.texts) hsettings).trans hu
    | exact ⟨(congrArg (fun x : Settings => x.silenceLimit) hsettings).trans hu.1,
        (congrArg (fun x : Settings => x.autoClose) hsettings).trans hu.2⟩
    | exact (congrArg (fun x : Still => x.store.saved) hst).trans hu
    | exact ⟨(congrArg (fun x : Still => x.store.write) hst).trans hu.1,
        (congrArg (fun x : Still => x.store.writes) hst).trans hu.2⟩

/-! ## Reactions -/

theorem gateMay_of_ripple {g h : GateState} (r : GateRipple g h) : GateMay g h := by
  obtain ⟨h1, h2, h3⟩ := r
  refine ⟨?_, ?_, ?_⟩
  · by_cases hm : movable g.position
    · exact (h1 hm).2
    · exact (h2 hm).2.1
  · intro hm
    rcases (h1 hm).1 with (hu | hw) | hl
    · exact Or.inl hu
    · exact Or.inr (Or.inl hw)
    · exact Or.inr (Or.inr hl)
  · intro hu hw
    have hm : ¬ movable g.position := fun hm => hm.elim hu hw
    exact ⟨(h2 hm).1, (h2 hm).2.2, fun hf => h3 hm hf⟩

/-- From both sides of a related pair: absent stays absent, present stays present and related. -/
theorem both_spread {α : Type} {R : α → α → Prop} {a b : Option α} (h : Both R a b) :
    (a = none → b = none) ∧ ∀ x, a = some x → ∃ y, b = some y ∧ R x y := by
  cases a <;> cases b
  · exact ⟨id, fun x e => by cases e⟩
  · exact absurd h id
  · exact absurd h id
  · rename_i x y
    exact ⟨fun e => by (cases e), fun z e => by
      cases e
      exact ⟨y, rfl, h⟩⟩

/-- What follows an effect that left the road as it was, but for some gates, panels, pages and strings, is a reaction
with those left out. -/
theorem reacts_of_follows {gs ps pgs : List Nat} {xs : List StringId} {s u t : State} (h : Follows u t)
    (hg : ∀ k, k ∉ gs → u.gate k = s.gate k) (hp : ∀ k, k ∉ ps → u.panel k = s.panel k)
    (hpg : ∀ k, k ∉ pgs → u.sign k = s.sign k) (hx : ∀ x, x ∉ xs → u.transfer x = s.transfer x)
    (ho : ∀ l, 1 ≤ l → l ≤ 16 →
      (∀ k r, lookup s.settings.gates k = some r ∨ lookup u.settings.gates k = some r → l ∉ r.outputs) →
        levelAt u.field.outputs l = levelAt s.field.outputs l)
    (hs : ∀ k, (lookup u.settings.segments k).isSome = (lookup s.settings.segments k).isSome →
      (lookup u.segments k).isSome = (lookup s.segments k).isSome) : Reacts gs ps pgs xs s t := by
  have hset : t.settings = u.settings := congrArg (fun x => x.store.working) h.still
  refine ⟨fun k hk => ?_, fun l h1 h2 hu => ?_, fun k hk => ?_, fun k hk => ?_, fun k hk => ?_, fun x hk a ha => ?_⟩
  · have := both_spread (h.ripple.gates k)
    rw [hg k hk] at this
    exact ⟨this.1, fun g e => by
      obtain ⟨y, h1, h2⟩ := this.2 g e
      exact ⟨y, h1, gateMay_of_ripple h2⟩⟩
  · rw [h.reach.outputs l ⟨h1, h2⟩ ?_, ho l h1 h2 ?_]
    · intro k r hr
      exact hu k r (by rwa [hset])
    · intro k r hr
      have := hu k r (Or.inr (by rwa [hset]))
      simpa [GateRecord.outputs] using this
  · rw [h.reach.segments k, hs k (by rw [← hk, hset])]
  · have := both_spread (h.ripple.panels k)
    rw [hp k hk] at this
    exact this
  · have := both_spread (h.ripple.signs k)
    rw [hpg k hk] at this
    exact this
  · exact h.ripple.transfers x a (by rw [hx x hk, ha])

/-! ## Frames of updates, and requests that leave nothing to settle -/

theorem Frame.trans {c d : List Part} {s u t : State} (h : Frame c s u) (k : Frame d u t) : Frame (c ++ d) s t := by
  intro p hp
  have h1 := h p fun hc => hp (List.mem_append_left _ hc)
  have h2 := k p fun hc => hp (List.mem_append_right _ hc)
  cases p <;> first
    | exact Eq.trans h2 h1
    | exact ⟨h2.1.trans h1.1, h2.2.trans h1.2⟩

theorem frame_relined (u : State) (tr : Transmitter) (ob : List Reply) (buf : List Buffered) (sch : Nat) :
    Frame [.transmitter, .outbox, .reports, .choices] u
      ((u.withSchedule sch).withLine { u.line with outbox := ob, transmitter := tr, buffer := buf }) := by
  intro p hp
  cases p <;> first
    | exact absurd (show (_ : Part) ∈ [Part.transmitter, .outbox, .reports, .choices] by decide) hp
    | exact Eq.refl _
    | exact ⟨Eq.refl _, Eq.refl _⟩

theorem frame_elapse (m : Moment) (s : State) : Frame [.moment] s (s.elapse m) := by
  intro p hp
  cases p <;> first
    | exact absurd (show (_ : Part) ∈ [Part.moment] by decide) hp
    | exact Eq.refl _
    | exact ⟨Eq.refl _, Eq.refl _⟩

theorem frame_popped (m : Moment) (s : State) : Frame [.moment, .inbound] s (s.elapse m).popFrame := by
  intro p hp
  cases p <;> first
    | exact absurd (show (_ : Part) ∈ [Part.moment, .inbound] by decide) hp
    | exact Eq.refl _
    | exact ⟨Eq.refl _, Eq.refl _⟩

/-- A taken request that leaves nothing to settle. -/
theorem request_plain (m : Moment) (kind tag : Byte) (f : List Byte) (F : State → State × Answer) (s : State)
    (hr : Ready s kind tag f) (hd : (F (s.elapse m).popFrame).1.strings.due = [])
    (ht : (F (s.elapse m).popFrame).1.strings.tells = []) :
    ∃ t, request m kind tag f F s = .next t ∧
      Frame [.transmitter, .outbox, .reports, .choices] (F (s.elapse m).popFrame).1 t ∧
      recordsOf t.line = recordsOf (F (s.elapse m).popFrame).1.line ∧
      t.line.outbox = (F (s.elapse m).popFrame).1.line.outbox ++ [⟨tag, kind, (F (s.elapse m).popFrame).2⟩] := by
  obtain ⟨tr, buf, sch, h, hb⟩ := request_exact m kind tag f F s hr.1 (takes_of_ready hr) hd ht
  refine ⟨_, h, frame_relined _ _ _ _ _, ?_, rfl⟩
  exact congrArg (fun x => (x, _)) hb

/-- A taken request that changes some parts and leaves nothing to settle. -/
theorem request_quiet (m : Moment) (kind tag : Byte) (f : List Byte) (F : State → State × Answer) (s u : State)
    (a : Answer) (also : List Part) (hr : Ready s kind tag f) (hs : s.Settled) (hF : F (s.elapse m).popFrame = (u, a))
    (hf : Frame also (s.elapse m).popFrame u)
    (ha : .arbiters ∉ also ∧ .moment ∉ also ∧ .inbound ∉ also ∧ .outbox ∉ also ∧ .reports ∉ also) :
    ∃ t, request m kind tag f F s = .next t ∧ Passed m s t ∧ Answered s t kind tag a ∧
      Frame [.transmitter, .outbox, .reports, .choices] u t ∧ Quiet ([.inbound, .outbox] ++ also) s t := by
  have h1 := hf .arbiters ha.1
  have h2 : u.now = _ := hf .moment ha.2.1
  have h3 : u.line.inbound = _ := hf .inbound ha.2.2.1
  have h4 : u.line.outbox = _ := hf .outbox ha.2.2.2.1
  have h5 := hf .reports ha.2.2.2.2
  have hd : (F (s.elapse m).popFrame).1.strings.due = [] := by rw [hF]; exact h1.1.trans hs.1
  have ht : (F (s.elapse m).popFrame).1.strings.tells = [] := by rw [hF]; exact h1.2.trans hs.2
  obtain ⟨t, e, g1, g2, g3⟩ := request_plain m kind tag f F s hr hd ht
  rw [hF] at g1 g2 g3
  refine ⟨t, e, (g1 .moment (by decide)).trans h2, ⟨(g1 .inbound (by decide)).trans h3, by rw [g3, h4]; rfl⟩, g1, ?_, ?_⟩
  · refine Frame.mono (Frame.trans (Frame.trans (frame_popped m s) hf) g1) ?_
    intro p hp
    simp only [List.mem_append, List.mem_cons, List.not_mem_nil, or_false, always] at hp ⊢
    tauto
  · refine Prod.mk.inj (g2.trans ?_)
    exact Prod.ext (congrArg (List.map Buffered.record) h5.1) h5.2

theorem request_same (m : Moment) (kind tag : Byte) (f : List Byte) (F : State → State × Answer) (s : State)
    (a : Answer) (hr : Ready s kind tag f) (hs : s.Settled) (hF : F (s.elapse m).popFrame = ((s.elapse m).popFrame, a)) :
    ∃ t, request m kind tag f F s = .next t ∧ Passed m s t ∧ Answered s t kind tag a ∧ Quiet [.inbound, .outbox] s t := by
  obtain ⟨t, h1, h2, h3, -, h5⟩ := request_quiet m kind tag f F s _ a [] hr hs hF (Frame.refl _ _) (by decide)
  exact ⟨t, h1, h2, h3, h5⟩

theorem within_iff (a b n : Nat) : within a b n = true ↔ a ≤ n ∧ n ≤ b := by simp [within]

theorem queryItem_eq {α : Type} {n : Nat} (f : List Byte) (table : Vector (Option α) n) (reply : Nat → α → List Byte)
    (s : State) (h : f.length = 1) (h1 : 1 ≤ byteAt f 0) (h2 : byteAt f 0 ≤ n) :
    queryItem f table reply s = (s, match lookup table (byteAt f 0) with
        | some r => .done (reply (byteAt f 0) r)
        | none => .refused .unknownItem .noReason) := by
  unfold queryItem
  rw [if_neg (by simp [h]), if_neg (by simp [within_iff, h1, h2])]
  cases lookup table (byteAt f 0) <;> rfl

/-! ## A gate changes -/

theorem frame_withGate (s : State) (k : Nat) (g : Option GateState) : Frame [.gates] s (s.withGate k g) := by
  intro p hp
  cases p <;> first
    | exact absurd (show (_ : Part) ∈ [Part.gates] by decide) hp
    | exact Eq.refl _
    | exact ⟨Eq.refl _, Eq.refl _⟩

theorem frame_report (s : State) (b : ReportBody) : Frame [.reports] s (s.report b) := by
  intro p hp
  cases p <;> first
    | exact absurd (show (_ : Part) ∈ [Part.reports] by decide) hp
    | exact Eq.refl _
    | exact ⟨Eq.refl _, Eq.refl _⟩

theorem frame_applyOrder (s : State) (o : List (Nat × Bool)) : Frame [.outputs] s (s.applyOrder o) := by
  intro p hp
  cases p <;> first
    | exact absurd (show (_ : Part) ∈ [Part.outputs] by decide) hp
    | exact Eq.refl _
    | exact ⟨Eq.refl _, Eq.refl _⟩

theorem follows_handOver (s : State) (ks signs : List Nat) : Follows s (s.handOver ks signs) :=
  .of_reaction (reaction_handOver s ks signs) (ripple_handOver s ks signs) (reach_handOver s ks signs)

theorem Follows.refl (s : State) : Follows s s := .of_reaction (.refl s) (.refl s) (.refl s)

theorem code_ne {a b : GatePosition} (h : a.sameState b = false) : a ≠ b := by
  rintro rfl; simp [GatePosition.sameState] at h

/-- The state a change of a gate leaves before it is handed on. -/
def midGate (k : Nat) (r : GateRecord) (cause : GateCause) (old new : GateState) (s : State) : State :=
  let s := (s.withGate k (some new)).reports (gateReport k old new cause)
  if old.position.sameState new.position then s else s.applyOrder (r.order new.position)

theorem follows_changeGate {s : State} {k : Nat} {r : GateRecord} {g : GateState} (cause : GateCause) (new : GateState)
    (hr : lookup s.settings.gates k = some r) (hg : s.gate k = some g) :
    Follows (midGate k r cause g new s) (s.changeGate k cause new) := by
  have : s.changeGate k cause new = if g.position.sameState new.position then midGate k r cause g new s
      else handOnGate r (midGate k r cause g new s) := by
    unfold State.changeGate State.changeGateWith midGate gateReport
    simp only [hr, hg]
    by_cases h : g.position = new.position
    · have : new.position.sameState new.position = true := by simp [GatePosition.sameState]
      simp [h, this]
    · simp only [h, if_false]
      split <;> rfl
  rw [this]
  split
  · exact .refl _
  · exact follows_handOver _ _ _

theorem frame_midGate (k : Nat) (r : GateRecord) (cause : GateCause) (g new : GateState) (u : State) :
    Frame [.gates, .outputs, .reports] u (midGate k r cause g new u) := by
  unfold midGate gateReport
  dsimp only
  split <;> split <;> simp only [reports_nil, reports_cons]
  · exact Frame.mono (frame_withGate u k _) (by decide)
  · exact Frame.mono (Frame.trans (frame_withGate u k _) (frame_report _ _)) (by decide)
  · exact Frame.mono (Frame.trans (frame_withGate u k _) (frame_applyOrder _ _)) (by decide)
  · exact Frame.mono (Frame.trans (Frame.trans (frame_withGate u k _) (frame_report _ _)) (frame_applyOrder _ _)) (by decide)

theorem midGate_line (k : Nat) (r : GateRecord) (cause : GateCause) (g new : GateState) (u : State) :
    (midGate k r cause g new u).line = (u.reports (gateReport k g new cause)).line := by
  have h0 : ((u.withGate k (some new)).reports (gateReport k g new cause)).line = (u.reports (gateReport k g new cause)).line :=
    reports_line_congr _ _ _ rfl rfl rfl
  rw [← h0]
  unfold midGate; dsimp only; split <;> rfl

theorem moves_of_mid {s u t : State} {k : Nat} {r : GateRecord} {g new : GateState} {cause : GateCause}
    {also : List Part} (hr : lookup s.settings.gates k = some r) (hg : s.gate k = some g) (hset : u.settings = s.settings)
    (hframe : Frame (always ++ also) s u) (hal : ∀ p ∈ also, p ∈ [Part.inputs, .zones, .inbound, .outbox])
    (hrec : recordsOf u.line = recordsOf s.line)
    (hft : Follows (midGate k r cause g new u) t) (ho : t.line.outbox = u.line.outbox ∨ .outbox ∈ also) :
    Moves k g new cause also s t := by
  have hk := lookup_bounds _ hg
  have hrd : Frame [.gates, .outputs, .reports] u (midGate k r cause g new u) := by
    unfold midGate gateReport
    dsimp only
    split <;> split <;> simp only [reports_nil, reports_cons]
    · exact Frame.mono (frame_withGate u k _) (by decide)
    · exact Frame.mono (Frame.trans (frame_withGate u k _) (frame_report _ _)) (by decide)
    · exact Frame.mono (Frame.trans (frame_withGate u k _) (frame_applyOrder _ _)) (by decide)
    · exact Frame.mono (Frame.trans (Frame.trans (frame_withGate u k _) (frame_report _ _)) (frame_applyOrder _ _)) (by decide)
  have hgm : ∀ j, (midGate k r cause g new u).gate j = if j = k then some new else u.gate j := by
    intro j
    rw [← gate_withGate u k j (some new) hk]
    unfold midGate
    dsimp only
    split <;> rw [reports_eq_withLine] <;> rfl
  have hnot : ∀ p : Part, p ∉ [Part.inputs, .zones, .inbound, .outbox, .moment, .transmitter, .reports, .choices] →
      p ∉ always ++ also := by
    intro p hp hm
    rcases List.mem_append.mp hm with h | h
    · exact hp (by revert h; cases p <;> decide)
    · have := hal p h
      exact hp (by revert this; cases p <;> decide)
  have hgs : ∀ j, u.gate j = s.gate j := fun j => congrArg (fun v => lookup v j) (hframe .gates (hnot _ (by decide)))
  have hmid : Frame (always ++ road ++ also) s (midGate k r cause g new u) := by
    refine Frame.mono (Frame.trans hframe hrd) ?_
    intro p hp
    simp only [List.mem_append] at hp ⊢
    rcases hp with (h | h) | h
    · exact Or.inl (Or.inl h)
    · exact Or.inr h
    · exact Or.inl (by revert h; cases p <;> decide)
  have hstrings : (midGate k r cause g new u).strings = u.strings := by
    unfold midGate; dsimp only; split <;> rw [reports_eq_withLine] <;> rfl
  have hcomposer : (midGate k r cause g new u).composer = u.composer := by
    unfold midGate; dsimp only; split <;> rw [reports_eq_withLine] <;> rfl
  have hsets : (midGate k r cause g new u).settings = u.settings := by
    unfold midGate; dsimp only; split <;> rw [reports_eq_withLine] <;> rfl
  have hsegs : (midGate k r cause g new u).segments = u.segments := by
    unfold midGate; dsimp only; split <;> rw [reports_eq_withLine] <;> rfl
  have hline : (midGate k r cause g new u).line = (u.reports (gateReport k g new cause)).line := by
    have h0 : ((u.withGate k (some new)).reports (gateReport k g new cause)).line = (u.reports (gateReport k g new cause)).line :=
      reports_line_congr _ _ _ rfl rfl rfl
    rw [← h0]
    unfold midGate; dsimp only; split <;> rfl
  refine ⟨?_, ?_, ?_, ?_⟩
  · have := both_spread (hft.ripple.gates k)
    rw [hgm k, if_pos rfl] at this
    obtain ⟨y, h1, h2⟩ := this.2 new rfl
    exact ⟨y, h1, gateMay_of_ripple h2⟩
  · refine reportedFirst_of_follows (u := midGate k r cause g new u) ?_ ?_ hft
    · rw [hline]
      exact reports_records _ _ _ hrec (congrArg (fun x => x) (hframe .clock (hnot _ (by decide))))
    · exact hmid .clock (by
        intro hm
        simp only [List.mem_append, always, road] at hm
        rcases hm with (h | h) | h
        · revert h; decide
        · revert h; decide
        · have := hal _ h; revert this; decide)
  · refine reacts_of_follows hft ?_ ?_ ?_ ?_ ?_ ?_
    · intro j hj
      rw [hgm, if_neg (by simpa using hj), hgs]
    · intro j _
      unfold State.panel
      rw [hstrings]
      exact congrArg (fun v => lookup v j) (hframe .panels (hnot _ (by decide)))
    · intro j _
      unfold State.sign
      rw [hcomposer]
      exact congrArg (fun v => lookup v j) (hframe .signs (hnot _ (by decide)))
    · intro x _
      have h := hframe .transfers (hnot _ (by decide))
      unfold State.transfer
      rw [hstrings]
      cases x
      · exact h.1
      · exact h.2
    · intro l h1 h2 hl
      have hu : Unowned u.settings l := by
        intro j q hq
        rw [hset] at hq
        have := hl j q (Or.inl hq)
        simpa [GateRecord.outputs] using this
      have : levelAt u.field.outputs l = levelAt s.field.outputs l :=
        congrArg (fun v => levelAt v l) (hframe .outputs (hnot _ (by decide)))
      rw [← this]
      obtain ⟨a1, a2, a3⟩ := hu k r (by rw [hset]; exact hr)
      have h0 : ((u.withGate k (some new)).reports (gateReport k g new cause)).field = u.field := by
        rw [reports_eq_withLine]; rfl
      unfold midGate
      dsimp only
      split
      · rw [h0]
      · show levelAt (orderOutputs _ _) l = _
        rw [h0, levelAt_order_other _ _ l ⟨h1, h2⟩ (by simp [GateRecord.order, a1, a2, a3])]
    · intro j _
      rw [hsegs, show u.segments = s.segments from hframe .segments (hnot _ (by decide))]
  · refine frame_of_follows hmid hft (fun p hp => List.mem_append_left _ hp) ?_
    rcases ho with h | h
    · right
      rw [h, hline, reports_line]
    · exact Or.inl (List.mem_append_right _ h)

/-! ## Events -/

theorem event_reacts (m : Moment) (f : State → State) (s : State) (hp : s.powered = true) :
    ∃ t, event m f s = .next t ∧ Follows (f (s.elapse m)) t ∧ t.line.outbox = (f (s.elapse m)).line.outbox :=
  ⟨_, event_powered m f s hp, react_follows f (s.elapse m)⟩

theorem event_quiet (m : Moment) (f : State → State) (s u : State) (also : List Part) (hp : s.powered = true)
    (hs : s.Settled) (hF : f (s.elapse m) = u) (hf : Frame also (s.elapse m) u)
    (ha : .arbiters ∉ also ∧ .moment ∉ also ∧ .reports ∉ also) :
    ∃ t, event m f s = .next t ∧ Passed m s t ∧ Frame [.transmitter, .reports] u t ∧ Quiet also s t := by
  have h1 := hf .arbiters ha.1
  have h2 : u.now = _ := hf .moment ha.2.1
  have h5 := hf .reports ha.2.2
  obtain ⟨tr, buf, h, hb⟩ := react_exact f (s.elapse m) (by rw [hF]; exact h1.1.trans hs.1) (by rw [hF]; exact h1.2.trans hs.2)
  rw [hF] at h hb
  have hfr : Frame [.transmitter, .reports] u (u.withLine { u.line with transmitter := tr, buffer := buf }) := by
    intro p hp
    cases p <;> first
      | exact absurd (show (_ : Part) ∈ [Part.transmitter, .reports] by decide) hp
      | exact Eq.refl _
      | exact ⟨Eq.refl _, Eq.refl _⟩
  refine ⟨_, (event_powered m f s hp).trans (congrArg _ h), h2, hfr, ?_, ?_⟩
  · refine Frame.mono (Frame.trans (Frame.trans (frame_elapse m s) hf) hfr) ?_
    intro p hp
    simp only [List.mem_append, List.mem_cons, List.not_mem_nil, or_false, always] at hp ⊢
    tauto
  · refine ⟨hb.trans (congrArg (List.map Buffered.record) h5.1), h5.2⟩

/-- An event in which a gate changes. -/
theorem event_moves (m : Moment) (f : State → State) (s u : State) (k : Nat) (r : GateRecord) (g new : GateState)
    (cause : GateCause) (also : List Part) (hp : s.powered = true) (hF : f (s.elapse m) = u.changeGate k cause new)
    (hr : lookup s.settings.gates k = some r) (hg : s.gate k = some g) (hset : u.settings = s.settings)
    (hf : Frame also (s.elapse m) u) (hal : ∀ p ∈ also, p ∈ [Part.inputs, .zones]) :
    ∃ t, event m f s = .next t ∧ Passed m s t ∧ Frame (always ++ road) u t ∧ Moves k g new cause also s t := by
  have hn : ∀ p, p ∉ [Part.inputs, .zones] → p ∉ also := fun p hp hm => hp (hal p hm)
  have hg' : u.gate k = some g := by
    rw [← hg]; exact congrArg (fun v => lookup v k) (hf .gates (hn _ (by decide)))
  obtain ⟨t, e, hft, ho⟩ := event_reacts m f s hp
  rw [hF] at hft ho
  have h1 := follows_changeGate (s := u) cause new (by rw [hset]; exact hr) hg'
  have hft' := h1.trans hft
  have hnow : t.now = u.now := (congrArg Still.now hft.still).trans (reaction_changeGate u k cause new).now
  refine ⟨t, e, ?_, ?_, ?_⟩
  · exact hnow.trans (hf .moment (hn _ (by decide)))
  · have hmu : Frame [.gates, .outputs, .reports] u (midGate k r cause g new u) := frame_midGate _ _ _ _ _ _
    refine frame_of_follows (Frame.mono hmu (by decide)) hft' (fun p hp => hp) (Or.inr ?_)
    rw [ho, (reaction_changeGate u k cause new).outbox, midGate_line, reports_line]
  · refine moves_of_mid (u := u) hr hg hset ?_ (fun p h => by have := hal p h; revert this; cases p <;> decide) ?_ hft' (Or.inl ?_)
    · refine Frame.mono (Frame.trans (frame_elapse m s) hf) ?_
      intro p hp
      simp only [List.mem_append, List.mem_cons, List.not_mem_nil, or_false, always] at hp ⊢
      tauto
    · have := hf .reports (hn _ (by decide))
      exact Prod.ext (congrArg (List.map Buffered.record) this.1) this.2
    · rw [ho, (reaction_changeGate u k cause new).outbox]

/-! ## The hold of a gate -/

theorem signAgrees_iff (s : State) (k sign : Nat) : s.signAgrees k sign = true ↔ s.Agrees k sign := by
  unfold State.signAgrees State.Agrees
  cases h : s.panel sign with
  | none => simp
  | some p =>
    cases hc : p.confirmed with
    | none => simp [hc]
    | some i => simp [hc]

theorem hold_iff (s : State) (r : GateRecord) : s.holdCondition r = true ↔ ∀ sign ∈ r.approach, s.Agrees r.segment sign := by
  unfold State.holdCondition
  rw [List.all_eq_true]
  exact forall₂_congr fun x _ => signAgrees_iff s r.segment x

theorem required_iff (s : State) (r : GateRecord) (q : Nat) : Required s r q ↔ q = s.requirement r := by
  have hf : r.approach.any s.panelFaulty = true ↔ ∃ sign ∈ r.approach, ∃ p, s.panel sign = some p ∧ p.state = .fault := by
    rw [List.any_eq_true]
    refine exists_congr fun x => and_congr_right fun _ => ?_
    unfold State.panelFaulty
    cases s.panel x <;> simp
  have hn : (∀ sign ∈ r.approach, ∀ p, s.panel sign = some p → p.state ≠ .fault) ↔ ¬ (r.approach.any s.panelFaulty = true) := by
    rw [hf]; simp only [not_exists, not_and, ne_eq]
  unfold Required State.requirement
  rw [hn, ← hf]
  by_cases h : r.approach.any s.panelFaulty = true <;> simp [h]

theorem mayLower_iff (s : State) (k : Nat) (r : GateRecord) (g : GateState) (hk : 1 ≤ k ∧ k ≤ 8) :
    s.mayLower k r g = true ↔ g.position = .warning ∧ itemAt s.field.clearZones k = some .idle ∧ Served s s.seconds r g := by
  have hz : (!s.zoneRunning k) = true ↔ itemAt s.field.clearZones k = some .idle := by
    unfold State.zoneRunning
    obtain ⟨z, hz⟩ : ∃ z, itemAt s.field.clearZones k = some z := by
      unfold itemAt; rw [if_neg (by omega)]
      exact ⟨_, Vector.getElem?_eq_getElem (by omega)⟩
    rw [hz]; cases z <;> simp
  have hd : s.deadlinePassed r g = true ↔ ∃ h q, g.holdStart = some h ∧ Required s r q ∧ h + q ≤ s.seconds := by
    unfold State.deadlinePassed
    cases g.holdStart with
    | none => simp
    | some h =>
      simp only [decide_eq_true_eq]
      constructor
      · intro hle; exact ⟨h, _, rfl, (required_iff _ _ _).mpr rfl, hle⟩
      · rintro ⟨h', q, e, hq, hle⟩
        cases e
        rw [required_iff] at hq; subst hq; exact hle
  unfold State.mayLower Served
  rw [Bool.and_eq_true, Bool.and_eq_true, Bool.and_eq_true, hz, hd, hold_iff, beq_iff_eq]
  tauto

theorem frame_withZone (s : State) (k : Nat) (z : ClearZone) : Frame [.zones] s (s.withZone k z) := by
  intro p hp
  cases p <;> first
    | exact absurd (show (_ : Part) ∈ [Part.zones] by decide) hp
    | exact Eq.refl _
    | exact ⟨Eq.refl _, Eq.refl _⟩

theorem seconds_elapse (m : Moment) (s : State) : (s.elapse m).seconds = secondsAt m s := rfl

theorem loweringTest_eq {s : State} {k : Nat} {r : GateRecord} {g : GateState} (hr : lookup s.settings.gates k = some r)
    (hg : s.gate k = some g) : s.loweringTest k = if s.mayLower k r g then
      s.changeGate k .hold { g with position := .lowering, travelExpiry := some (s.travelEnd r) } else s := by
  unfold State.loweringTest; simp only [hr, hg]

/-! ## Checks of a request, and chains of reports -/

/-- The first check that is not met gives one answer. -/
theorem firstUnmet_unique {o o' : Option (RefusalCode × SubReason)} :
    ∀ {cs : List Condition}, FirstUnmet cs o → FirstUnmet cs o' → o = o'
  | [], h, h' => Eq.trans h (Eq.symm h')
  | _ :: _, .inl ⟨_, h⟩, .inl ⟨_, h'⟩ => h.trans h'.symm
  | _ :: _, .inl ⟨n, _⟩, .inr ⟨m, _⟩ => absurd m n
  | _ :: _, .inr ⟨m, _⟩, .inl ⟨n, _⟩ => absurd m n
  | _ :: _, .inr ⟨_, h⟩, .inr ⟨_, h'⟩ => firstUnmet_unique h h'

/-- Reports that tell nothing of an item leave it where it was. -/
theorem leads_silent {α : Type} {change : ReportBody → Option (α × α)} {a : α} :
    ∀ {bs : List ReportBody}, (∀ b ∈ bs, change b = none) → Leads change bs a a
  | [], _ => rfl
  | b :: bs, h => by
    have hb := h b (List.mem_cons_self ..)
    unfold Leads
    rw [hb]
    exact leads_silent fun c hc => h c (List.mem_cons_of_mem _ hc)

/-- Chains of reports one after the other are a chain. -/
theorem leads_append {α : Type} {change : ReportBody → Option (α × α)} {b c : α} {ys : List ReportBody}
    (hy : Leads change ys b c) : ∀ {xs : List ReportBody} {a : α}, Leads change xs a b → Leads change (xs ++ ys) a c
  | [], _, h => Eq.symm h ▸ hy
  | x :: xs, _, h => by
    unfold Leads at h
    simp only [List.cons_append]
    unfold Leads
    cases hx : change x with
    | none =>
      simp only [hx] at h
      exact leads_append hy h
    | some p =>
      simp only [hx] at h
      exact ⟨h.1, h.2.1, leads_append hy h.2.2⟩

end Sys2Proof.Laws
end

