-- ==== Sys2Proof/Laws/Figures.lean ====
section
/-! SUPPORT. The ranges of what the step end computes: P, U, H, levels and floors (R28, R32, R39, R55, R56, R59). -/

namespace Sys2Proof.Laws

open Sys2Proof Sys2Proof.Machine

theorem precipitation_le (tips size : Nat) : (precipitation tips size).1 ≤ 500 := by
  unfold precipitation
  dsimp only
  split <;> simp only <;> omega

theorem windSpeed_le (pulses run : Nat) : (windSpeed pulses run).1 ≤ 600 := by
  unfold windSpeed
  dsimp only
  split <;> simp only <;> omega

/-- Every new index lies within 0 to 10000 (R39). -/
theorem hazardUpdate_le (r : PathRecord) (w : StepWeather) (h : Nat) : (hazardUpdate r w h).1 ≤ 10000 :=
  Nat.min_le_right _ _

/-- The candidate lies within 0 to 4. -/
theorem candidate_le (r : PathRecord) (h : Nat) : r.candidate h ≤ 4 := by
  unfold PathRecord.candidate
  split
  · exact Nat.le_refl 4
  · split
    · omega
    · split
      · omega
      · split <;> omega

/-- A level within 0 to 4 stays so (R55, R56). -/
theorem levelAfter_le (r : PathRecord) (level h : Nat) (hl : level ≤ 4) : r.levelAfter level h ≤ 4 := by
  have := candidate_le r h
  unfold PathRecord.levelAfter
  split
  · exact this
  · split <;> omega

/-- A level falls by at most one at a step end (R56). -/
theorem levelAfter_ge (r : PathRecord) (level h : Nat) : level - 1 ≤ r.levelAfter level h := by
  unfold PathRecord.levelAfter
  split
  · omega
  · split <;> omega

/-- A floor that a countdown leaves keeps its level and has one step less, at least one (R59). -/
theorem countedDown_some (f g : Floor) (h : countedDown (some f) = some g) :
    g.level = f.level ∧ g.remaining + 1 = f.remaining ∧ 1 ≤ g.remaining := by
  unfold countedDown at h
  dsimp only at h
  split at h
  · cases h
  · cases h
    dsimp only
    omega

end Sys2Proof.Laws
end

