-- ==== Sys2Proof/Laws/Images.lean ====
section
/-! SUPPORT. Composed images: the slots of a composition are those of the sign's record, and recomposing a sign gives
it the image its sources give, marked where the identity changed. -/

namespace Sys2Proof.Laws

open Sys2Proof Sys2Proof.Machine

/-! ## Claiming keeps the slots -/

theorem claimAt_length {α : Type} (i : Nat) (x : α) (slots : List (Option α)) :
    (claimAt i x slots).length = slots.length := by
  fun_induction claimAt i x slots <;> simp_all

theorem claimFirst_length {α : Type} (x : α) (slots : List (Option α)) : (claimFirst x slots).length = slots.length := by
  fun_induction claimFirst x slots <;> simp_all

theorem claimPage_length {α β : Type} (f : α → β) (contents : List (Option α)) (slots : List (Option β)) :
    (claimPage f contents slots).length = slots.length := by
  fun_induction claimPage f contents slots <;> simp_all

/-- Two drafts have as many cells and lines. -/
def SameShape (d e : Draft) : Prop := d.cells.length = e.cells.length ∧ d.lines.length = e.lines.length

theorem claimPair_shape (d : Draft) (layer : Layer) (p e : Nat) : SameShape (d.claimPair layer p e) d :=
  ⟨claimFirst_length _ _, claimFirst_length _ _⟩

theorem closureLayer_shape (s : State) (style : ClosureStyle) (segment : Option Nat) (d : Draft) :
    SameShape (closureLayer s style segment d) d := by
  cases segment <;> cases style <;> simp [closureLayer, SameShape, claimAt_length]

theorem hazardLayer_shape (s : State) (p : ProfileRecord) (r : SignRecord) (d : Draft) :
    SameShape (hazardLayer s p r d) d := by
  unfold hazardLayer
  dsimp only
  split
  · exact claimPair_shape ..
  · exact ⟨rfl, rfl⟩

theorem restrictionLayer_shape (s : State) (p : ProfileRecord) (r : SignRecord) (d : Draft) :
    SameShape (restrictionLayer s p r d) d := by
  unfold restrictionLayer
  split
  · split
    · exact claimPair_shape ..
    · exact ⟨rfl, rfl⟩
  · exact ⟨rfl, rfl⟩

theorem baseLayer_shape (p : ProfileRecord) (front : Page) (d : Draft) : SameShape (baseLayer p front d) d := by
  unfold baseLayer
  split
  · exact ⟨claimPage_length _ _ _, claimPage_length _ _ _⟩
  · exact ⟨rfl, rfl⟩

theorem weatherLayer_shape (p : ProfileRecord) (d : Draft) : SameShape (weatherLayer p d) d := by
  unfold weatherLayer
  split
  · refine ⟨rfl, ?_⟩
    cases p.form <;> simp [ReadoutForm.readouts, claimFirst_length]
  · exact ⟨rfl, rfl⟩

theorem draft_shape (s : State) (sign : Nat) (r : SignRecord) (front : Page) :
    (s.draft sign r front).cells.length = r.cells ∧ (s.draft sign r front).lines.length = r.lines := by
  have trans : ∀ {a b c : Draft}, SameShape a b → SameShape b c → SameShape a c :=
    fun h k => ⟨h.1.trans k.1, h.2.trans k.2⟩
  have h : SameShape (s.draft sign r front) (Draft.empty r) :=
    trans (weatherLayer_shape _ _) (trans (baseLayer_shape _ _ _) (trans (restrictionLayer_shape ..)
      (trans (hazardLayer_shape ..) (closureLayer_shape ..))))
  simpa [SameShape, Draft.empty] using h

theorem fitLine_length (n : Nat) (codes : List Code) : (fitLine n codes).length = n := by
  simp [fitLine]

/-- The slots of a composition are those of the sign's record (R157). -/
theorem compose_slots (s : State) (sign : Nat) (r : SignRecord) (front : Page) :
    (s.compose sign r front).cells.length = r.cells ∧
      (s.compose sign r front).lines.map List.length = List.replicate r.lines r.lineLength := by
  obtain ⟨hc, hl⟩ := draft_shape s sign r front
  refine ⟨by simpa [State.compose, State.render] using hc, ?_⟩
  rw [← hl]
  refine List.eq_replicate_iff.2 ⟨by simp [State.compose, State.render], ?_⟩
  intro n hn
  simp only [State.compose, State.render, List.map_map, List.mem_map, Function.comp_apply] at hn
  obtain ⟨x, -, rfl⟩ := hn
  cases x <;> exact fitLine_length _ _

/-! ## Keeping contents (R160, assumption 29) -/

theorem keepContents_claims (old new : Image) : (old.keepContents new).claims = new.claims := by
  unfold Image.keepContents
  split <;> rfl

theorem keepContents_identity {old new : Image} (h : new.identity = old.identity) :
    (old.keepContents new).identity = new.identity := by
  unfold Image.keepContents
  split
  · exact h.symm
  · rfl

theorem keepContents_slots (old new : Image) : (old.keepContents new).cells.length = new.cells.length ∧
    (old.keepContents new).lines.map List.length = new.lines.map List.length := by
  unfold Image.keepContents
  split
  · rename_i h
    simpa [Image.sameSlots] using h
  · exact ⟨rfl, rfl⟩

/-! ## Recomposing a sign (R160) -/

/-- A composition reads no sign's image. -/
theorem compose_withSign (s : State) (k : Nat) (x : Option SignState) (sign : Nat) (r : SignRecord) (front : Page) :
    (s.withSign k x).compose sign r front = s.compose sign r front := rfl

/-- Recomposing a sign with a record leaves it its pages and the image its sources give, marked where the identity
changed and else marked as it was. -/
theorem recomposeSign_eq (s : State) (k : Nat) (r : SignRecord) (c : SignState)
    (hr : lookup s.settings.signs k = some r) (hc : s.sign k = some c) :
    ∃ d, (s.recomposeSign k).1 = s.withSign k (some d) ∧ d.front = c.front ∧ d.back = c.back ∧
      d.image.identity = (s.compose k r c.front).identity ∧ d.image.claims = (s.compose k r c.front).claims ∧
      d.image.cells.length = r.cells ∧ d.image.lines.map List.length = List.replicate r.lines r.lineLength ∧
      d.marked = (c.marked || (s.recomposeSign k).2) ∧
      ((s.recomposeSign k).2 = true ↔ d.image.identity ≠ c.image.identity) := by
  obtain ⟨h1, h2⟩ := compose_slots s k r c.front
  by_cases h : (s.compose k r c.front).identity = c.image.identity
  · have e : s.recomposeSign k =
        (s.withSign k (some { c with image := c.image.keepContents (s.compose k r c.front) }), false) := by
      simp only [State.recomposeSign, hr, hc, if_pos h]
    rw [e]
    obtain ⟨k1, k2⟩ := keepContents_slots c.image (s.compose k r c.front)
    exact ⟨_, rfl, rfl, rfl, keepContents_identity h, keepContents_claims _ _, k1.trans h1, k2.trans h2, by simp,
      by simp [keepContents_identity h, h]⟩
  · have e : s.recomposeSign k =
        (s.withSign k (some { c with image := s.compose k r c.front, marked := true }), true) := by
      simp only [State.recomposeSign, hr, hc, if_neg h]
    rw [e]
    exact ⟨_, rfl, rfl, rfl, rfl, rfl, h1, h2, by simp, by simpa using h⟩

/-- A sign is recomposed to the image its sources give. -/
theorem recomposeSign_follows (s : State) (k : Nat) : (s.recomposeSign k).1.ImageFollows k := by
  intro r d hr hd
  cases hr' : lookup s.settings.signs k with
  | none => simp [State.recomposeSign, hr'] at hr
  | some q =>
    cases hc : s.sign k with
    | none => simp [State.recomposeSign, hr', hc] at hd
    | some c =>
      obtain ⟨e, he, hf, -, h1, h2, h3, h4, -⟩ := recomposeSign_eq s k q c hr' hc
      rw [he] at hr hd ⊢
      have hb := lookup_bounds _ hc
      have hd' : some d = some e := hd.symm.trans (lookup_putItem_self s.composer.signs _ hb.1 hb.2)
      cases hd'
      have hq : some r = some q := hr.symm.trans hr'
      cases hq
      rw [compose_withSign, hf]
      exact ⟨h1, h2, h3, h4⟩

end Sys2Proof.Laws
end

