-- ==== Sys2Proof/Laws/Layout.lean ====
section
/-! SUPPORT. The layouts of the statements in the model's own bytes: a field of one, two or four bytes is a byte, a word
or a long of the model, and fields stand in a body where its bytes are theirs. -/

namespace Sys2Proof.Laws

open Sys2Proof Sys2Proof.Machine Sys2Proof.Claims

theorem field_one (n : Nat) : field 1 n = [byte n] := by
  simp [field, byte]

theorem field_two (n : Nat) : field 2 n = word n := by
  simp [field, word, byte]

theorem field_four (n : Nat) : field 4 n = long n := by
  simp [field, long, byte]

@[simp] theorem layout_nil : layout [] = [] := rfl

@[simp] theorem layout_cons (x : Nat × Nat) (xs : List (Nat × Nat)) :
    layout (x :: xs) = field x.1 x.2 ++ layout xs := rfl

@[simp] theorem layout_append (xs ys : List (Nat × Nat)) : layout (xs ++ ys) = layout xs ++ layout ys :=
  List.flatMap_append

theorem layout_ones (ns : List Nat) : layout (ones ns) = ns.map byte := by
  induction ns with
  | nil => rfl
  | cons n ns ih => exact congrArg₂ (· ++ ·) (field_one n) ih

theorem field_time (t : Option Nat) : field 4 (clockTime t) = timeBytes t := by
  rw [field_four]
  cases t <;> rfl

theorem byte_flag (b : Bool) : byte (flag b) = flagByte b := by
  cases b <;> rfl

/-! ## Fields that stand in a body -/

theorem field_length (width n : Nat) : (field width n).length = width := by
  induction width with
  | zero => rfl
  | succ w ih => simp [field, ih]

@[simp] theorem stands_nil (f : List Byte) (i : Nat) : Stands f i [] := ⟨nofun, List.nil_prefix⟩

/-- Fields stand where the first one stands and the others after it. -/
theorem stands_cons (f : List Byte) (i : Nat) (x : Nat × Nat) (xs : List (Nat × Nat)) :
    Stands f i (x :: xs) ↔ Stands f i [x] ∧ Stands f (i + x.1) xs := by
  unfold Stands
  simp only [layout_cons, layout_nil, List.append_nil, List.forall_mem_cons, List.not_mem_nil, false_implies,
    implies_true, and_true]
  constructor
  · rintro ⟨⟨hx, hxs⟩, rest, h⟩
    refine ⟨⟨hx, layout xs ++ rest, by rw [← h, List.append_assoc]⟩, hxs, rest, ?_⟩
    rw [← List.drop_drop, ← h, List.append_assoc, List.drop_left' (field_length _ _)]
  · rintro ⟨⟨hx, _, h⟩, hxs, rest, h'⟩
    refine ⟨⟨hx, hxs⟩, rest, ?_⟩
    rw [← List.drop_drop, ← h, List.drop_left' (field_length _ _)] at h'
    rw [← h, ← h', List.append_assoc]

theorem stands_append (f : List Byte) (i : Nat) (xs ys : List (Nat × Nat)) :
    Stands f i (xs ++ ys) ↔ Stands f i xs ∧ Stands f (i + (xs.map Prod.fst).sum) ys := by
  induction xs generalizing i with
  | nil => simp
  | cons x xs ih =>
    rw [List.cons_append, stands_cons, stands_cons f i x xs, ih, and_assoc, List.map_cons, List.sum_cons,
      Nat.add_assoc]

/-- A one-byte field stands where the body has its byte. -/
theorem stands_byte (f : List Byte) (i n : Nat) : Stands f i [(1, n)] ↔ i < f.length ∧ byteAt f i = n := by
  unfold Stands byteAt
  simp only [layout_cons, layout_nil, List.append_nil, field_one, List.forall_mem_singleton, Nat.pow_one]
  by_cases hi : i < f.length
  · rw [List.drop_eq_getElem_cons hi, List.getD_eq_getElem _ _ hi]
    constructor
    · rintro ⟨hn, h⟩
      refine ⟨hi, ?_⟩
      rw [← (List.cons_prefix_cons.mp h).1]
      exact Nat.mod_eq_of_lt hn
    · rintro ⟨_, rfl⟩
      exact ⟨BitVec.isLt _, List.cons_prefix_cons.mpr ⟨BitVec.ofNat_toNat _ _, List.nil_prefix⟩⟩
  · rw [List.drop_of_length_le (by omega)]
    exact ⟨fun h => absurd (List.prefix_nil.mp h.2) nofun, fun h => absurd h.1 hi⟩

/-- A number in two halves: the upper and the lower bytes of its field. -/
theorem field_split (high low n : Nat) :
    field (high + low) n = field high (n / 256 ^ low) ++ field low (n % 256 ^ low) := by
  have lower : ∀ low n m, n % 256 ^ low = m % 256 ^ low → field low n = field low m := by
    intro low
    induction low with
    | zero => exact fun _ _ _ => rfl
    | succ w ih =>
      intro n m h
      have hd : n % 256 ^ w = m % 256 ^ w := by
        have := congrArg (· % 256 ^ w) h
        simpa [Nat.pow_succ, Nat.mod_mul_right_mod] using this
      have hh : n / 256 ^ w % 256 = m / 256 ^ w % 256 := by
        rw [Nat.pow_succ] at h
        have e := Nat.mod_mul_right_div_self n (256 ^ w) 256
        have e' := Nat.mod_mul_right_div_self m (256 ^ w) 256
        rw [← e, ← e', h]
      refine congrArg₂ List.cons (BitVec.eq_of_toNat_eq hh) (ih n m hd)
  induction high with
  | zero => simpa [field] using lower low n (n % 256 ^ low) (Nat.mod_mod ..).symm
  | succ w ih =>
    rw [Nat.succ_add]
    show BitVec.ofNat 8 (n / 256 ^ (w + low)) :: field (w + low) n = BitVec.ofNat 8 (n / 256 ^ low / 256 ^ w) :: _
    rw [Nat.pow_add, Nat.mul_comm, ← Nat.div_div_eq_div_mul, ih]
    rfl

/-- A field stands where its upper and its lower bytes do. -/
theorem stands_split (f : List Byte) (i high low n : Nat) :
    Stands f i [(high + low, n)] ↔ Stands f i [(high, n / 256 ^ low), (low, n % 256 ^ low)] := by
  unfold Stands
  simp only [layout_cons, layout_nil, List.append_nil, ← field_split, List.forall_mem_cons, List.not_mem_nil,
    false_implies, implies_true, and_true, Nat.mod_lt n (Nat.pow_pos (by decide : 0 < 256)), Nat.pow_add]
  rw [Nat.div_lt_iff_lt_mul (Nat.pow_pos (by decide))]

/-- A two-byte field stands where the body has its word. -/
theorem stands_word (f : List Byte) (i n : Nat) : Stands f i [(2, n)] ↔ i + 1 < f.length ∧ wordAt f i = n := by
  rw [stands_split f i 1 1, stands_cons, stands_byte, stands_byte]
  unfold wordAt
  have hc : byteAt f (i + 1) < 256 := BitVec.isLt _
  dsimp only
  omega

/-- A four-byte field stands where the body has its long. -/
theorem stands_long (f : List Byte) (i n : Nat) : Stands f i [(4, n)] ↔ i + 3 < f.length ∧ longAt f i = n := by
  rw [stands_split f i 2 2, stands_cons, stands_word, stands_word]
  unfold longAt
  have hc : wordAt f (i + 2) < 65536 := by
    have hb : byteAt f (i + 2) < 256 := BitVec.isLt _
    have hc : byteAt f (i + 2 + 1) < 256 := BitVec.isLt _
    unfold wordAt
    omega
  dsimp only
  omega

/-- One-byte fields stand where the body has their bytes. -/
theorem stands_ones (f : List Byte) (i : Nat) (ns : List Nat) :
    Stands f i (ones ns) ↔ bytesAt f i ns.length = ns := by
  induction ns generalizing i with
  | nil => simp [ones, bytesAt]
  | cons n ns ih =>
    show Stands f i ((1, n) :: ones ns) ↔ _
    rw [stands_cons, stands_byte, ih]
    have hb : bytesAt f i (ns.length + 1) = if i < f.length then byteAt f i :: bytesAt f (i + 1) ns.length else [] := by
      unfold bytesAt byteAt
      split
      · next hi => rw [List.drop_eq_getElem_cons hi, List.getD_eq_getElem _ _ hi, List.take_succ_cons, List.map_cons]
      · next hi => rw [List.drop_of_length_le (by omega)]; rfl
    rw [List.length_cons, hb]
    split
    · next hi => simp [hi]
    · next hi => simp [hi]

/-- A counted list stands where the body has its count and then its bytes. -/
theorem stands_counted (f : List Byte) (i : Nat) (ns : List Nat) :
    Stands f i (counted ns) ↔ (i < f.length ∧ byteAt f i = ns.length) ∧ bytesAt f (i + 1) ns.length = ns := by
  show Stands f i ((1, ns.length) :: ones ns) ↔ _
  rw [stands_cons, stands_byte, stands_ones]

/-- The bytes of a body that is long enough are as many as asked for. -/
theorem bytesAt_length {f : List Byte} {i n : Nat} (h : i + n ≤ f.length) : (bytesAt f i n).length = n := by
  simp only [bytesAt, List.length_map, List.length_take, List.length_drop]
  omega

/-- A layout takes as many bytes as its fields are wide. -/
theorem layout_length (xs : List (Nat × Nat)) : (layout xs).length = (xs.map Prod.fst).sum := by
  induction xs with
  | nil => rfl
  | cons x xs ih => rw [layout_cons, List.length_append, field_length, ih, List.map_cons, List.sum_cons]

end Sys2Proof.Laws
end

