-- ==== Sys2Proof/Laws/Notices.lean ====
section
/-! SUPPORT. The Notice List's order (R72): inserting and withdrawing keep it, and a clock walk moves no record. -/

namespace Sys2Proof.Laws

open Sys2Proof Sys2Proof.Machine

/-- List order as a comparison of effective start, then number. -/
theorem precedes_iff (a b : Notice) :
    a.precedes b = true ↔
      a.effectiveKey < b.effectiveKey ∨ (a.effectiveKey = b.effectiveKey ∧ a.number < b.number) := by
  simp [Notice.precedes]

theorem precedes_trans {a b c : Notice} (h : a.precedes b = true) (k : b.precedes c = true) :
    a.precedes c = true := by
  rw [precedes_iff] at *
  omega

/-- Two records with different numbers stand in one order or the other. -/
theorem precedes_total {a b : Notice} (h : a.number ≠ b.number) (k : a.precedes b = false) :
    b.precedes a = true := by
  rw [precedes_iff]
  have := (precedes_iff a b).not.mp (by simp [k])
  omega

/-- Inserting adds the record and nothing else. -/
theorem mem_insertNotice {n m : Notice} {l : List Notice} : m ∈ insertNotice n l ↔ m = n ∨ m ∈ l := by
  induction l with
  | nil => simp [insertNotice]
  | cons x l ih =>
    unfold insertNotice
    split
    · simp
    · simp only [List.mem_cons, ih]
      tauto

/-- A record with a number of its own, put in its place, leaves the list in list order. -/
theorem insertNotice_pairwise {n : Notice} {l : List Notice} (h : l.Pairwise fun a b => a.precedes b = true)
    (hn : ∀ m ∈ l, m.number ≠ n.number) : (insertNotice n l).Pairwise fun a b => a.precedes b = true := by
  induction l with
  | nil => simp [insertNotice]
  | cons x l ih =>
    obtain ⟨hx, hl⟩ := List.pairwise_cons.mp h
    unfold insertNotice
    split
    · rename_i hp
      refine List.pairwise_cons.mpr ⟨fun m hm => ?_, h⟩
      rcases List.mem_cons.mp hm with rfl | hm
      · exact hp
      · exact precedes_trans hp (hx m hm)
    · rename_i hp
      refine List.pairwise_cons.mpr ⟨fun m hm => ?_, ih hl fun m hm => hn m (List.mem_cons_of_mem _ hm)⟩
      rcases mem_insertNotice.mp hm with rfl | hm
      · exact precedes_total (hn x (List.mem_cons_self ..)).symm (Bool.eq_false_iff.mpr hp)
      · exact hx m hm

/-- The numbers of a list with a record inserted are its numbers and the record's. -/
theorem insertNotice_perm (n : Notice) (l : List Notice) : (insertNotice n l).Perm (n :: l) := by
  induction l with
  | nil => exact List.Perm.refl _
  | cons x l ih =>
    unfold insertNotice
    split
    · exact List.Perm.refl _
    · exact (ih.cons x).trans (List.Perm.swap n x l)

/-- A list without a number holds it no more. -/
theorem number_of_mem_withoutNotice {m : Notice} {k : Nat} {l : List Notice} (h : m ∈ withoutNotice k l) :
    m ∈ l ∧ m.number ≠ k := by
  simpa [withoutNotice] using h

/-- A number not found is no record's. -/
theorem findNotice_none {k : Nat} {l : List Notice} (h : findNotice k l = none) : ∀ m ∈ l, m.number ≠ k := by
  simpa [findNotice] using h

/-- A record found is in the list and bears the number. -/
theorem findNotice_some {k : Nat} {l : List Notice} {n : Notice} (h : findNotice k l = some n) :
    n ∈ l ∧ n.number = k := by
  refine ⟨List.mem_of_find?_eq_some h, ?_⟩
  have := List.find?_some h
  simpa using this

/-- An activation in a walk keeps number, effective start and origin (R76). -/
theorem activated_keeps {n m : Notice} {now : Nat} (h : n.activated now = some m) :
    m.number = n.number ∧ m.effectiveKey = n.effectiveKey ∧ m.origin = n.origin := by
  unfold Notice.activated at h
  split at h
  · rename_i hc
    cases h
    refine ⟨rfl, ?_, rfl⟩
    have hp : n.state = .pending := by
      simp only [Bool.and_eq_true, Bool.not_eq_true'] at hc
      cases hs : n.state with
      | pending => rfl
      | active since =>
        have : n.isActive = true := by simp [Notice.isActive, hs]
        rw [this] at hc
        exact absurd hc.1 (by decide)
    simp [Notice.effectiveKey, hp]
  · cases h

/-- A record that a walk leaves keeps number, effective start and origin (R70, R76). -/
theorem walk_keeps {n m : Notice} {now : Nat} (h : (n.walk now).after = some m) :
    m.number = n.number ∧ m.effectiveKey = n.effectiveKey ∧ m.origin = n.origin := by
  unfold Notice.walk at h
  dsimp only at h
  split at h
  · cases h
  · have hm : (n.activated now).getD n = m := by simpa using h
    cases ha : n.activated now with
    | none =>
      rw [ha] at hm
      subst hm
      exact ⟨rfl, rfl, rfl⟩
    | some x =>
      rw [ha] at hm
      subst hm
      exact activated_keeps ha

end Sys2Proof.Laws
end

