-- ==== Sys2Proof/Laws/PerInstr.lean ====
section
/-! SUPPORT. One lemma per command: the frame that a well-formed request stands for fits the line (R179, R204). -/

namespace Sys2Proof.Laws.FrameFits

open Sys2Proof

/-- If the command is a well-formed request, the body of its frame holds at most 240 bytes. -/
def Statement (i : Instr) : Prop :=
  i.wellFormed = true → ∀ f, i.requestFrame = some f → f.2.length ≤ Config.maxBody

theorem of_fields {fields : List Byte} {kind tag : Byte} (h : fieldsFit fields = true) :
    ∀ f : Byte × List Byte, some (kind, tag :: fields) = some f → f.2.length ≤ Config.maxBody := by
  intro f hf
  cases hf
  simpa [fieldsFit] using h

theorem timeSet (t : Moment) (tag : Byte) (fields : List Byte) : Statement (.timeSet t tag fields) := fun h => of_fields h
theorem noticePost (t : Moment) (tag : Byte) (fields : List Byte) : Statement (.noticePost t tag fields) := fun h => of_fields h
theorem noticeWithdraw (t : Moment) (tag : Byte) (fields : List Byte) : Statement (.noticeWithdraw t tag fields) := fun h => of_fields h
theorem pageWrite (t : Moment) (tag : Byte) (fields : List Byte) : Statement (.pageWrite t tag fields) := fun h => of_fields h
theorem pageSwap (t : Moment) (tag : Byte) (fields : List Byte) : Statement (.pageSwap t tag fields) := fun h => of_fields h
theorem textLoad (t : Moment) (tag : Byte) (fields : List Byte) : Statement (.textLoad t tag fields) := fun h => of_fields h
theorem gateRaise (t : Moment) (tag : Byte) (fields : List Byte) : Statement (.gateRaise t tag fields) := fun h => of_fields h
theorem gateClear (t : Moment) (tag : Byte) (fields : List Byte) : Statement (.gateClear t tag fields) := fun h => of_fields h
theorem pathFloor (t : Moment) (tag : Byte) (fields : List Byte) : Statement (.pathFloor t tag fields) := fun h => of_fields h
theorem restart (t : Moment) (tag : Byte) (fields : List Byte) : Statement (.restart t tag fields) := fun h => of_fields h
theorem definePath (t : Moment) (tag : Byte) (fields : List Byte) : Statement (.definePath t tag fields) := fun h => of_fields h
theorem defineSegment (t : Moment) (tag : Byte) (fields : List Byte) : Statement (.defineSegment t tag fields) := fun h => of_fields h
theorem defineGate (t : Moment) (tag : Byte) (fields : List Byte) : Statement (.defineGate t tag fields) := fun h => of_fields h
theorem defineSign (t : Moment) (tag : Byte) (fields : List Byte) : Statement (.defineSign t tag fields) := fun h => of_fields h
theorem defineProfile (t : Moment) (tag : Byte) (fields : List Byte) : Statement (.defineProfile t tag fields) := fun h => of_fields h
theorem defineGroup (t : Moment) (tag : Byte) (fields : List Byte) : Statement (.defineGroup t tag fields) := fun h => of_fields h
theorem removePath (t : Moment) (tag : Byte) (fields : List Byte) : Statement (.removePath t tag fields) := fun h => of_fields h
theorem removeSegment (t : Moment) (tag : Byte) (fields : List Byte) : Statement (.removeSegment t tag fields) := fun h => of_fields h
theorem removeGate (t : Moment) (tag : Byte) (fields : List Byte) : Statement (.removeGate t tag fields) := fun h => of_fields h
theorem removeSign (t : Moment) (tag : Byte) (fields : List Byte) : Statement (.removeSign t tag fields) := fun h => of_fields h
theorem removeProfile (t : Moment) (tag : Byte) (fields : List Byte) : Statement (.removeProfile t tag fields) := fun h => of_fields h
theorem removeGroup (t : Moment) (tag : Byte) (fields : List Byte) : Statement (.removeGroup t tag fields) := fun h => of_fields h
theorem calibrate (t : Moment) (tag : Byte) (fields : List Byte) : Statement (.calibrate t tag fields) := fun h => of_fields h
theorem linkSet (t : Moment) (tag : Byte) (fields : List Byte) : Statement (.linkSet t tag fields) := fun h => of_fields h
theorem saveSettings (t : Moment) (tag : Byte) (fields : List Byte) : Statement (.saveSettings t tag fields) := fun h => of_fields h
theorem queryStatus (t : Moment) (tag : Byte) (fields : List Byte) : Statement (.queryStatus t tag fields) := fun h => of_fields h
theorem queryPath (t : Moment) (tag : Byte) (fields : List Byte) : Statement (.queryPath t tag fields) := fun h => of_fields h
theorem querySegment (t : Moment) (tag : Byte) (fields : List Byte) : Statement (.querySegment t tag fields) := fun h => of_fields h
theorem queryGate (t : Moment) (tag : Byte) (fields : List Byte) : Statement (.queryGate t tag fields) := fun h => of_fields h
theorem querySign (t : Moment) (tag : Byte) (fields : List Byte) : Statement (.querySign t tag fields) := fun h => of_fields h
theorem queryNotices (t : Moment) (tag : Byte) (fields : List Byte) : Statement (.queryNotices t tag fields) := fun h => of_fields h
theorem queryStep (t : Moment) (tag : Byte) (fields : List Byte) : Statement (.queryStep t tag fields) := fun h => of_fields h
theorem queryText (t : Moment) (tag : Byte) (fields : List Byte) : Statement (.queryText t tag fields) := fun h => of_fields h
theorem unknownKind (t : Moment) (kind : Byte) (body : List Byte) : Statement (.unknownKind t kind body) := by
  intro h f hf
  cases hf
  simp only [Instr.wellFormed, isUnknown, Bool.and_eq_true, decide_eq_true_eq] at h
  exact h.1
theorem stationFrameReceived (t : Moment) (bytes : List Byte) : Statement (.stationFrameReceived t bytes) := fun _ _ h => nomatch h
theorem gapExpiry (t : Moment) : Statement (.gapExpiry t) := fun _ _ h => nomatch h
theorem replySent (t : Moment) : Statement (.replySent t) := fun _ _ h => nomatch h
theorem reportAgeExpiry (t : Moment) : Statement (.reportAgeExpiry t) := fun _ _ h => nomatch h
theorem reportFrameSent (t : Moment) : Statement (.reportFrameSent t) := fun _ _ h => nomatch h
theorem silenceLimitReached (t : Moment) : Statement (.silenceLimitReached t) := fun _ _ h => nomatch h
theorem storeWriteEnd (t : Moment) (accepted : Bool) : Statement (.storeWriteEnd t accepted) := fun _ _ h => nomatch h
theorem storeWriteTimeout (t : Moment) : Statement (.storeWriteTimeout t) := fun _ _ h => nomatch h
theorem start (retainedKept : Bool) (phase : Moment) : Statement (.start retainedKept phase) := fun _ _ h => nomatch h
theorem supplyLoss (t : Moment) (areaCut : Bool) : Statement (.supplyLoss t areaCut) := fun _ _ h => nomatch h
theorem fieldLineChange (t : Moment) (line : Nat) (high : Bool) : Statement (.fieldLineChange t line high) := fun _ _ h => nomatch h
theorem changeEvent (t : Moment) (line : Nat) : Statement (.changeEvent t line) := fun _ _ h => nomatch h
theorem widthEdge (t : Moment) (line : Nat) (high : Bool) : Statement (.widthEdge t line high) := fun _ _ h => nomatch h
theorem vaneSample (t : Moment) : Statement (.vaneSample t) := fun _ _ h => nomatch h
theorem stepEnd (t : Moment) : Statement (.stepEnd t) := fun _ _ h => nomatch h
theorem clockTick (t : Moment) : Statement (.clockTick t) := fun _ _ h => nomatch h
theorem holdDeadline (t : Moment) (gate : Nat) : Statement (.holdDeadline t gate) := fun _ _ h => nomatch h
theorem clearZoneExpiry (t : Moment) (gate : Nat) : Statement (.clearZoneExpiry t gate) := fun _ _ h => nomatch h
theorem travelTimeout (t : Moment) (gate : Nat) : Statement (.travelTimeout t gate) := fun _ _ h => nomatch h
theorem refreshDue (t : Moment) (sign : Nat) : Statement (.refreshDue t sign) := fun _ _ h => nomatch h
theorem retryDue (t : Moment) (sign : Nat) : Statement (.retryDue t sign) := fun _ _ h => nomatch h
theorem imageFrameSent (t : Moment) (x : StringId) : Statement (.imageFrameSent t x) := fun _ _ h => nomatch h
theorem shownFrameReceived (t : Moment) (x : StringId) (bytes : List (Option Byte)) : Statement (.shownFrameReceived t x bytes) := fun _ _ h => nomatch h
theorem replyWindowEnd (t : Moment) (x : StringId) : Statement (.replyWindowEnd t x) := fun _ _ h => nomatch h
theorem badLength (t : Moment) (length : Byte) : Statement (.badLength t length) := fun _ _ h => nomatch h
theorem missingStopBit (t : Moment) : Statement (.missingStopBit t) := fun _ _ h => nomatch h

end Sys2Proof.Laws.FrameFits
end

