-- ==== Sys2Proof/Tests/Slice0.lean ====
section
/-! SUPPORT. Own tests: ill-formed commands refused, worked values of the spec, single steps on a small state, and for
every statement with hypotheses a state and operands that meet them. -/

namespace Sys2Proof.Tests

open Sys2Proof Sys2Proof.Machine Sys2Proof.Claims

set_option Elab.async false

/-! ## Ill-formed commands -/

theorem test_fields_too_long : (Instr.timeSet 0 0 (List.replicate 240 0)).wellFormed = false := by decide +kernel
theorem test_fields_fit : (Instr.timeSet 0 0 (List.replicate 239 0)).wellFormed = true := by decide +kernel
theorem test_line_zero : (Instr.changeEvent 0 0).wellFormed = false := by decide
theorem test_line_seventeen : (Instr.fieldLineChange 0 17 true).wellFormed = false := by decide
theorem test_edge_line_seventeen : (Instr.widthEdge 0 17 true).wellFormed = false := by decide
theorem test_gate_nine : (Instr.holdDeadline 0 9).wellFormed = false := by decide
theorem test_zone_gate_zero : (Instr.clearZoneExpiry 0 0).wellFormed = false := by decide
theorem test_sign_seventeen : (Instr.retryDue 0 17).wellFormed = false := by decide
theorem test_known_kind : (Instr.unknownKind 0 0x10 [1]).wellFormed = false := by decide
theorem test_unknown_too_long : (Instr.unknownKind 0 0x7F (List.replicate 241 0)).wellFormed = false := by decide +kernel
theorem test_phase_too_long : (Instr.start true 1000001).wellFormed = false := by decide
theorem test_length_fits : (Instr.badLength 0 240).wellFormed = false := by decide

/-! ## Worked values of the spec -/

theorem test_check_of_nine : checkValue [0x31, 0x32, 0x33, 0x34, 0x35, 0x36, 0x37, 0x38, 0x39] = 0x29B1 := by
  decide +kernel

/-- R28: 250 tips of 0.2 mm give 500 without a flag, 251 the clamp. -/
theorem test_precipitation : precipitation 250 20 = (500, false) ∧ precipitation 251 20 = (500, true) := by decide

/-- R29: mean widths of 4985, 4999 and 5009 microseconds. -/
theorem test_temperature :
    stepTemperature 60 299100 = -2 ∧ stepTemperature 60 299940 = -1 ∧ stepTemperature 60 300540 = 0 := by decide

/-- R32: 51,428, 51,429 and 51,515 pulses of 700 mm. -/
theorem test_wind_speed :
    windSpeed 51428 700 = (599, false) ∧ windSpeed 51429 700 = (600, false) ∧ windSpeed 51515 700 = (600, true) := by
  decide

/-- R36: T = 7, P = 62 and S = 120 give 480. -/
theorem test_snow_load : snowLoad 62 (snowFraction (some 7)) 120 = 480 := by decide

/-- A path with the thresholds of the table of R56. -/
def path1 : PathRecord := ⟨0, 0x01, 100, 100, 100, 50, 1000, 2500, 4500, 7000, 300, [1]⟩

theorem test_level_table :
    path1.levelAfter 3 4300 = 3 ∧ path1.levelAfter 3 4150 = 2 ∧ path1.levelAfter 3 900 = 2 ∧
      path1.levelAfter 2 900 = 1 ∧ path1.levelAfter 1 900 = 1 ∧ path1.levelAfter 1 650 = 0 ∧
      path1.levelAfter 1 7200 = 4 := by decide

/-- R155: rounding away from zero. -/
theorem test_whole_degrees :
    wholeDegrees (-7) = -1 ∧ wholeDegrees (-4) = 0 ∧ wholeDegrees (-5) = -1 ∧ wholeDegrees 35 = 4 ∧
      wholeDegrees 24 = 2 := by decide

/-- R156: speeds in km/h. -/
theorem test_speed_kmh :
    speedKmh 105 = 38 ∧ speedKmh 0 = 0 ∧ speedKmh 24 = 9 ∧ speedKmh 418 = 150 ∧ speedKmh 419 = 151 := by decide

/-- R206: a post of notice 42 without times and text on segments 3 and 4 has a body of 9 bytes with its tag. -/
theorem test_post_body : (postedOf [0, 42, 0, 0, 0, 2, 3, 4]).map (fun p => (p.number, p.segments)) = some (42, [3, 4]) := by
  decide

/-- R142: start entry 253 and five texts store three. -/
theorem test_texts_past_the_end : min 5 (256 - 253) = 3 ∧
    textsOf 2 [1, 9, 0] = some [[9], []] ∧ textsOf 2 [1, 9] = none := by decide

/-! ## Small states -/

def segment1 : SegmentRecord := ⟨0, 2, 3⟩
def gate1 : GateRecord := ⟨1, 30, 5, 2, 1, 2, 3, 4, 1, 2, 3, [1]⟩
def sign1 : SignRecord := ⟨.a, 1, 1, 1, 8, 1, [1]⟩
def profile1 : ProfileRecord := ⟨true, 1, true, true, true, .both, .full⟩
def image1 : Image := ⟨[1], [List.replicate 8 0], ⟨[some .closure], [none], some 1⟩, 0x1234⟩
def page1 : SignState := ⟨.transparent, .transparent, image1, false⟩
def panel1 : PanelRecord := ⟨.showing, some image1, some 0, some 0, 0, some 0, none⟩
def attempt1 : Attempt := ⟨1, 1, image1, 1, .sendingFrame, false⟩
def held1 : Notice := heldNotice 1

def calibration1 : Calibration :=
  { factoryCalibration with
    channels := #v[⟨.event, .precip, 5, 0⟩, ⟨.width, .temp, 6, 0⟩, ⟨.vane, .vane, 7, 10⟩, ⟨.off, .noRole, 0, 0⟩,
      ⟨.off, .noRole, 0, 0⟩, ⟨.off, .noRole, 0, 0⟩] }

def settings1 : Settings :=
  { factorySettings with
    calibration := calibration1
    paths := putItem factorySettings.paths 1 (some path1)
    segments := putItem factorySettings.segments 1 (some segment1)
    gates := putItem factorySettings.gates 1 (some gate1)
    signs := putItem factorySettings.signs 1 (some sign1)
    profiles := putItem factorySettings.profiles 1 (some profile1)
    groups := putItem factorySettings.groups 1 (some [1]) }

/-- One path, segment, gate and sign, three channels in use; the gate stands as given, with closure in force as given. -/
def pass (g : GateState) (closed : Bool) : State :=
  { State.reset with
    schedule := 0
    store := { State.reset.store with working := settings1 }
    field := { State.reset.field with
      channels := #v[.event 0, .width 0 0 .idle, .vane (Vector.replicate 8 0) 0, .off, .off, .off] }
    segments := putItem State.reset.segments 1
      (some ⟨if closed then some 60101 else none, none, 0, if closed then .closing else .free, closed⟩)
    retained := { State.reset.retained with notices := if closed then [held1] else [] }
    gates := putItem State.reset.gates 1 (some g)
    composer := { State.reset.composer with signs := putItem State.reset.composer.signs 1 (some page1) }
    strings := { State.reset.strings with panels := putItem State.reset.strings.panels 1 (some panel1) } }

def up1 : GateState := atRest .up 0
def warning1 : GateState := ⟨.warning, some 0, 0, none⟩
def lowering1 : GateState := ⟨.lowering, some 0, 0, some 5⟩
def down1 : GateState := atRest .down 0
def open1 : State := pass up1 false
def closing1 : State := pass warning1 true

/-- A request waits alone in the queue, with tag 7. -/
def asks (s : State) (kind : Byte) (fields : List Byte) : State :=
  s.withLine { s.line with inbound := [⟨kind, 7 :: fields⟩] }

/-- A field input has a candidate that began at moment 0. -/
def pushed (s : State) (line : Nat) (high : Bool) : State :=
  s.withField { s.field with inputs := putItem s.field.inputs line ⟨!high, some ⟨high, 0, 20⟩⟩ }

theorem pass_settled (g : GateState) (closed : Bool) : (pass g closed).Settled := ⟨rfl, rfl⟩

theorem ready_asks (g : GateState) (closed : Bool) (kind : Byte) (f : List Byte) :
    Ready (asks (pass g closed) kind f) kind 7 f := ⟨rfl, rfl, rfl, rfl⟩

/-- The state an outcome gives; the first start where it gives none. -/
def after (r : Result) : State :=
  match r with
  | .next t => t
  | .fault f => nomatch f
  | .refused _ => State.reset


/-! ## Witnesses: the machine, the step, the field lines -/

theorem test_queue_front : (asks open1 0 []).pending = [] ∧
    ({ open1 with pending := [.clockTick 0] } : State).pending = .clockTick 0 :: [] := ⟨rfl, rfl⟩

theorem test_held_in_reset : State.neverStarted.powered = false ∧ 1 ≤ 16 ∧
    ∀ kept phase, Instr.vaneSample 0 ≠ .start kept phase := ⟨rfl, by decide, nofun⟩

theorem test_records_in_range : path1.inRange = true ∧ segment1.inRange = true ∧ gate1.inRange = true ∧
    sign1.inRange = true ∧ path1.segments.length = 1 ∧ gate1.approach.length = 1 := by decide

theorem test_roles : State.reset.roleTotals .precip = none ∧ open1.roleTotals .precip = some (.event 0) ∧
    State.reset.roleTotals .wind = none := by decide +kernel

/-- A step with 60 in-range pulses, and one with none and a memory held twice or three times. -/
def pulses (n : Nat) (held : Nat) : State :=
  (open1.withField { open1.field with
    channels := putItem open1.field.channels 2 (.width n (n * 5000) .idle) }).withRetained
      { open1.retained with lastTemp := some ⟨7, held⟩ }

theorem test_temperature_forms :
    (pulses 60 2).roleTotals .temp = some (.width 60 300000 .idle) ∧
      (pulses 59 2).roleTotals .temp = some (.width 59 295000 .idle) ∧ (pulses 59 2).retained.lastTemp = some ⟨7, 2⟩ ∧
      (pulses 59 3).retained.lastTemp = some ⟨7, 3⟩ ∧ open1.retained.lastTemp = none := by decide +kernel

/-- 300 and 301 INVALID samples. -/
def vaned (invalid : Nat) : State :=
  open1.withField { open1.field with
    channels := putItem open1.field.channels 3 (.vane #v[0, 150, 150, 0, 0, 0, 0, 0] invalid) }

theorem test_sector_forms :
    (vaned 300).stepRecord.invalid = 300 ∧ (vaned 301).stepRecord.invalid = 301 ∧
      (vaned 300).stepRecord.sector = some 1 ∧ State.reset.roleTotals .vane = none ∧
      ((vaned 300).withRetained { open1.retained with prevSector := some 2 }).stepRecord.sector = some 2 := by
  decide +kernel

theorem test_level_premises : path1.t1 < path1.t2 ∧ path1.t2 < path1.t3 ∧ path1.t3 < path1.t4 ∧ path1.band < path1.t1 := by
  decide

theorem test_vane_premises : open1.powered = true ∧ open1.weather.timer < 600 ∧
    open1.weather.began + (open1.weather.timer + 1) * usPerSecond ≤ max open1.now 1000000 ∧
    open1.accepted 10 = false := by decide +kernel

theorem test_step_end_premises :
    (open1.withWeather { open1.weather with timer := 600 }).weather.timer = 600 ∧ open1.weather.history.length ≤ 36 := by
  decide +kernel

theorem test_line_premises : open1.settings.calibration.isWidthSource 11 = false ∧
    itemAt open1.field.inputs 11 = some ⟨false, none⟩ ∧ itemAt open1.settings.calibration.debounce 11 = some 20 ∧
    levelAt open1.field.lines 11 = false ∧ open1.settings.calibration.isWidthSource 6 = true ∧
    levelAt open1.field.lines 6 = !true := by decide +kernel

theorem test_held_premises : Held (pushed open1 5 true) 20000 5 ⟨true, 0, 20⟩ ∧
    (pushed open1 5 true).settings.functionOf 5 = .counter 1 ∧ ∀ c, ¬ Held open1 20000 5 c :=
  ⟨⟨⟨false, some ⟨true, 0, 20⟩⟩, by decide +kernel, rfl, by decide⟩, by decide +kernel, fun c h => by
    obtain ⟨i, h1, h2, -⟩ := h
    have : itemAt open1.field.inputs 5 = some ⟨false, none⟩ := by decide +kernel
    rw [this] at h1
    cases h1
    cases h2⟩

/-! ## Witnesses: gates -/

theorem held_pushed (g : GateState) (closed : Bool) (line : Nat) (high : Bool) (h : 1 ≤ line ∧ line ≤ 16) :
    Held (pushed (pass g closed) line high) 20000 line ⟨high, 0, 20⟩ := by
  refine ⟨⟨!high, some ⟨high, 0, 20⟩⟩, Laws.itemAt_putItem_self (pass g closed).field.inputs _ h.1 h.2, rfl, ?_⟩
  have : 0 + 20 * usPerMs = 20000 := by decide
  rw [this]
  exact Nat.le_max_right _ _

theorem gate_of_pass (g : GateState) (closed : Bool) (line : Nat) (high : Bool) :
    (pushed (pass g closed) line high).gate 1 = some g ∧
      lookup (pushed (pass g closed) line high).settings.gates 1 = some gate1 := ⟨rfl, rfl⟩

def lowers : State := pass lowering1 true

theorem test_switch_premises : (pushed lowers 2 true).settings.functionOf 2 = .downSwitch 1 ∧
    (pushed lowers 1 true).settings.functionOf 1 = .upSwitch 1 ∧ gate1.upSwitch ≠ gate1.downSwitch := by
  decide +kernel

theorem test_presence_premises : (pushed lowers 3 true).settings.functionOf 3 = .presence 1 ∧
    (pushed lowers 4 true).settings.functionOf 4 = .key 1 ∧
    itemAt (pushed lowers 3 true).field.clearZones 1 = some .idle ∧ lowering1.reversals < 3 ∧
    gate1.upSwitch ≠ 4 ∧ gate1.downSwitch ≠ 4 := by decide +kernel

theorem served_closing : Served closing1 30 gate1 warning1 :=
  ⟨fun sign h => ⟨panel1, by
      have : sign = 1 := by simpa [gate1] using h
      subst this
      rfl, Or.inr ⟨image1, rfl, rfl⟩⟩,
    0, 30, rfl, Or.inr ⟨fun sign h p hp => by
      have : sign = 1 := by simpa [gate1] using h
      subst this
      have hq : closing1.panel 1 = some panel1 := rfl
      rw [hq] at hp
      cases hp
      decide, rfl⟩, by decide⟩

theorem test_hold_premises : closing1.gate 1 = some warning1 ∧ itemAt closing1.field.clearZones 1 = some .idle ∧
    Served closing1 (secondsAt 30000000 closing1) gate1 warning1 ∧ ¬ secondsAt 29999999 closing1 = 30 :=
  ⟨rfl, by decide +kernel, served_closing, by decide +kernel⟩

theorem test_timer_premises :
    itemAt (closing1.withZone 1 (.holding 2000000)).field.clearZones 1 = some (.holding 2000000) ∧
      (2000000 : Nat) ≤ max closing1.now 2000000 ∧ lowering1.travelExpiry = some 5 ∧
      5 ≤ secondsAt 5000000 (pass lowering1 true) := by decide +kernel

/-- The calibration set with the sixth channel off and debounce 5 and 200 at its ends. -/
def calibrateBody : List Byte :=
  5 :: List.replicate 14 20 ++ [200] ++ [1, 1, 5, 0, 2, 3, 6, 0, 3, 4, 7, 10] ++ List.replicate 12 0 ++ [10, 7, 208]

/-- Every item of a table passes a check that is made number by number. -/
theorem items_hold {α : Type} {n : Nat} (v : Vector α n) (p : Nat → α → Bool)
    (h : ∀ k < n + 1, (itemAt v k).all (p k) = true) : ∀ k a, itemAt v k = some a → p k a = true := by
  intro k a e
  by_cases hk : k < n + 1
  · have := h k hk
    rwa [e] at this
  · rw [Laws.itemAt_of_gt _ (by omega)] at e
    cases e

/-- Every record of a table passes a check that is made number by number. -/
theorem records_hold {α : Type} {n : Nat} (v : Vector (Option α) n) (p : Nat → α → Bool)
    (h : ∀ k < n + 1, (lookup v k).all (p k) = true) : ∀ k a, lookup v k = some a → p k a = true := by
  intro k a e
  have hb := Laws.lookup_bounds v e
  have := h k (by omega)
  rwa [e] at this

def new1 : Calibration := (calibrationOf calibrateBody).getD factoryCalibration

theorem test_calibrate_premises : calibrateBody.length = 43 ∧ calibrationOf calibrateBody = some new1 ∧
    CalibrationInRange new1 ∧ CalibrationFree settings1 new1 ∧ new1.tipSize = 10 ∧ new1.airRun = 2000 := by
  refine ⟨by decide, by decide +kernel, ⟨?_, by decide +kernel, by decide +kernel, by decide +kernel, by decide +kernel,
    ?_⟩, ⟨?_, by decide +kernel, by decide +kernel⟩, by decide +kernel, by decide +kernel⟩
  · intro k d h
    simpa using items_hold new1.debounce (fun _ d => decide (5 ≤ d ∧ d ≤ 200)) (by decide +kernel) k d h
  · intro k x h
    exact of_decide_eq_true (items_hold new1.channels (fun _ x => decide (x.mode = x.role.mode ∧
      (x.mode = .off → x.source = 0 ∧ x.vaneOk = 0) ∧
      (x.mode = .event ∨ x.mode = .width → 1 ≤ x.source ∧ x.source ≤ 16 ∧ x.vaneOk = 0) ∧
      (x.mode = .vane → 1 ≤ x.source ∧ x.source ≤ 14 ∧ x.vaneOk ≤ 16))) (by decide +kernel) k x h)
  · intro k r h
    exact of_decide_eq_true (records_hold settings1.gates (fun _ r => decide (∀ l ∈ new1.named, l ∉ r.inputs))
      (by decide +kernel) k r h)

theorem test_raise_premises : lookup (pass down1 false).segments 1 = some ⟨none, none, 0, .free, false⟩ ∧
    (0 : Nat) < segment1.permit ∧ (pass down1 true).gate 1 = some down1 ∧
    lookup (pass down1 true).segments 1 = some ⟨some 60101, none, 0, .closing, true⟩ ∧
    (pass (atRest (.stopped .timeout) 1) false).gate 1 = some (atRest (.stopped .timeout) 1) := by decide +kernel

/-- Gate 1 has the one gate record. -/
theorem only_gate1 (j : Nat) (q : GateRecord) (h : lookup settings1.gates j = some q) : j = 1 ∧ q = gate1 :=
  of_decide_eq_true (records_hold settings1.gates (fun j q => decide (j = 1 ∧ q = gate1)) (by decide +kernel) j q h)

/-- A new gate 2 on lines of its own, and gate 1 with another presence line. -/
def gate2 : GateRecord :=
  { gate1 with upSwitch := 11, downSwitch := 12, presence := 0, key := 0, lower := 4, raise := 5, flasher := 16 }
def gate1b : GateRecord := { gate1 with presence := 16 }

theorem test_define_gate_premises :
    (gateBytes 2 gate2).length = 17 ∧ byteAt (gateBytes 2 gate2) 0 = 2 ∧ gateOf (gateBytes 2 gate2) = gate2 ∧
      byteAt (gateBytes 2 gate2) 13 = 1 ∧ GateInRange 2 gate2 ∧ GateNamesDefined settings1 gate2 ∧
      ApproachAnnounces settings1 gate2 ∧ GateLinesFree settings1 2 gate2 ∧ GateStill open1 2 ∧
      GateInRange 1 gate1b ∧ GateLinesFree settings1 1 gate1b ∧ GateStill open1 1 ∧ ¬ GateStill lowers 1 := by
  have other : ∀ (k : Nat) (r : GateRecord),
      (∀ l ∈ r.inputs, k = 1 ∨ l ∉ gate1.inputs) → (∀ l ∈ r.outputs, k = 1 ∨ l ∉ gate1.outputs) →
      ∀ j q, j ≠ k → lookup settings1.gates j = some q →
        (∀ l ∈ r.inputs, l ∉ q.inputs) ∧ ∀ l ∈ r.outputs, l ∉ q.outputs := by
    intro k r hi ho j q hj hq
    obtain ⟨rfl, rfl⟩ := only_gate1 j q hq
    exact ⟨fun l h => (hi l h).resolve_left fun e => hj e.symm, fun l h => (ho l h).resolve_left fun e => hj e.symm⟩
  have channels : ∀ (ls : List Nat), ls ∈ [gate2.inputs, gate1b.inputs] →
      ∀ j x, itemAt settings1.calibration.channels j = some x → ∀ l ∈ ls, l ∉ x.lines := by
    intro ls hls j x h
    exact of_decide_eq_true (items_hold settings1.calibration.channels
      (fun _ x => decide (∀ ls ∈ [gate2.inputs, gate1b.inputs], ∀ l ∈ ls, l ∉ x.lines))
      (by decide +kernel) j x h) ls hls
  refine ⟨by decide, by decide, by decide, by decide, by unfold GateInRange; decide,
    ⟨by decide +kernel, by decide +kernel⟩, ?_,
    ⟨by decide, by decide, other 2 gate2 (by decide) (by decide), channels _ (by simp)⟩, nofun,
    by unfold GateInRange; decide,
    ⟨by decide, by decide, other 1 _ (by decide) (by decide), channels _ (by simp)⟩, ?_, ?_⟩
  · intro x h
    obtain rfl : x = 1 := by simpa [gate2, gate1] using h
    exact ⟨sign1, rfl, by decide⟩
  · intro g h
    cases h
    exact ⟨by decide, nofun⟩
  · exact fun h => (h lowering1 rfl).1 rfl

/-- No line of the small state is named twice: witness for the outputs of a removed gate and the inputs' functions. -/
theorem test_lines_owned : settings1.LinesOwned := by
  refine ⟨fun k r h => ?_, fun k r h => ?_, by decide +kernel⟩
  · obtain ⟨rfl, rfl⟩ := only_gate1 k r h
    exact ⟨by decide, by decide, fun j q hj hq => absurd (only_gate1 j q hq).1 hj⟩
  · obtain ⟨rfl, rfl⟩ := only_gate1 k r h
    exact ⟨by decide, by decide +kernel, fun j q hj hq => absurd (only_gate1 j q hq).1 hj⟩

/-- A function of each kind, at the ends of the lines a record names, and none. -/
theorem test_line_functions : settings1.functionOf 1 = .upSwitch 1 ∧ settings1.functionOf 4 = .key 1 ∧
    settings1.functionOf 5 = .counter 1 ∧ settings1.functionOf 6 = .counter 2 ∧ settings1.functionOf 7 = .vaneLine 3 ∧
    settings1.functionOf 9 = .vaneLine 3 ∧ settings1.functionOf 10 = .vaneOk 3 ∧ settings1.functionOf 11 = .unused ∧
    11 ∉ settings1.calibration.named ∧ 11 ∉ gate1.inputs := by decide +kernel

/-! ## Witnesses: segments, clock, notices and paths -/

/-- A second segment, which nothing names. -/
def spare : State := open1.change (.setSegment 2 (some segment1))

theorem test_segment_premises : lookup open1.settings.segments 2 = none ∧ lookup open1.settings.segments 1 = some segment1 ∧
    (lookup open1.segments 1).isSome = true ∧
    segmentOf [2, 0, 1, 4] = ⟨0, 1, 4⟩ ∧ lookup spare.settings.segments 2 = some segment1 ∧
    (∃ j q, lookup spare.settings.gates j = some q ∧ q.segment = 1) ∧
    ¬ ((∃ j q, lookup spare.settings.paths j = some q ∧ 2 ∈ q.segments) ∨
        (∃ j q, lookup spare.settings.gates j = some q ∧ q.segment = 2) ∨
        (∃ j q, lookup spare.settings.signs j = some q ∧ 2 ∈ q.segments) ∨
        ∃ n ∈ spare.retained.notices, 2 ∈ n.segments) := by
  refine ⟨rfl, rfl, rfl, rfl, rfl, ⟨1, gate1, rfl, rfl⟩, ?_⟩
  rintro (⟨j, q, h, h2⟩ | ⟨j, q, h, h2⟩ | ⟨j, q, h, h2⟩ | ⟨n, h, -⟩)
  · exact of_decide_eq_true (records_hold spare.settings.paths (fun _ q => decide (2 ∉ q.segments)) (by decide +kernel) j q h) h2
  · exact of_decide_eq_true (records_hold spare.settings.gates (fun _ q => decide (q.segment ≠ 2)) (by decide +kernel) j q h) h2
  · exact of_decide_eq_true (records_hold spare.settings.signs (fun _ q => decide (2 ∉ q.segments)) (by decide +kernel) j q h) h2
  · cases h

/-- Posts of notice 59999: at once without times, and from time 100 to time 4294967294. -/
def atOnce : PostedNotice := ⟨59999, 2, 6, none, none, none, [1]⟩
def tomorrow : PostedNotice := ⟨59999, 0, 0, some 100, some 4294967294, some 255, [1]⟩

theorem test_post_premises : postedOf [0xEA, 0x5F, 2, 6, 0, 1, 1] = some atOnce ∧ PostTimed open1 atOnce ∧
    PostInRange open1 atOnce ∧ PostRoom open1 atOnce ∧
    postedOf [0xEA, 0x5F, 0, 0, 7, 0, 0, 0, 100, 0xFF, 0xFF, 0xFF, 0xFE, 255, 1, 1] = some tomorrow ∧
    ¬ PostTimed open1 tomorrow ∧
    ∀ c < 101, PostTimed (open1.withClock (some c)) tomorrow ∧ PostInRange (open1.withClock (some c)) tomorrow ∧
      PostRoom (open1.withClock (some c)) tomorrow := by
  refine ⟨by decide, fun _ => ⟨rfl, rfl⟩, ⟨by decide, by decide, by decide, by decide, by decide, by decide, ?_, by decide,
    nofun, nofun, nofun, nofun⟩, fun _ => by decide, by decide, fun h => absurd (h rfl).1 nofun, fun c hc => ⟨fun h => absurd h nofun,
    ⟨by decide, by decide, by decide, by decide, by decide, by decide, ?_, by decide, ?_, ?_, ?_, ?_⟩,
    fun _ => (by decide : 0 < 24)⟩⟩
  · intro k hk
    obtain rfl : k = 1 := by simpa [atOnce] using hk
    exact ⟨by decide, by decide, rfl⟩
  · intro k hk
    obtain rfl : k = 1 := by simpa [tomorrow] using hk
    exact ⟨by decide, by decide, rfl⟩
  · rintro a ⟨⟩; decide
  · rintro a ⟨⟩; decide
  · rintro a e ⟨⟩ ⟨⟩; decide
  · rintro d e ⟨⟩ ⟨⟩; omega

theorem test_withdraw_premises : findNotice (wordAt [0xEA, 0xC5] 0) closing1.retained.notices = some held1 ∧
    findNotice (wordAt [0xEA, 0xC5] 0) open1.retained.notices = none := by decide +kernel

theorem test_clock_premises : longAt [0xFF, 0xFF, 0xFF, 0xFE] 0 = 4294967294 ∧ open1.retained.clock = none ∧
    (open1.withClock (some 4294967293)).retained.clock = some 4294967293 ∧
    (open1.withClock (some 5)).clockNext ≤ max open1.now 1000000 := by decide +kernel

/-- Auto-close in force at all times. -/
def eager : State := open1.change fun c => { c with autoClose := .always }

theorem test_ask_premises : AskMeets eager 1 ∧ ¬ AskMeets open1 1 :=
  ⟨⟨Or.inl rfl, nofun, nofun⟩, fun h => h.1.elim nofun fun h => absurd h.1 nofun⟩

/-- A floor of 4 on path 1 triggers the ask for segment 1, and an index that stays below does not. -/
theorem test_trigger : Triggered eager (eager.withFigures 1 ⟨0, 0, some ⟨4, 1⟩⟩) 1 ∧ ¬ Triggered eager eager 1 := by
  refine ⟨⟨by decide, by decide, 1, path1, rfl, by decide, by decide +kernel, by decide +kernel⟩, ?_⟩
  rintro ⟨-, -, j, q, -, -, h3, h4⟩
  omega

theorem test_floor_premises : lookup open1.settings.paths 1 = some path1 ∧
    byteAt [1, 4, 144] 0 = 1 ∧ byteAt [1, 4, 144] 1 = 4 ∧ byteAt [1, 4, 144] 2 = 144 ∧ byteAt [1, 0, 0] 1 = 0 := by
  decide +kernel

theorem test_path_premises : (pathBytes 2 path1).length = 22 ∧ byteAt (pathBytes 2 path1) 0 = 2 ∧
    pathOf (pathBytes 2 path1) = path1 ∧ byteAt (pathBytes 2 path1) 17 = 1 ∧ PathInRange 2 path1 ∧
    PathInRange 1 path1 ∧ AllDefined settings1.segments path1.segments ∧ lookup open1.settings.paths 2 = none := by
  refine ⟨by decide, by decide, by decide, by decide, by unfold PathInRange; decide, by unfold PathInRange; decide, ?_,
    rfl⟩
  intro x h
  obtain rfl : x = 1 := by simpa [path1] using h
  rfl

/-! ## Witnesses: signs -/

theorem test_layer_premises : lookup closing1.settings.profiles 1 = some profile1 ∧ Largest closing1 [1] 0 ∧
    Lowest (fun x => x ∈ sign1.segments ∧ closing1.governing .restriction x ≠ none) none := by
  refine ⟨rfl, ⟨fun j q h _ => ?_, Or.inl rfl⟩, ⟨fun _ x h => ?_, fun _ => rfl⟩, nofun⟩
  · have h1 := of_decide_eq_true
      (records_hold closing1.settings.paths (fun j _ => decide (j = 1)) (by decide +kernel) j q h)
    subst h1
    decide +kernel
  · obtain rfl : x = 1 := by simpa [sign1] using h.1
    exact h.2 (by decide +kernel)

/-- The image of sign 1 under the closure, and the frame that carries it. -/
theorem test_layers : (closing1.compose 1 sign1 .transparent).cells = [1] ∧
    (closing1.compose 1 sign1 .transparent).claims = ⟨[some .closure], [some (.closure, .entry 247)], some 1⟩ ∧
    attempt1.sent.cells.length = 1 ∧ attempt1.sent.lines.map List.length = List.replicate 1 8 := by decide +kernel

/-- A text drawn from an entry that a load changed, and one drawn from a readout. -/
theorem test_drawn : DrawsOnChange open1 (open1.change fun c => { c with texts := storeTexts c.texts 247 [[]] })
    { image1 with claims := ⟨[], [some (.closure, .entry 247)], none⟩ } :=
  ⟨(.closure, .entry 247), 247, by decide, by decide +kernel, rfl⟩

/-- A step ended with temperature and wind at an end of their ranges. -/
def read (t : TempReadout) (u : Option Nat) : State :=
  open1.withComposer { open1.composer with temp := t, wind := u }

theorem test_readout_texts :
    (read (.valid (-400)) (some 0)).sourceText .temperature = codes [20, 5, 13, 16, 0, 40, 31, 27, 48, 3] ∧
      (read (.held 400) (some 600)).sourceText .temperature = codes [20, 5, 13, 16, 0, 31, 27, 48, 3] ∧
      (read .fault (some 0)).sourceText .wind = codes [23, 9, 14, 4, 0, 27, 0, 11, 13, 42, 8] ∧
      (read .noStep (some 600)).sourceText .wind = codes [23, 9, 14, 4, 0, 50, 28, 32, 27, 0, 11, 13, 42, 8] := by
  decide +kernel

theorem signs_whole (g : GateState) (closed : Bool) : (pass g closed).SignsWhole := by
  intro k
  have h : ∀ (α : Type) (v : Vector (Option α) 16) (x : α), (∀ j, lookup v j = none) →
      (lookup (putItem v 1 (some x)) k).isSome = decide (k = 1) := by
    intro α v x hv
    by_cases hk : k = 1
    · subst hk
      rw [Laws.lookup_putItem_self v _ (by decide) (by decide)]
      rfl
    · rw [Laws.lookup_putItem_ne v _ hk, hv, decide_eq_false hk]
      rfl
  have hs := h _ factorySettings.signs sign1 (fun j => Laws.lookup_replicate_none j)
  exact ⟨(h _ State.reset.strings.panels panel1 fun j => Laws.lookup_replicate_none j).trans hs.symm,
    (h _ State.reset.composer.signs page1 fun j => Laws.lookup_replicate_none j).trans hs.symm⟩

/-- Sign 1 moved to another panel address, and a new sign at the last address of the other string. -/
def moved1 : SignRecord := { sign1 with address := 8, lines := 3, lineLength := 20 }
def sign2 : SignRecord := ⟨.b, 8, 2, 3, 20, 1, [1]⟩

theorem test_define_sign_premises : signOf (signBytes 16 sign2) = some sign2 ∧ (signBytes 16 sign2).length = 9 ∧
    byteAt (signBytes 16 sign2) 7 = 1 ∧
    ∀ x ∈ [(16, sign2), (1, moved1), (1, sign1)],
      SignInRange x.1 x.2 ∧ SignNamesDefined settings1 x.2 ∧ SignFree settings1 x.1 x.2 := by
  refine ⟨by decide, by decide, by decide, fun x hx => ?_⟩
  have h : SignInRange x.1 x.2 ∧ (x.2.profile = 1 ∧ x.2.segments = [1]) ∧
      (x.1 = 1 ∨ ¬ (sign1.string = x.2.string ∧ sign1.address = x.2.address)) := by
    simp only [List.mem_cons, List.not_mem_nil, or_false] at hx
    unfold SignInRange
    rcases hx with rfl | rfl | rfl <;> decide
  have one := fun j q => of_decide_eq_true ∘
    records_hold settings1.signs (fun j q => decide (j = 1 ∧ q = sign1)) (by decide +kernel) j q
  refine ⟨h.1, ⟨h.2.1.1 ▸ rfl, fun k hk => ?_⟩, fun j q hj hq => ?_, fun j q hq _ => ?_⟩
  · rw [h.2.1.2] at hk
    obtain rfl : k = 1 := by simpa using hk
    rfl
  · obtain ⟨rfl, rfl⟩ := one j q hq
    exact h.2.2.resolve_left fun e => hj e.symm
  · rw [(only_gate1 j q hq).2, h.2.1.2]
    decide

/-- A second sign, which no gate names, in FAULT. -/
def signs2 : State :=
  let s := open1.change (.setSign 2 (some sign2))
  (s.withSign 2 (some page1)).withPanel 2 (some { panel1 with state := .fault, attempts := 3 })

theorem test_remove_sign_premises : lookup signs2.settings.signs 2 = some sign2 ∧ (signs2.panel 2).isSome = true ∧
    (∀ j q, lookup signs2.settings.gates j = some q → 2 ∉ q.approach) ∧
    ∃ j q, lookup signs2.settings.gates j = some q ∧ 1 ∈ q.approach :=
  ⟨rfl, rfl, fun j q h => of_decide_eq_true
    (records_hold signs2.settings.gates (fun _ q => decide (2 ∉ q.approach)) (by decide +kernel) j q h),
    1, gate1, rfl, by decide⟩

theorem test_profile_premises : profileOf [8, 1, 4, 0, 1, 0, 3, 2] = some ⟨true, 4, false, true, false, .both, .top⟩ ∧
    (∃ j q, lookup open1.settings.signs j = some q ∧ q.profile = 1) ∧
    lookup (open1.change (.setProfile 2 (some profile1))).settings.profiles 2 = some profile1 ∧
    (∀ j q, lookup (open1.change (.setProfile 2 (some profile1))).settings.signs j = some q → q.profile ≠ 2) :=
  ⟨by decide, ⟨1, sign1, rfl, rfl⟩, rfl, fun j q h => of_decide_eq_true
    (records_hold (open1.change (.setProfile 2 (some profile1))).settings.signs (fun _ q => decide (q.profile ≠ 2))
      (by decide +kernel) j q h)⟩

theorem test_group_premises : bytesAt [8, 1, 1] 2 (byteAt [8, 1, 1] 1) = [1] ∧ bytesAt [8, 0] 2 (byteAt [8, 0] 1) = [] ∧
    lookup open1.settings.groups 1 = some [1] ∧ (lookup open1.settings.signs 1).isSome = true := by decide +kernel

theorem test_page_premises : Targets open1.settings [0, 1] [1] ∧ Targets open1.settings [1, 1] [1] ∧
    pageOf [0, 1, 1, 31, 0, 0, 2, 255, 0, 0, 0, 0] = some ⟨#v[some 31, none], #v[some 255, none, none]⟩ :=
  ⟨Or.inl ⟨rfl, rfl, rfl⟩, Or.inr ⟨rfl, rfl⟩, by decide⟩

theorem test_text_premises : textsOf (byteAt [255, 2, 1, 63, 0] 1) (List.drop 2 [255, 2, 1, 63, 0]) = some [[63], []] := by
  decide

/-! ## Witnesses: bodies of requests -/

/-- Bodies written out from R205 and R208, each with the record it stands for, and of the lengths the layouts give. -/
theorem test_bodies :
    let path : List Byte := [2, 0, 1, 100, 100, 100, 50, 0x03, 0xE8, 0x09, 0xC4, 0x11, 0x94, 0x1B, 0x58, 0x01, 0x2C, 1, 1, 9, 9, 9]
    let gate : List Byte := [1, 1, 0, 30, 5, 2, 1, 2, 3, 4, 1, 2, 3, 1, 1, 9, 9]
    let sign : List Byte := [16, 1, 8, 2, 3, 20, 1, 1, 1]
    let profile : List Byte := [1, 1, 1, 1, 1, 1, 3, 1]
    path.length = 22 ∧ byteAt path 17 ≤ 4 ∧ pathOf path = path1 ∧ gate.length = 17 ∧ byteAt gate 13 ≤ 3 ∧
      gateOf gate = gate1 ∧ sign.length = 8 + byteAt sign 7 ∧ signOf sign = some sign2 ∧
      signOf [16, 2, 8, 2, 3, 20, 1, 1, 1] = none ∧ profile.length = 8 ∧ profileOf profile = some profile1 ∧
      segmentOf [1, 0, 2, 3] = segment1 := by
  decide +kernel

/-! ## Witnesses: strings -/

/-- Sign 1 in four cases: marked; due for a refresh; due for a retry; nothing to do. -/
def panel (state : PanelState) (marked : Bool) (now : Moment) : State :=
  ((open1.withSign 1 (some { page1 with marked := marked })).withPanel 1
    (some { panel1 with state := state, lastAttemptEnd := some 0 })).elapse now

theorem test_choices : (panel .showing true 0).choice .a = some 1 ∧ (panel .showing false 60000000).choice .a = some 1 ∧
    (panel .showing false 59999999).choice .a = none ∧ (panel .fault false 30000000).choice .a = some 1 ∧
    (panel .fault true 29999999).choice .a = none := by decide +kernel

/-- Sign 1 is being sent to, its reply window open until 250 ms. -/
def waits (orphaned : Bool) (number : Nat) : State :=
  ((open1.withPanel 1 (some { panel1 with state := .sending, attempts := number - 1 })).withTransfer .a
    (some { attempt1 with number := number, phase := .waiting 250000 [], orphaned := orphaned }))

theorem test_transfer_premises : (open1.withTransfer .a (some attempt1)).transfer .a = some attempt1 ∧
    attempt1.phase = .sendingFrame ∧ max (waits false 1).now 250999 / usPerMs * usPerMs ≤ 250000 ∧
    (waits true 1).transfer .a = some { attempt1 with phase := .waiting 250000 [], orphaned := true } ∧
    ((waits false 3).panel 1).map PanelRecord.attempts = some 2 := by decide +kernel

/-- The bytes of a frame sent to sign 1 that the string has received so far. -/
def hears (received : List Byte) : Attempt := { attempt1 with phase := .waiting 250000 received }

theorem test_confirming_frames :
    Completes 250000 (hears []) (waits false 1) ((shownFrame 1 0x1234).map some) (checkBytes 0x1234)
        (checkBytes (checkValue ([4, 2, 1] ++ checkBytes 0x1234))) ∧
      Completes 250000 (hears ((shownFrame 1 0x1234).take 6)) (waits false 1)
        (((shownFrame 1 0x1234).drop 6).map some) (checkBytes 0x1234)
        (checkBytes (checkValue ([4, 2, 1] ++ checkBytes 0x1234))) :=
  ⟨⟨250000, [], rfl, by decide, rfl, rfl, by decide, by decide +kernel⟩,
    ⟨250000, _, rfl, by decide, rfl, rfl, by decide +kernel, by decide +kernel⟩⟩

theorem test_failures (c : List Byte × Instr × Failure)
    (h : c ∈ [([], .replyWindowEnd 250000 .a, Failure.noReply), ([0x5A], .replyWindowEnd 250000 .a, .badFrame),
      ([0x5A, 4], .shownFrameReceived 250000 .a [none], .badFrame),
      ([0x5A], .shownFrameReceived 250000 .a [some 5], .badFrame),
      ([0x5A, 4], .shownFrameReceived 250000 .a [some 1], .badFrame),
      ([0x5A, 4, 2], .shownFrameReceived 250000 .a [some 2], .badFrame),
      ([], .shownFrameReceived 250000 .a ((shownFrame 1 0).map some), .wrongIdentity),
      ([], .shownFrameReceived 250000 .a ([0x5A, 4, 2, 1, 0x12, 0x34, 0, 0].map some), .badFrame)]) :
    Fails c.2.1 250000 (waits false 1) .a (hears c.1) c.2.2 := by
  have byteBreaks : ∀ received b, max (waits false 1).now 250000 / usPerMs * usPerMs ≤ 250000 →
      ((received ≠ [] ∧ b = none) ∨ (received.length = 1 ∧ b ≠ some 4) ∨ (received.length = 2 ∧ b ≠ some 2) ∨
        (received.length = 3 ∧ b ≠ some (1 : Byte))) →
      Fails (.shownFrameReceived 250000 .a [b]) 250000 (waits false 1) .a (hears received) .badFrame :=
    fun received b hw hb => Or.inr (Or.inl ⟨250000, received, b, rfl, hw, rfl, rfl, hb⟩)
  simp only [List.mem_cons, List.not_mem_nil, or_false] at h
  rcases h with rfl | rfl | rfl | rfl | rfl | rfl | rfl | rfl
  · exact Or.inl ⟨_, _, rfl, rfl, by decide, rfl⟩
  · exact Or.inl ⟨_, _, rfl, rfl, by decide, rfl⟩
  · exact byteBreaks _ _ (by decide) (by decide)
  · exact byteBreaks _ _ (by decide) (by decide)
  · exact byteBreaks _ _ (by decide) (by decide)
  · exact byteBreaks _ _ (by decide) (by decide)
  · exact Or.inr (Or.inr ⟨_, checkBytes 0, checkBytes (checkValue ([4, 2, 1] ++ checkBytes 0)), rfl,
      ⟨250000, [], rfl, by decide, rfl, rfl, by decide, by decide +kernel⟩,
      Or.inr ⟨rfl, by decide +kernel, rfl⟩⟩)
  · exact Or.inr (Or.inr ⟨_, [0x12, 0x34], [0, 0], rfl,
      ⟨250000, [], rfl, by decide, rfl, rfl, by decide, rfl⟩, Or.inl ⟨by decide +kernel, rfl⟩⟩)

theorem test_shown_bytes : readsOn [] 1 none = some [] ∧ readsOn [] 1 (some 0x5A) = some [0x5A] ∧
    readsOn [0x5A, 4, 2] 1 (some 1) = some [0x5A, 4, 2, 1] ∧ readsOn [0x5A, 4, 2] 1 (some 8) = none ∧
    readsOn [0x5A, 4, 2, 1, 0x12, 0x34] 1 (some 9) = some [0x5A, 4, 2, 1, 0x12, 0x34, 9] ∧
    (∀ a w received, (waits false 1).transfer .a = some a → a.phase = .waiting w received →
      w < max (waits false 1).now 251000 / usPerMs * usPerMs) :=
  ⟨by decide, by decide, by decide, by decide, by decide, fun a w received h hp => by
    have e : a = hears [] := Option.some.inj (h.symm.trans rfl)
    subst e
    cases hp
    decide⟩

/-! ## Witnesses: the station line -/

/-- The line of a state with some parts of it given. -/
def talking (transmitter : Transmitter) (outbox : List Reply) (buffer : List Buffered) : State :=
  open1.withLine { open1.line with transmitter := transmitter, outbox := outbox, buffer := buffer }

def reply1 : Reply := ⟨7, 1, .done []⟩
def busy1 : Reply := ⟨8, 2, .refused .busy .noReason⟩

theorem test_frame_premises : open1.line.receiver = .hunting ∧ open1.line.inbound.length < 4 ∧
    4 ≤ (open1.withLine { open1.line with inbound := List.replicate 4 ⟨1, []⟩ }).line.inbound.length ∧
    4 ≤ ((talking .free (List.replicate 4 busy1) []).line.outbox.filter Reply.isBusy).length := by decide +kernel

theorem test_broken_premises : checkBytes (checkValue [1, 0x20, 9]) ≠ [0, 0] ∧ 240 < (241 : Byte).toNat ∧
    (open1.withLine { open1.line with receiver := .length }).line.receiver = .length ∧
    50 ≤ msBetween (max open1.now 50000) open1.line.lastByte ∧
    msBetween (max open1.now 49999) open1.line.lastByte < 50 := by decide +kernel

/-- A byte in every state of the receiver, a length at the end of its range; and a second check byte, good and bad. -/
theorem test_byte_premises : takes .hunting 0xA5 = some .length ∧ takes .hunting 0x5A = some .hunting ∧
    takes .length 240 = some (.kind 240) ∧ takes .length 241 = some .hunting ∧
    takes (.kind 0) 9 = some (.check 0 9 [] none) ∧ takes (.body 2 9 []) 7 = some (.body 2 9 [7]) ∧
    takes (.body 2 9 [7]) 8 = some (.check 2 9 [7, 8] none) ∧
    takes (.check 0 9 [] none) 1 = some (.check 0 9 [] (some 1)) ∧ takes (.check 0 9 [] (some 1)) 1 = none ∧
    checkValue [0, 9] = (0x8C : Byte) ++ (0x26 : Byte) ∧ msBetween 50999 0 = 50 ∧ 50 < msBetween 51000 0 := by
  decide +kernel

theorem test_transmitter_premises :
    (talking .sendingReply [reply1, busy1] []).line.outbox = [reply1, busy1] ∧
      (talking .sendingReply [reply1] []).line.restartDue = none ∧
      (talking (.sendingReports [resetReport.record]) [] [{ resetReport with inFrame := true }]).line.transmitter =
        .sendingReports [resetReport.record] := by decide +kernel

/-- A buffer calls for a report frame with 8 records or with one 2 s old, and not just below. -/
theorem test_calls : Calls 0 (List.replicate 8 resetReport) ∧ ¬ Calls 1999999 (List.replicate 7 resetReport) ∧
    Calls 2000000 [resetReport] ∧ ¬ Calls 0 [] := by
  refine ⟨⟨_, _, rfl, Or.inl (by decide)⟩, ?_, ⟨_, _, rfl, Or.inr (by decide)⟩, ?_⟩
  · rintro ⟨b, rest, h, hc⟩
    cases h
    revert hc
    decide
  · rintro ⟨b, rest, h, -⟩
    cases h

theorem test_silence_premises : wordAt [0, 30, 2] 0 = 30 ∧ wordAt [14, 16, 1] 0 = 3600 ∧
    AutoClose.ofCode (byteAt [0, 30, 2] 2) = some .always ∧ open1.line.attended = true ∧
    open1.settings.silenceLimit ≤ msBetween (max open1.now 300000000) open1.line.lastValid / 1000 ∧
    msBetween (max open1.now 299999999) open1.line.lastValid / 1000 < open1.settings.silenceLimit := by decide +kernel

/-- A segment, a gate and a sign with their states, the hold of the gate with its requirement. -/
theorem test_layout_premises : (lookup closing1.segments 1).isSome = true ∧ closing1.gate 1 = some warning1 ∧
    Required closing1 gate1 30 ∧ closing1.sign 1 = some page1 ∧ closing1.panel 1 = some panel1 ∧
    held1.segments.length ≤ 8 := by
  refine ⟨rfl, rfl, Or.inr ⟨fun sign hs p hp => ?_, rfl⟩, rfl, rfl, by decide⟩
  obtain rfl : sign = 1 := by simpa [gate1] using hs
  have e : p = panel1 := Option.some.inj (hp.symm.trans rfl)
  subst e
  decide

theorem test_query_premises : wordAt [2, 1, 0] 1 = 256 ∧ 0x7F ∉ requestKinds ∧
    (open1.withLine { open1.line with inbound := [⟨0x7F, []⟩] }).line.inbound.head? = some ⟨0x7F, []⟩ ∧
    open1.weather.history.getLast? = none := by decide +kernel

/-! ## Witnesses: store and start -/

/-- A SAVE SETTINGS is being carried out, its write begun at moment 0. -/
def saving : State :=
  (open1.withLine { open1.line with carrying := some 7 }).withStore
    { open1.store with saved := none, write := some ⟨settings1, 0⟩ }

theorem test_store_premises : saving.powered = true ∧ saving.line.carrying = some 7 ∧
    max saving.now 3000000 ≤ 0 + 3 * usPerSecond ∧ 0 + 3 * usPerSecond < max saving.now 3000001 ∧
    open1.store.write = none := by decide +kernel

/-- The reply to a RESTART is being sent. -/
def leaving (kind : StartKind) : State :=
  open1.withLine { open1.line with transmitter := .sendingReply, outbox := [reply1], restartDue := some kind }

theorem test_start_premises : StartKind.ofCode (byteAt [1] 0) = some .warm ∧ StartKind.ofCode (byteAt [2] 0) = some .cold ∧
    (leaving .warm).line.outbox = [reply1] ∧ reply1.isBusy = false ∧ (leaving .warm).retained.checkHolds = true := by
  decide +kernel

/-- Moving a gate that is not DOWN is refused, and the refusal stands in the outbox. -/
theorem test_refused_premises : ∃ t, exec (.gateRaise 0 7 [1]) (asks open1 kindGateRaise [1]) = .next t ∧
    t.line.outbox = [⟨7, kindGateRaise, .refused .wrongState .noReason⟩] := ⟨_, rfl, by decide +kernel⟩

/-- The checks of GATE_RAISE for a gate that is not DOWN, of one under a closure, and of one that may be raised. -/
theorem test_checks_of_raise :
    (∃ cs, conditions open1 (.gateRaise 0 7 [1]) = some cs ∧ FirstUnmet cs (some (.wrongState, .noReason))) ∧
      (∃ cs, conditions (pass down1 true) (.gateRaise 0 7 [1]) = some cs ∧
        FirstUnmet cs (some (.interlock, .closure))) ∧
      ∃ cs, conditions (pass down1 false) (.gateRaise 0 7 [1]) = some cs ∧ FirstUnmet cs none := by
  have down : ∀ closed g, (pass down1 closed).gate 1 = some g → g.position = .down := by
    rintro closed g ⟨⟩
    rfl
  refine ⟨⟨_, rfl, Or.inr ⟨rfl, Or.inr ⟨by decide, Or.inr ⟨rfl, Or.inl ⟨fun h => absurd (h up1 rfl) nofun, rfl⟩⟩⟩⟩⟩,
    ⟨_, rfl, Or.inr ⟨rfl, Or.inr ⟨by decide, Or.inr ⟨rfl, Or.inr ⟨down true, Or.inl ⟨fun h => ?_, rfl⟩⟩⟩⟩⟩⟩,
    ⟨_, rfl, Or.inr ⟨rfl, Or.inr ⟨by decide, Or.inr ⟨rfl, Or.inr ⟨down false, Or.inr ⟨fun r h => ?_,
      Or.inr ⟨fun r q d h hq hd => ?_, rfl⟩⟩⟩⟩⟩⟩⟩⟩
  · exact absurd (h gate1 rfl) (by decide +kernel)
  · cases h
    decide +kernel
  · cases h
    cases hq
    cases hd
    decide

/-- The checks of TIME_SET at the ends of its range, and of a body that is too short. -/
theorem test_checks_of_time :
    (∃ cs, conditions open1 (.timeSet 0 7 [0xFF, 0xFF, 0xFF, 0xFE]) = some cs ∧ FirstUnmet cs none) ∧
      (∃ cs, conditions open1 (.timeSet 0 7 [0xFF, 0xFF, 0xFF, 0xFF]) = some cs ∧
        FirstUnmet cs (some (.range, .noReason))) ∧
      ∃ cs, conditions open1 (.timeSet 0 7 [0]) = some cs ∧ FirstUnmet cs (some (.malformed, .noReason)) :=
  ⟨⟨_, rfl, Or.inr ⟨rfl, Or.inr ⟨by decide, rfl⟩⟩⟩, ⟨_, rfl, Or.inr ⟨rfl, Or.inl ⟨by decide, rfl⟩⟩⟩,
    ⟨_, rfl, Or.inl ⟨by decide, rfl⟩⟩⟩

/-- A post with a time is refused NOCLOCK while the clock is UNSET; a removal row minds no frame of another item. -/
theorem test_checks_of_post_and_removal :
    (∃ cs, conditions open1 (.noticePost 0 7 [0xEA, 0x5F, 0, 0, 7, 0, 0, 0, 100, 0xFF, 0xFF, 0xFF, 0xFE, 255, 1, 1]) =
      some cs ∧ FirstUnmet cs (some (.noClock, .noReason))) ∧
      conditions open1 (.removeGate 0 7 [4, 1]) = none ∧
      ∃ cs, conditions open1 (.removeGate 0 7 [7, 1]) = some cs ∧ FirstUnmet cs (some (.range, .noReason)) :=
  ⟨⟨_, rfl, Or.inr ⟨fun h => absurd (test_post_premises.2.2.2.2.1.symm.trans h) nofun, Or.inl
    ⟨fun h => test_post_premises.2.2.2.2.2.1 (h _ test_post_premises.2.2.2.2.1), rfl⟩⟩⟩, rfl,
    ⟨_, rfl, Or.inr ⟨rfl, Or.inl ⟨by decide, rfl⟩⟩⟩⟩

/-! ## Witnesses: invariants. The state after reset meets them, and a step of it answers a next state. -/

theorem test_reset_is_first_start :
    (State.neverStarted.startPart .supply false).withSchedule 0 = State.reset.withSchedule 0 := by decide +kernel

theorem test_reset_steps : step State.reset = .next State.reset := rfl

theorem reset_panel (k : Nat) : State.reset.panel k = none := Laws.lookup_replicate_none k
theorem reset_gate_record (k : Nat) : lookup State.reset.settings.gates k = none := Laws.lookup_replicate_none k
theorem reset_sign_record (k : Nat) : lookup State.reset.settings.signs k = none := Laws.lookup_replicate_none k
theorem reset_segment (k : Nat) : lookup State.reset.segments k = none := Laws.lookup_replicate_none k
theorem reset_segment_record (k : Nat) : lookup State.reset.settings.segments k = none := Laws.lookup_replicate_none k

theorem test_reset_bounded : State.reset.Bounded ∧ State.reset.OutboxInOrder ∧ State.reset.Settled :=
  ⟨⟨by decide, by decide, by decide⟩, ⟨by decide, by decide⟩, rfl, rfl⟩

theorem test_reset_figures : State.reset.FiguresInRange ∧ State.reset.VaneCounts := by
  refine ⟨fun k f h => ?_, fun k bins invalid h => ?_⟩
  · have : f = ⟨0, 0, none⟩ := of_decide_eq_true
      (items_hold State.reset.retained.paths (fun _ f => decide (f = ⟨0, 0, none⟩)) (by decide +kernel) k f h)
    subst this
    exact ⟨by decide, by decide, nofun⟩
  · exact absurd (of_decide_eq_true
      (items_hold State.reset.field.channels (fun _ c => decide (c = .off)) (by decide +kernel) k _ h)) nofun

theorem test_reset_notices : State.reset.NoticesInOrder ∧ State.reset.PartMadeOnce :=
  ⟨⟨.nil, .nil, by decide, nofun⟩, nofun, .nil⟩

theorem test_reset_signs : State.reset.SignsWhole ∧ State.reset.SendingHeld := by
  refine ⟨fun k => ?_, fun k p h => by rw [reset_panel] at h; cases h⟩
  have : State.reset.sign k = none := Laws.lookup_replicate_none k
  rw [this, reset_panel, reset_sign_record]
  exact ⟨rfl, rfl⟩

theorem test_reset_outputs : State.reset.TablesOwned ∧ State.reset.OutputsFollow :=
  ⟨⟨⟨fun k _ h => absurd ((reset_gate_record k).symm.trans h) nofun,
    fun k _ h => absurd ((reset_gate_record k).symm.trans h) nofun, by decide⟩, nofun, nofun⟩,
    fun k _ _ h => absurd ((reset_gate_record k).symm.trans h) nofun⟩

theorem test_reset_segments : State.reset.GatesWhole ∧ State.reset.SegmentsFollow := by
  refine ⟨fun k => ?_, fun k => by rw [reset_segment, reset_segment_record]; rfl⟩
  have : State.reset.gate k = none := Laws.lookup_replicate_none k
  rw [this, reset_gate_record]
  rfl

theorem test_reset_gates_follow : State.reset.GatesFollow :=
  fun k _ _ h => absurd ((reset_gate_record k).symm.trans h) nofun

theorem test_reset_tables : State.reset.TablesWhole :=
  ⟨⟨⟨fun k _ h => absurd ((reset_gate_record k).symm.trans h) nofun,
    fun k _ h => absurd ((reset_sign_record k).symm.trans h) nofun⟩,
    fun k _ h => absurd ((reset_segment_record k).symm.trans h) nofun⟩, nofun, nofun⟩

theorem test_reset_images : State.reset.ImagesFollow ∧ State.reset.HoldsFollow :=
  ⟨fun k _ _ h => absurd ((reset_sign_record k).symm.trans h) nofun,
    fun k _ _ h => absurd ((reset_gate_record k).symm.trans h) nofun⟩

/-- Segments follow their sources where each of the eight does. -/
theorem segments_follow (s : State) (h : ∀ k < 9, lookup s.segments k =
    (lookup s.settings.segments k).map fun r => s.deriveSegment k r) : s.SegmentsFollow := by
  intro k
  by_cases hk : k < 9
  · exact h k hk
  · have none_at {α : Type} (v : Vector (Option α) 8) : lookup v k = none :=
      Option.eq_none_iff_forall_ne_some.mpr fun x e => by have := Laws.lookup_bounds v e; omega
    rw [none_at, none_at]
    rfl

/-- In a state in use, and while a delivery of the composed image waits for its answer, the segments follow. -/
theorem test_segments_follow : closing1.SegmentsFollow ∧ (waits false 1).SegmentsFollow ∧
    ((waits false 1).sign 1).map (fun c => c.image.identity) = some (hears []).sent.identity :=
  ⟨segments_follow _ (by decide +kernel), segments_follow _ (by decide +kernel), by decide +kernel⟩

/-- In a state in use the gate is in WARNING under the closure. -/
theorem test_gates_follow : closing1.GatesFollow := by
  intro k r g h hg
  obtain ⟨rfl, rfl⟩ := only_gate1 k r h
  cases hg
  exact ⟨nofun, fun _ => by decide +kernel⟩

/-- Reports that lead a segment from OPEN over CLOSING to CLOSED, and its gate from UP to WARNING. -/
theorem test_leads (rs : List ReportBody)
    (h : rs = [.segment 1 (some .free) (some .closing) 0 (some 42), .gate 1 (some .up) (some .warning) 0 .closure,
      .segment 1 (some .closing) (some .closed) 0 (some 42)]) :
    Leads (segmentChange 1) rs (some .free) (some .closed) ∧ Leads (gateChange 1) rs (some .up) (some .warning) ∧
      ¬ Leads (gateChange 1) rs (some .up) (some .up) ∧ Leads (gateChange 2) rs none none := by
  subst h
  exact ⟨⟨rfl, by decide, rfl, by decide, rfl⟩, ⟨rfl, by decide, rfl⟩, fun h => absurd h.2.2 nofun, rfl⟩

/-- In a state in use the invariants are met by a hold that is running. -/
theorem test_holds_follow : closing1.HoldsFollow := by
  intro k r g h hg
  have one := fun j q => of_decide_eq_true ∘
    records_hold settings1.gates (fun j q => decide (j = 1 ∧ q = gate1)) (by decide +kernel) j q
  obtain ⟨rfl, rfl⟩ := one k r h
  have e : g = warning1 := Option.some.inj (hg.symm.trans rfl)
  subst e
  exact ⟨fun _ => ⟨Or.inl rfl, served_closing.1⟩, fun _ => nofun⟩

/-! ## Single steps -/

/-- A gate in WARNING whose approach sign has confirmed the closure for 30 s begins to lower (R117). -/
theorem test_hold_lowers : ((after (exec (.holdDeadline 30000000 1) closing1)).gate 1).map GateState.position =
    some .lowering := by decide +kernel

/-- The down-switch stops a lowering gate DOWN, its lower output off (R119). -/
theorem test_down_limit :
    let t := after (exec (.changeEvent 20000 2) (pushed lowers 2 true))
    (t.gate 1).map GateState.position = some .down ∧ levelAt t.field.outputs 1 = false ∧
      (lookup t.segments 1).map SegmentState.state = some .closed := by decide +kernel

/-- A vehicle under a lowering boom raises it (R122). -/
theorem test_obstruction : ((after (exec (.changeEvent 20000 3) (pushed lowers 3 true))).gate 1).map GateState.position =
    some (.raising .obstruction) := by decide +kernel

/-- Raising a gate that is DOWN on an open segment (R129). -/
theorem test_raise :
    let t := after (exec (.gateRaise 0 7 [1]) (asks (pass down1 false) kindGateRaise [1]))
    (t.gate 1).map GateState.position = some (.raising .requested) ∧ t.line.outbox = [⟨7, kindGateRaise, .done []⟩] := by
  decide +kernel

/-- A closure posted at once brings the gate to WARNING and the sign to the closure image (R74, R112, R149). -/
theorem test_closure_posted :
    let t := after (exec (.noticePost 0 7 [0, 42, 0, 0, 0, 1, 1]) (asks open1 kindNoticePost [0, 42, 0, 0, 0, 1, 1]))
    (t.gate 1).map GateState.position = some .warning ∧
      (t.sign 1).map (fun c => c.image.claims.closureSegment) = some (some 1) ∧
      (t.panel 1).map PanelRecord.state = some .sending := by decide +kernel

/-- A whole frame with a QUERY STATUS joins the queue (R180, R182). -/
theorem test_frame_received :
    (after (exec (.stationFrameReceived 0 (stationFrame kindQueryStatus [7])) open1)).line.inbound =
      [⟨kindQueryStatus, [7]⟩] := by decide +kernel

/-- A full report buffer without weather records loses its oldest (R188). -/
theorem test_buffer_full :
    let t := (talking .free [] (List.replicate 32 resetReport)).report (.linkAttended 1)
    t.line.buffer.length = 32 ∧ t.line.nextSequence = 2 := by decide +kernel

/-- A stored write makes the saved copy valid (R197), and a late one does not. -/
theorem test_store_ends : (after (exec (.storeWriteEnd 3000000 true) saving)).store.saved = some settings1 ∧
    (after (exec (.storeWriteEnd 3000001 true) saving)).store.saved = none := ⟨rfl, rfl⟩

/-- A supply loss turns every output off, and a warm start brings the clock back (R199, R200, R202). -/
theorem test_warm_start :
    let lost := after (exec (.supplyLoss 5 false) ((pass warning1 true).withClock (some 9)))
    let t := after (exec (.start true 0) lost)
    levelAt lost.field.outputs 3 = false ∧ t.lastStart = .warm ∧ t.retained.clock = some 9 := by decide +kernel

/-- The step end of a fresh part: step number 1, two reports in the buffer (R22, R63). -/
theorem test_step_end :
    let t := after (exec (.stepEnd 600000000) (State.reset.withWeather { State.reset.weather with timer := 600 }))
    t.weather.number = 1 ∧ t.weather.history.length = 1 ∧ t.composer.wind = some 0 := by decide +kernel

end Sys2Proof.Tests
end

section
/-! SUPPORT. What every step keeps, packaged once. `Kept P` lists the updates that the commands are made of, each with
the part of the state it may touch; `Kept.step` walks through the commands a single time. An invariant is then a
proof of `Kept`: a few facts about single updates. -/

namespace Sys2Proof.Proofs

open Sys2Proof Sys2Proof.Machine Sys2Proof.Laws

/-! ## The updates -/

/-- The state of an accepted DEFINE GATE before the change is reported and handed on (R107). -/
def gatePlaced (k : Nat) (r : GateRecord) (s : State) : State :=
  let u := s.change (Settings.setGate k (some r))
  let v := (u.applyOrder (droppedOutputs (lookup s.settings.gates k) r)).withZone k
    (u.zoneAfter k (lookup s.settings.gates k) r)
  (v.withGate k (some (v.deriveGate r))).applyOrder (r.order (v.deriveGate r).position)

/-- The state of an accepted REMOVE ITEM of a gate before the change is reported and handed on (R108). -/
def gateTaken (k : Nat) (r : GateRecord) (s : State) : State :=
  (((s.change (Settings.setGate k none)).withGate k none).applyOrder (r.outputs.map fun l => (l, false))).withZone k .idle

/-- A channel table has no VANE channel but those of another, with their bins. -/
def VaneBinsFrom (old new : Vector ChannelTotals 6) : Prop :=
  ∀ k bins invalid, itemAt new k = some (.vane bins invalid) → itemAt old k = some (.vane bins invalid)

/-- A property of states that the updates the commands are made of all keep. -/
structure Kept (P : State → Prop) : Prop where
  other : ∀ s t : State, t.field = s.field → t.weather = s.weather → t.retained = s.retained → t.gates = s.gates →
    t.store = s.store → P s → P t
  retained : ∀ (s : State) x, (s.FiguresInRange → (s.withRetained x).FiguresInRange) → P s → P (s.withRetained x)
  field : ∀ (s : State) x, x.outputs = s.field.outputs → VaneBinsFrom s.field.channels x.channels → P s →
    P (s.withField x)
  gate : ∀ (s : State) k g h, s.gate k = some g → g.position.sameState h.position = true → P s →
    P (s.withGate k (some h))
  moved : ∀ (s : State) k r g h, lookup s.settings.gates k = some r → s.gate k = some g → P s →
    P ((s.withGate k (some h)).applyOrder (r.order h.position))
  store : ∀ (s : State) x, x.working.gates = s.settings.gates → (s.TablesOwned → (s.withStore x).TablesOwned) → P s →
    P (s.withStore x)
  sampled : ∀ s : State, P s → P (s.takeSamples.withWeather { s.weather with timer := s.weather.timer + 1 })
  stepped : ∀ (s : State) w, w.timer = 0 → P s → P (s.emptyChannels.withWeather w)
  calibrated : ∀ (s : State) new, s.settings.calibrationConflict new = false → P s → P (s.calibrate new)
  placed : ∀ (s : State) k r, 1 ≤ k ∧ k ≤ 8 → r.inRange = true → s.settings.lineConflict k r = false → P s →
    P (gatePlaced k r s)
  taken : ∀ (s : State) k r, lookup s.settings.gates k = some r → P s → P (gateTaken k r s)
  held : ∀ (s : State) r, (s.FiguresInRange → ∀ k f, itemAt r.paths k = some f → f.InRange) → P s → P (s.toReset r)
  loaded : ∀ s : State, P s → P s.loaded.startGates

section
variable {P : State → Prop} (hP : Kept P)
include hP

/-! ## Reports, the line and the order choices -/

theorem Kept.report (s : State) (b : ReportBody) (h : P s) : P (s.report b) :=
  hP.other s _ rfl rfl rfl rfl rfl h

theorem Kept.withLine (s : State) (l : StationLine) (h : P s) : P (s.withLine l) :=
  hP.other s _ rfl rfl rfl rfl rfl h

theorem Kept.withStrings (s : State) (x : StringController) (h : P s) : P (s.withStrings x) :=
  hP.other s _ rfl rfl rfl rfl rfl h

theorem Kept.withSign (s : State) (k : Nat) (x : Option SignState) (h : P s) : P (s.withSign k x) :=
  hP.other s _ rfl rfl rfl rfl rfl h

theorem Kept.withPanel (s : State) (k : Nat) (x : Option PanelRecord) (h : P s) : P (s.withPanel k x) :=
  hP.withStrings s _ h

theorem Kept.withSegments (s : State) (x : Vector (Option SegmentState) 8) (h : P s) : P (s.withSegments x) :=
  hP.other s _ rfl rfl rfl rfl rfl h

theorem Kept.choiceTaken (s : State) (h : P s) : P s.choiceTaken := hP.other s _ rfl rfl rfl rfl rfl h

theorem Kept.elapse (s : State) (m : Moment) (h : P s) : P (s.elapse m) := hP.other s _ rfl rfl rfl rfl rfl h

theorem Kept.popFrame (s : State) (h : P s) : P s.popFrame := hP.withLine s _ h

theorem Kept.withTransfer (s : State) (x : StringId) (a : Option Attempt) (h : P s) : P (s.withTransfer x a) := by
  cases x <;> exact hP.withStrings s _ h

theorem Kept.reports (bs : List ReportBody) (s : State) (h : P s) : P (s.reports bs) := by
  rw [reports_eq_withLine]
  exact hP.withLine s _ h

omit hP in
/-- A fold of updates that keep a property keeps it. -/
theorem keep_foldl {α : Type} {f : State → α → State} (hf : ∀ s x, P s → P (f s x)) (xs : List α) (s : State)
    (h : P s) : P (xs.foldl f s) := by
  induction xs generalizing s with
  | nil => exact h
  | cons x xs ih => exact ih _ (hf s x h)

/-- The settings change, but for gates and lines. -/
theorem Kept.change (s : State) (f : Settings → Settings) (hg : (f s.settings).gates = s.settings.gates)
    (hc : (f s.settings).calibration = s.settings.calibration) (h : P s) : P (s.change f) := by
  refine hP.store s _ hg (fun ⟨ho, hs, hw⟩ => ⟨?_, hs, hw⟩) h
  show (f s.settings).LinesOwned
  unfold Settings.LinesOwned Settings.OutputsOwned Settings.InputsOwned at ho ⊢
  rwa [hg, hc]

/-- The Retained Area changes, but for the path figures. -/
theorem Kept.withRetained (s : State) (x : Retained) (hx : x.paths = s.retained.paths) (h : P s) :
    P (s.withRetained x) :=
  hP.retained s x (fun hf k f e => hf k f (by rwa [← hx])) h

theorem Kept.withNotices (s : State) (l : List Notice) (h : P s) : P (s.withNotices l) :=
  hP.withRetained s _ rfl h

/-! ## Arbiters and composing -/

theorem Kept.beginAttempt (s : State) (x : StringId) (k n : Nat) (h : P s) : P (s.beginAttempt x k n) := by
  unfold State.beginAttempt
  split
  · exact hP.withTransfer _ _ _ h
  · exact h

theorem Kept.beginDelivery (s : State) (k : Nat) (p : PanelRecord) (h : P s) : P (s.beginDelivery k p) :=
  hP.withStrings _ _ (hP.withPanel s k _ h)

theorem Kept.grant (s : State) (x : StringId) (k : Nat) (h : P s) : P (s.grant x k) := by
  unfold State.grant
  split
  · exact h
  · split
    · exact hP.beginAttempt _ _ _ _ h
    · exact hP.beginAttempt _ _ _ _ (hP.beginDelivery _ _ _ h)
    · exact hP.beginAttempt _ _ _ _ (hP.beginDelivery _ _ _ h)
    · exact h

theorem Kept.arbitrate (s : State) (x : StringId) (h : P s) : P (s.arbitrate x) := by
  unfold State.arbitrate
  split
  · exact h
  · split
    · exact h
    · exact hP.grant _ _ _ h

theorem Kept.runArbiters (s : State) (h : P s) : P s.runArbiters := by
  have arbiter : ∀ (u : State) (x : StringId) (c : Bool), P u → P (if c then u.arbitrate x else u) := by
    intro u x c hu
    split
    · exact hP.arbitrate u x hu
    · exact hu
  exact arbiter _ .b _ (arbiter _ .a _ (hP.withStrings s _ h))

theorem Kept.mayChoose (s : State) (x : StringId) (h : P s) : P (s.mayChoose x) := by
  unfold State.mayChoose
  split
  · split
    · exact hP.choiceTaken s h
    · exact hP.arbitrate _ x (hP.withStrings _ _ (hP.choiceTaken s h))
  · exact h

theorem Kept.handMarks (s : State) (ks : List Nat) (h : P s) : P (s.handMarks ks) := by
  unfold State.handMarks
  split
  · exact h
  · exact hP.mayChoose _ .b (hP.mayChoose _ .a (keep_foldl (fun s x => hP.withStrings s _) _ s h))

theorem Kept.recomposeSign (s : State) (k : Nat) (h : P s) : P (s.recomposeSign k).1 := by
  unfold State.recomposeSign
  split
  · dsimp only
    split <;> exact hP.withSign s k _ h
  · exact h

theorem Kept.recomposeAll (ks marked : List Nat) (s : State) (h : P s) : P (State.recomposeAll ks marked s).1 := by
  induction ks generalizing s marked with
  | nil => exact h
  | cons k ks ih =>
    unfold State.recomposeAll
    exact ih _ _ (hP.recomposeSign s k h)

theorem Kept.recompose (s : State) (ks : List Nat) (h : P s) : P (s.recompose ks) :=
  hP.handMarks _ _ (hP.recomposeAll ks [] s h)

/-! ## Segments and gates -/

theorem Kept.evaluate (s : State) (ks : List Nat) (h : P s) : P (s.evaluate ks).1 := by
  unfold State.evaluate
  dsimp only
  split
  · exact hP.reports _ _ (hP.withSegments s _ h)
  · exact hP.recompose _ _ (hP.reports _ _ (hP.withSegments s _ h))

/-- A gate takes a new state: within one state it is replaced, and into another it is moved with its order. -/
theorem Kept.changeGateWith {f : GateRecord → State → State} (hf : ∀ r s, P s → P (f r s)) (k : Nat) (c : GateCause)
    (g : GateState) (s : State) (h : P s) : P (s.changeGateWith f k c g) := by
  unfold State.changeGateWith
  split
  · rename_i r old hr ho
    by_cases hs : old.position.sameState g.position = true
    · have h1 := hP.gate s k old g ho hs h
      simp only [hs, if_true]
      split
      · exact h1
      · exact hP.report _ _ h1
    · have h1 := hP.moved s k r old g hr ho h
      simp only [hs, Bool.false_eq_true, if_false]
      refine hf _ _ ?_
      split
      · exact h1
      · exact hP.other ((s.withGate k (some g)).applyOrder (r.order g.position)) _ rfl rfl rfl rfl rfl h1
  · exact h

theorem Kept.answerTell (s : State) (x : Nat × Bool) (h : P s) : P (s.answerTell x) := by
  have quiet : ∀ r s, P s → P (handOnQuiet r s) := fun r s h => hP.recompose _ _ (hP.evaluate s _ h)
  unfold State.answerTell
  split
  · split
    · exact hP.changeGateWith quiet _ _ _ _ h
    · exact hP.changeGateWith quiet _ _ _ _ h
    · exact h
  · exact h

theorem Kept.answerTells (s : State) (xs : List (Nat × Bool)) (h : P s) : P (s.answerTells xs) :=
  keep_foldl (fun s x => hP.answerTell s x) xs s h

theorem Kept.handOver (s : State) (ks signs : List Nat) (h : P s) : P (s.handOver ks signs) := by
  unfold State.handOver
  dsimp only
  split
  · exact hP.answerTells _ _ (hP.evaluate s ks h)
  · exact hP.answerTells _ _ (hP.recompose _ _ (hP.evaluate s ks h))

theorem Kept.changeGate (s : State) (k : Nat) (c : GateCause) (g : GateState) (h : P s) : P (s.changeGate k c g) :=
  hP.changeGateWith (fun _ s => hP.handOver s _ _) k c g s h

theorem Kept.loweringTest (s : State) (k : Nat) (h : P s) : P (s.loweringTest k) := by
  unfold State.loweringTest
  split
  · split
    · exact hP.changeGate _ _ _ _ h
    · exact h
  · exact h

theorem Kept.reviewHold (s : State) (k : Nat) (h : P s) : P (s.reviewHold k) := by
  unfold State.reviewHold
  split
  · rename_i r g hr hg
    split
    · exact hP.loweringTest _ _ (hP.gate s k g _ hg (beq_self_eq_true _) h)
    · exact h
  · exact h

theorem Kept.tellSign (s : State) (k : Nat) (h : P s) : P (s.tellSign k) :=
  keep_foldl (fun s x => hP.reviewHold s x) _ s h

/-! ## Change events of a gate's lines -/

theorem Kept.bothSwitches (s : State) (k : Nat) (g : GateState) (h : P s) : P (s.bothSwitches k g) := by
  unfold State.bothSwitches
  split
  · exact hP.changeGate _ _ _ _ h
  · exact h

theorem Kept.downSwitchRose (s : State) (k : Nat) (h : P s) : P (s.downSwitchRose k) := by
  unfold State.downSwitchRose
  split
  · split
    · exact hP.bothSwitches _ _ _ h
    · split
      all_goals first
        | exact hP.changeGate _ _ _ _ h
        | exact h
  · exact h

theorem Kept.foundUp (s : State) (k : Nat) (r : GateRecord) (g : GateState) (h : P s) : P (s.foundUp k r g) := by
  unfold State.foundUp
  split <;> exact hP.changeGate _ _ _ _ h

theorem Kept.upLimit (s : State) (k : Nat) (r : GateRecord) (g : GateState) (kind : RaiseKind) (h : P s) :
    P (s.upLimit k r g kind) := by
  unfold State.upLimit
  split
  · cases kind with
    | requested => exact hP.changeGate _ _ _ _ h
    | obstruction => exact hP.loweringTest _ _ (hP.changeGate _ _ _ _ h)
  · exact hP.changeGate _ _ _ _ h

theorem Kept.upSwitchRose (s : State) (k : Nat) (h : P s) : P (s.upSwitchRose k) := by
  unfold State.upSwitchRose
  split
  · split
    · exact hP.bothSwitches _ _ _ h
    · split
      all_goals first
        | exact hP.upLimit _ _ _ _ _ h
        | exact hP.changeGate _ _ _ _ h
        | exact hP.foundUp _ _ _ _ h
        | exact h
  · exact h

theorem Kept.presenceRose (s : State) (k : Nat) (h : P s) : P (s.presenceRose k) := by
  unfold State.presenceRose
  split
  · split
    · split <;> exact hP.changeGate _ _ _ _ h
    · exact h
  · exact h

theorem Kept.keyFell (s : State) (k : Nat) (h : P s) : P (s.keyFell k) := by
  unfold State.keyFell
  split
  · split
    · exact hP.changeGate _ _ _ _ h
    · exact h
  · exact h

theorem Kept.travelExpired (s : State) (k : Nat) (h : P s) : P (s.travelExpired k) := by
  unfold State.travelExpired
  split
  · exact hP.changeGate _ _ _ _ h
  · exact h

/-! ## Settling, hand-overs and asks -/

theorem Kept.settleRound (s : State) (h : P s) : P s.settleRound :=
  hP.runArbiters _ (keep_foldl (fun s x => hP.tellSign s x) _ _ (hP.withStrings s _ h))

theorem Kept.settle (s : State) (h : P s) : P s.settle :=
  hP.settleRound _ (hP.settleRound _ (hP.settleRound s h))

theorem Kept.kick (s : State) (h : P s) : P s.kick := by
  obtain ⟨tr, buf, e, -⟩ := kick_transmits s
  rw [e]
  exact hP.withLine s _ h

theorem Kept.handTouched (s : State) (ks : List Nat) (h : P s) : P (s.handTouched ks) := by
  unfold State.handTouched
  split
  · exact h
  · exact hP.handOver _ _ _ h

theorem Kept.askClosure (s : State) (k : Nat) (h : P s) : P (s.askClosure k) := by
  unfold State.askClosure
  split
  · exact hP.handTouched _ _ (hP.report _ _ (hP.withNotices s _ h))
  · exact h

theorem Kept.handLevels (s : State) (rs : List Rise) (h : P s) : P (s.handLevels rs) := by
  unfold State.handLevels
  split
  · exact h
  · exact keep_foldl (fun s k => keep_foldl (fun s x => hP.askClosure s x) _ s) _ _
      (hP.handOver _ _ _ (hP.reports _ s h))

/-! ## Events and requests -/

theorem Kept.event {m : Moment} {f : State → State} {s t : State} (hf : ∀ s, P s → P (f s)) (h : P s)
    (e : event m f s = .next t) : P t := by
  cases hp : s.powered with
  | false =>
    rw [event_unpowered m f s hp] at e
    cases e
    exact h
  | true =>
    rw [event_powered m f s hp] at e
    cases e
    exact hP.kick _ (hP.settle _ (hf _ (hP.elapse s m h)))

theorem Kept.placeReply (s : State) (r : Reply) (h : P s) : P (s.placeReply r) := by
  obtain ⟨tr, buf, sch, e, -⟩ := placeReply_eq s r
  rw [e]
  exact hP.other s _ rfl rfl rfl rfl rfl h

theorem Kept.carryOut {kind tag : Byte} {f : State → State × Answer} (hf : ∀ s, P s → P (f s).1) (s : State)
    (h : P s) : P (s.carryOut kind tag f) :=
  hP.placeReply _ _ (hP.settle _ (hf _ (hP.popFrame s h)))

theorem Kept.request {m : Moment} {kind tag : Byte} {fields : List Byte} {f : State → State × Answer} {s t : State}
    (hf : ∀ s, P s → P (f s).1) (h : P s) (e : request m kind tag fields f s = .next t) : P t := by
  refine hP.event (fun s h => ?_) h e
  split
  · exact hP.carryOut hf s h
  · exact h

theorem Kept.removal {m : Moment} {item : Nat} {tag : Byte} {fields : List Byte} {f : Nat → State → State × Answer}
    {s t : State} (hf : ∀ k s, P s → P (f k s).1) (h : P s) (e : removal m item tag fields f s = .next t) : P t := by
  unfold Machine.removal at e
  split at e
  · refine hP.request (fun s h => ?_) h e
    unfold carryRemoval
    split
    · exact h
    · split
      · exact h
      · exact hf _ s h
  · exact hP.event (f := id) (fun s h => h) h e

omit hP in
/-- A fold of updates that keep a property for the items of a list keeps it. -/
theorem keep_foldl_mem {α : Type} {f : State → α → State} (xs : List α) (hf : ∀ x ∈ xs, ∀ s, P s → P (f s x))
    (s : State) (h : P s) : P (xs.foldl f s) := by
  induction xs generalizing s with
  | nil => exact h
  | cons x xs ih =>
    exact ih (fun y hy => hf y (List.mem_cons_of_mem _ hy)) _ (hf x (List.mem_cons_self ..) s h)

omit hP in
theorem keep_removeItem {α : Type} {n : Nat} {k : Nat} {table : Vector (Option α) n} {f : α → State → State × Answer}
    {s : State} (hf : ∀ r, lookup table k = some r → P (f r s).1) (h : P s) : P (removeItem k table f s).1 := by
  unfold removeItem
  split
  · exact h
  · split
    · exact h
    · exact hf _ ‹_›

omit hP in
/-- A query changes nothing. -/
theorem keep_queryItem {α : Type} {n : Nat} {fields : List Byte} {table : Vector (Option α) n}
    {reply : Nat → α → List Byte} {s : State} (h : P s) : P (queryItem fields table reply s).1 := by
  unfold queryItem
  split
  · exact h
  · split
    · exact h
    · split <;> exact h

end

end Sys2Proof.Proofs
end

section
/-! SUPPORT. Every command keeps what its updates keep: one lemma for each effect that is more than a reaction, and one
walk through the sixty commands. -/

namespace Sys2Proof.Proofs

open Sys2Proof Sys2Proof.Machine Sys2Proof.Laws

/-! ## What the effects touch -/

/-- A replaced item that is no VANE channel, or was there before, brings no bins. -/
theorem vaneBinsFrom_putItem {v : Vector ChannelTotals 6} {k : Nat} {x : ChannelTotals}
    (hx : ∀ bins invalid, x = .vane bins invalid → itemAt v k = some (.vane bins invalid)) :
    VaneBinsFrom v (putItem v k x) := by
  intro j bins invalid h
  obtain ⟨rfl, e⟩ | e := itemAt_putItem_cases v k j x _ h
  · exact hx bins invalid e.symm
  · exact e

/-- An edge makes no VANE channel and changes none. -/
theorem edge_vane {now : Moment} {high : Bool} {x : ChannelTotals} {bins : Vector Nat 8} {invalid : Nat}
    (h : x.edge now high = .vane bins invalid) : x = .vane bins invalid := by
  cases x with
  | vane b i => exact h
  | width n sum m => cases m <;> cases high <;> cases h
  | off => cases h
  | event n => cases h

/-- A counted event makes no VANE channel and changes none. -/
theorem countRise_vane {x : ChannelTotals} {bins : Vector Nat 8} {invalid : Nat}
    (h : x.countRise = .vane bins invalid) : x = .vane bins invalid := by
  cases x with
  | vane b i => exact h
  | width n sum m => cases h
  | off => cases h
  | event n => cases h

/-- A path's figures after a step end lie in their ranges (R39, R49). -/
theorem stepFigures_inRange (r : PathRecord) {f : PathFigures} {h : Nat} (hf : f.InRange) (hh : h ≤ 10000) :
    (r.stepFigures f h).InRange := by
  obtain ⟨-, hl, hfl⟩ := hf
  refine ⟨hh, levelAfter_le r f.level h hl, fun fl e => ?_⟩
  have e' : countedDown f.floor = some fl := e
  cases hb : f.floor with
  | none =>
    rw [hb] at e'
    cases e'
  | some b =>
    rw [hb] at e'
    obtain ⟨h1, h2, h3⟩ := countedDown_some b fl e'
    obtain ⟨c1, c2, c3, c4⟩ := hfl b hb
    exact ⟨by omega, by omega, h3, by omega⟩

theorem figures_of_itemAt {s : State} {k : Nat} {f : PathFigures} (h : itemAt s.retained.paths k = some f) :
    s.figures k = f := by simp [State.figures, h]

/-- The figures of any number lie in their ranges where the table's do. -/
theorem figures_inRange {s : State} (h : s.FiguresInRange) (k : Nat) : (s.figures k).InRange := by
  cases e : itemAt s.retained.paths k with
  | none => simp [State.figures, e, PathFigures.InRange]
  | some f =>
    rw [figures_of_itemAt e]
    exact h k f e

/-- E lies within 0 to 4 where L and the floor lie in their ranges (R60). -/
theorem effective_le {f : PathFigures} (h : f.InRange) : f.effective ≤ 4 := by
  obtain ⟨-, hl, hfl⟩ := h
  unfold PathFigures.effective
  split
  · exact hl
  · exact Nat.max_le.mpr ⟨hl, (hfl _ ‹_›).2.1⟩

/-- Figures in range put in a table in range leave it in range. -/
theorem figuresInRange_withFigures {s : State} (h : s.FiguresInRange) (k : Nat) {f : PathFigures} (hf : f.InRange) :
    (s.withFigures k f).FiguresInRange := by
  intro j g e
  obtain ⟨-, rfl⟩ | e := itemAt_putItem_cases s.retained.paths k j f g e
  · exact hf
  · exact h j g e

/-- Several figures are put by one change of the Retained Area. -/
theorem foldl_withFigures_eq (xs : List (Nat × PathFigures × PathFigures)) (s : State) :
    xs.foldl (fun s x => s.withFigures x.1 x.2.2) s =
      s.withRetained { s.retained with paths := xs.foldl (fun v x => putItem v x.1 x.2.2) s.retained.paths } := by
  induction xs generalizing s with
  | nil => rfl
  | cons x xs ih =>
    rw [List.foldl_cons, ih]
    rfl

/-- Every index of a step record lies within 0 to 10000 (R39). -/
theorem stepRecord_entries_le (s : State) : ∀ e ∈ s.stepRecord.entries, e.h ≤ 10000 := by
  intro e he
  obtain ⟨x, -, rfl⟩ := List.mem_map.mp he
  exact hazardUpdate_le _ _ _

section
variable {P : State → Prop} (hP : Kept P)
include hP

/-! ## The Field Interface -/

theorem Kept.withInput (s : State) (line : Nat) (i : InputState) (h : P s) : P (s.withInput line i) :=
  hP.field s _ rfl (fun _ _ _ e => e) h

theorem Kept.withPin (s : State) (line : Nat) (high : Bool) (h : P s) : P (s.withPin line high) :=
  hP.field s _ rfl (fun _ _ _ e => e) h

theorem Kept.withZone (s : State) (k : Nat) (z : ClearZone) (h : P s) : P (s.withZone k z) :=
  hP.field s _ rfl (fun _ _ _ e => e) h

theorem Kept.widthEdgeOn (s : State) (line : Nat) (high : Bool) (h : P s) : P (s.widthEdgeOn line high) := by
  refine keep_foldl (fun s x h => ?_) _ s h
  split
  · rename_i c hc
    exact hP.field s _ rfl (vaneBinsFrom_putItem fun _ _ e => by rw [hc, edge_vane e]) h
  · exact h

theorem Kept.lineTransition (s : State) (line : Nat) (high : Bool) (h : P s) : P (s.lineTransition line high) := by
  unfold State.lineTransition
  split
  · split
    · exact h
    · dsimp only
      split
      · exact hP.widthEdgeOn _ _ _ (hP.withInput _ _ _ (hP.withPin s _ _ h))
      · exact hP.withInput _ _ _ (hP.withPin s _ _ h)
  · exact h

theorem Kept.presenceChanged (s : State) (k : Nat) (high : Bool) (h : P s) : P (s.presenceChanged k high) := by
  have zoned : P (match lookup s.settings.gates k, itemAt s.field.clearZones k with
      | some r, some z => s.withZone k (z.presence s.now r.clearHold high)
      | _, _ => s) := by
    split
    · exact hP.withZone s _ _ h
    · exact h
  unfold State.presenceChanged
  dsimp only
  split
  · exact hP.presenceRose _ _ zoned
  · exact zoned

theorem Kept.deliverChange (s : State) (f : InputFunction) (high : Bool) (h : P s) : P (s.deliverChange f high) := by
  cases f with
  | unused => exact h
  | vaneLine _ => exact h
  | vaneOk _ => exact h
  | presence k => exact hP.presenceChanged s k high h
  | upSwitch k =>
    cases high with
    | false => exact h
    | true => exact hP.upSwitchRose s k h
  | downSwitch k =>
    cases high with
    | false => exact h
    | true => exact hP.downSwitchRose s k h
  | key k =>
    cases high with
    | false => exact hP.keyFell s k h
    | true => exact hP.changeGate s k _ _ h
  | counter k =>
    unfold State.deliverChange
    dsimp only
    split
    · rename_i c hc
      split
      · exact hP.field s _ rfl (vaneBinsFrom_putItem fun _ _ e => by rw [hc, countRise_vane e]) h
      · exact h
    · exact h

/-! ## The step end -/

theorem Kept.takeIndices (s : State) (es : List PathEntry) (hes : ∀ e ∈ es, e.h ≤ 10000) (h : P s) :
    P (s.takeIndices es) := by
  unfold State.takeIndices
  dsimp only
  refine hP.handLevels _ _ ?_
  rw [foldl_withFigures_eq]
  refine hP.retained s _ (fun hf => ?_) h
  rw [← foldl_withFigures_eq]
  have hnew : ∀ e ∈ es, (s.takeIndex e).InRange := by
    intro e he
    unfold State.takeIndex
    split
    · exact stepFigures_inRange _ (figures_inRange hf _) (hes e he)
    · exact figures_inRange hf _
  rw [List.foldl_map]
  exact keep_foldl_mem (P := State.FiguresInRange) es
    (fun e he u hu => figuresInRange_withFigures hu e.path (hnew e he)) s hf

theorem Kept.takeReadouts (s : State) (r : StepRecord) (h : P s) : P (s.takeReadouts r) :=
  hP.recompose _ _ (hP.other s _ rfl rfl rfl rfl rfl h)

theorem Kept.endStep (s : State) (h : P s) : P s.endStep := by
  have closed : P (s.closeStep s.stepRecord).emptyChannels :=
    hP.stepped (s.withRetained _) _ rfl (hP.withRetained s
      { s.retained with
        lastTemp := s.memoryAfter
        prevSector := if s.stepRecord.sector.isSome then s.stepRecord.sector else s.retained.prevSector } rfl h)
  exact hP.takeReadouts _ _ (hP.takeIndices _ _ (stepRecord_entries_le s) (hP.report _ _ closed))

/-! ## Clock and notices -/

theorem Kept.walkList (s : State) (now : Nat) (h : P s) : P (s.walkList now).1 :=
  hP.reports _ _ (hP.withNotices s _ h)

theorem Kept.clockWalk (s : State) (now : Nat) (h : P s) : P (s.clockWalk now) :=
  hP.handTouched _ _ (hP.walkList s now h)

theorem Kept.withClock (s : State) (c : Option Nat) (h : P s) : P (s.withClock c) := hP.withRetained s _ rfl h

theorem Kept.setClock (s : State) (new : Nat) (h : P s) : P (s.setClock new) := by
  have set : P { s.withClock (some new) with clockNext := s.now + usPerSecond } :=
    hP.other (s.withClock (some new)) _ rfl rfl rfl rfl rfl (hP.withClock s _ h)
  unfold State.setClock
  dsimp only
  split
  · exact hP.clockWalk _ _ set
  · exact set

theorem Kept.tick (s : State) (h : P s) : P s.tick := by
  unfold State.tick
  split
  · exact h
  · have next : P { s with clockNext := s.clockNext + usPerSecond } := hP.other s _ rfl rfl rfl rfl rfl h
    dsimp only
    split
    · exact hP.clockWalk _ _ (hP.withClock _ _ next)
    · exact next

theorem Kept.post (s : State) (n : Notice) (h : P s) : P (s.post n) :=
  hP.handTouched _ _ (hP.reports _ _ (hP.withNotices s _ h))

theorem Kept.withdraw (s : State) (n : Notice) (h : P s) : P (s.withdraw n) :=
  hP.handTouched _ _ (hP.report _ _ (hP.withNotices s _ h))

/-! ## Paths and segments -/

theorem Kept.withFigures (s : State) (k : Nat) (f : PathFigures) (hf : s.FiguresInRange → f.InRange) (h : P s) :
    P (s.withFigures k f) :=
  hP.retained s _ (fun hr => figuresInRange_withFigures hr k (hf hr)) h

omit hP in
theorem cleared_inRange : PathFigures.cleared.InRange := ⟨by decide, by decide, nofun⟩

theorem Kept.handSegments (s : State) (ks : List Nat) (h : P s) : P (s.handSegments ks) := by
  unfold State.handSegments
  split
  · exact h
  · exact hP.handOver _ _ _ h

theorem Kept.putPath (s : State) (k : Nat) (r : PathRecord) (h : P s) : P (s.putPath k r) := by
  have set : P (s.change (Settings.setPath k (some r))) := hP.change s _ rfl rfl h
  refine hP.handSegments _ _ ?_
  split
  · exact hP.withFigures _ _ _ (fun _ => cleared_inRange) set
  · exact set

theorem Kept.dropPath (s : State) (k : Nat) (r : PathRecord) (h : P s) : P (s.dropPath k r) :=
  hP.handSegments _ _ (hP.withFigures _ _ _ (fun _ => cleared_inRange) (hP.change s _ rfl rfl h))

/-- A floor within the ranges of R58 leaves the figures in theirs. -/
theorem Kept.postFloor (s : State) (k level duration : Nat) (hl : level ≤ 4)
    (hd : level = 0 ∨ (1 ≤ duration ∧ duration ≤ 144)) (h : P s) : P (s.postFloor k level duration) := by
  refine hP.handLevels _ _ (hP.withFigures s k _ (fun hr => ?_) h)
  obtain ⟨h1, h2, -⟩ := figures_inRange hr k
  refine ⟨h1, h2, fun fl e => ?_⟩
  have e' : postedFloor level duration = some fl := e
  unfold postedFloor at e'
  split at e'
  · cases e'
  · rename_i hz
    cases e'
    obtain ⟨d1, d2⟩ := hd.resolve_left hz
    exact ⟨Nat.pos_of_ne_zero hz, hl, d1, d2⟩

theorem Kept.putSegment (s : State) (k : Nat) (r : SegmentRecord) (h : P s) : P (s.putSegment k r) := by
  have set : P (s.change (Settings.setSegment k (some r))) := hP.change s _ rfl rfl h
  unfold State.putSegment
  split
  · exact hP.report _ _ (hP.withSegments _ _ set)
  · exact hP.handOver _ _ _ set

theorem Kept.dropSegment (s : State) (k : Nat) (h : P s) : P (s.dropSegment k) :=
  hP.report _ _ (hP.withSegments _ _ (hP.change s _ rfl rfl h))

/-! ## Signs -/

theorem Kept.reportSign (s : State) (k : Nat) (e : SignEvent) (h : P s) : P (s.reportSign k e) := by
  unfold State.reportSign
  split
  · exact hP.report _ _ h
  · exact h

theorem Kept.orphanOn (s : State) (x : StringId) (k : Nat) (h : P s) : P (s.orphanOn x k) := by
  unfold State.orphanOn
  split
  · exact h
  · split
    · exact hP.withTransfer _ _ _ h
    · exact h

theorem Kept.orphan (s : State) (k : Nat) (h : P s) : P (s.orphan k) :=
  hP.orphanOn _ _ _ (hP.orphanOn _ _ _ h)

theorem Kept.movePanel (s : State) (k : Nat) (h : P s) : P (s.movePanel k) := by
  have fresh : P ((s.orphan k).withPanel k (some PanelRecord.fresh)) := hP.withPanel _ _ _ (hP.orphan s k h)
  refine hP.tellSign _ _ ?_
  split
  · exact hP.reportSign _ _ _ fresh
  · exact fresh

theorem Kept.putSign (s : State) (k : Nat) (r : SignRecord) (h : P s) : P (s.putSign k r) := by
  have set : P (s.change (Settings.setSign k (some r))) := hP.change s _ rfl rfl h
  unfold State.putSign
  split
  · have recomposed := fun x => hP.recomposeSign _ k (hP.withSign _ k x set)
    refine hP.handMarks _ _ ?_
    dsimp only
    split
    · exact hP.movePanel _ _ (recomposed _)
    · exact recomposed _
  · exact hP.handMarks _ [k] (hP.withPanel _ k _ (hP.withSign _ k _ set))

theorem Kept.dropSign (s : State) (k : Nat) (h : P s) : P (s.dropSign k) := by
  have told : P (if s.inFault k then s.reportSign k .removed else s) := by
    split
    · exact hP.reportSign _ _ _ h
    · exact h
  exact hP.withPanel _ _ _ (hP.withSign _ _ _ (hP.change _ _ rfl rfl (hP.orphan _ _ told)))

theorem Kept.changePages (s : State) (f : SignRecord → SignState → SignState) (k : Nat) (h : P s) :
    P (State.changePages f s k) := by
  unfold State.changePages
  split
  · exact hP.withSign _ _ _ h
  · exact h

/-! ## Strings -/

theorem Kept.endTransfer (s : State) (x : StringId) (h : P s) : P (s.endTransfer x) :=
  hP.arbitrate _ _ (hP.withTransfer _ _ _ h)

theorem Kept.succeed (s : State) (x : StringId) (a : Attempt) (h : P s) : P (s.succeed x a) := by
  unfold State.succeed
  split
  · exact hP.endTransfer _ _ h
  · split
    · refine hP.endTransfer _ _ (hP.tellSign _ _ ?_)
      split
      · exact hP.reportSign _ _ _ (hP.withSign _ _ _ (hP.withPanel _ _ _ h))
      · exact hP.withSign _ _ _ (hP.withPanel _ _ _ h)
    · exact hP.endTransfer _ _ h

theorem Kept.failAttempt (s : State) (x : StringId) (a : Attempt) (c : Failure) (h : P s) :
    P (s.failAttempt x a c) := by
  unfold State.failAttempt
  split
  · exact hP.endTransfer _ _ h
  · split
    · exact hP.endTransfer _ _ h
    · have failed := fun k p => hP.withPanel s k p h
      dsimp only
      split
      · exact hP.endTransfer _ _ (failed _ _)
      · split
        · exact hP.beginAttempt _ _ _ _ (failed _ _)
        · exact hP.endTransfer _ _ (hP.tellSign _ _ (hP.reportSign _ _ _ (failed _ _)))

theorem Kept.stringByte (s : State) (x : StringId) (b : Option Byte) (h : P s) : P (s.stringByte x b) := by
  unfold State.stringByte
  split
  · exact h
  · split
    · exact h
    · split
      · exact h
      · unfold State.takeVerdict
        split
        · exact hP.withTransfer _ _ _ h
        · exact hP.succeed _ _ _ h
        · exact hP.failAttempt _ _ _ _ h

theorem Kept.imageSent (s : State) (x : StringId) (h : P s) : P (s.imageSent x) := by
  unfold State.imageSent
  split
  · exact h
  · split
    · exact hP.withTransfer _ _ _ h
    · exact h

theorem Kept.windowEnds (s : State) (x : StringId) (h : P s) : P (s.windowEnds x) := by
  unfold State.windowEnds
  split
  · exact h
  · split
    · exact h
    · split
      · exact hP.failAttempt _ _ _ _ h
      · exact h

theorem Kept.chooseFor (s : State) (k : Nat) (ready : PanelRecord → Bool) (h : P s) : P (s.chooseFor k ready) := by
  unfold State.chooseFor
  split
  · split
    · exact hP.arbitrate _ _ h
    · exact h
  · exact h

/-! ## The station line -/

theorem Kept.checkSilence (s : State) (h : P s) : P s.checkSilence := by
  unfold State.checkSilence
  split
  · exact hP.report _ _ (hP.withLine s _ h)
  · exact h

theorem Kept.heard (s : State) (h : P s) : P s.heard := by
  refine hP.withLine _ _ ?_
  split
  · exact h
  · exact hP.report _ _ (hP.withLine s _ h)

theorem Kept.joinQueue (s : State) (f : Frame) (h : P s) : P (s.joinQueue f) := by
  unfold State.joinQueue
  split
  · exact hP.withLine s _ h
  · split
    · exact hP.placeReply _ _ h
    · exact h

theorem Kept.receiveByte (s : State) (b : Byte) (h : P s) : P (s.receiveByte b) := by
  have taken := hP.withLine s { s.line with receiver := (s.line.receiver.take b).1, lastByte := s.now } h
  unfold State.receiveByte
  dsimp only
  split
  · exact taken
  · exact hP.joinQueue _ _ (hP.heard _ taken)

theorem Kept.receiveBytes (s : State) (bs : List Byte) (h : P s) : P (s.receiveBytes bs) := by
  unfold State.receiveBytes
  split
  · exact h
  · refine keep_foldl (fun s b => hP.receiveByte s b) _ _ ?_
    split
    · exact hP.withLine s _ h
    · exact h

theorem Kept.goOn (s : State) (h : P s) : P s.goOn := by
  unfold State.goOn
  split
  · split
    · exact hP.choiceTaken s h
    · exact hP.kick _ (hP.choiceTaken s h)
  · exact hP.kick s h

/-! ## The Settings Store -/

theorem Kept.answerSave (s : State) (a : Answer) (h : P s) : P (s.answerSave a) := by
  unfold State.answerSave
  split
  · exact h
  · exact hP.placeReply _ _ (hP.withLine s _ h)

theorem Kept.beginSave (s : State) (tag : Byte) (h : P s) : P (s.beginSave tag) := by
  refine hP.withLine _ _ (hP.store s _ rfl (fun hO => ⟨hO.1, nofun, fun w e => ?_⟩) h)
  cases e
  exact hO.1

theorem Kept.saveDone (s : State) (w : StoreWrite) (hw : s.store.write = some w) (h : P s) : P (s.saveDone w) := by
  refine hP.answerSave _ _ (hP.store s _ rfl (fun hO => ⟨hO.1, fun c e => ?_, nofun⟩) h)
  cases e
  exact hO.2.2 w hw

theorem Kept.saveFailed (s : State) (h : P s) : P s.saveFailed :=
  hP.answerSave _ _ (hP.store s _ rfl (fun hO => ⟨hO.1, nofun, nofun⟩) h)

/-! ## Starts -/

theorem Kept.startNotices (s : State) (kind : StartKind) (h : P s) : P (s.startNotices kind) := by
  cases kind with
  | cold => exact keep_foldl (fun s k h => hP.report _ _ (hP.withNotices s _ h)) _ s h
  | warm =>
    unfold State.startNotices
    dsimp only
    split
    · exact hP.walkList s _ h
    · exact h

theorem Kept.startWarning (s : State) (x : Nat × GateRecord) (hx : lookup s.settings.gates x.1 = some x.2)
    (h : P s) : P (s.startWarning x) := by
  unfold State.startWarning
  split
  · rename_i g hg
    split
    · exact hP.moved s x.1 x.2 g (GateState.resting .warning 0) hx hg h
    · exact h
  · exact h

omit hP in
theorem startWarning_settings (s : State) (x : Nat × GateRecord) : (s.startWarning x).settings = s.settings := by
  unfold State.startWarning
  split
  · split <;> rfl
  · rfl

omit hP in
/-- The entries of a table are its records. -/
theorem mem_entries {α : Type} {n : Nat} {v : Vector (Option α) n} {x : Nat × α} :
    x ∈ entries v ↔ lookup v x.1 = some x.2 := by
  constructor
  · intro h
    obtain ⟨k, -, hk⟩ := List.mem_filterMap.mp h
    obtain ⟨r, hr, rfl⟩ := Option.map_eq_some_iff.mp hk
    exact hr
  · intro h
    exact List.mem_filterMap.mpr ⟨x.1, mem_numbers.mpr (lookup_bounds v h), by rw [h]; rfl⟩

theorem Kept.startSegments (s : State) (h : P s) : P s.startSegments := by
  have warned : P ((entries s.settings.gates).foldl State.startWarning s.deriveSegments) := by
    refine (keep_foldl_mem (P := fun u => u.settings = s.settings ∧ P u) (f := State.startWarning)
      (entries s.settings.gates) (fun x hx u ⟨hs, hu⟩ => ?_) s.deriveSegments ⟨rfl, hP.withSegments s _ h⟩).2
    exact ⟨(startWarning_settings u x).trans hs, hP.startWarning u x (by rw [hs]; exact mem_entries.mp hx) hu⟩
  exact hP.withSegments _ _ warned

theorem Kept.startSigns (s : State) (h : P s) : P s.startSigns := hP.other s _ rfl rfl rfl rfl rfl h

theorem Kept.startPart (s : State) (cause : StartCause) (requested : Bool) (h : P s) :
    P (s.startPart cause requested) := by
  have started := hP.startNotices _ (startKind s.retained.checkHolds) (hP.loaded s h)
  have composed := hP.startSigns _ (hP.startSegments _ started)
  exact hP.withRetained _ _ rfl (hP.report _ _ (hP.runArbiters _ (hP.withStrings _ _ composed)))

theorem Kept.supplyLost (s : State) (cut : Bool) (h : P s) : P (s.supplyLost cut) :=
  hP.held s _ (fun hf => hf) h

theorem Kept.released (s : State) (kept : Bool) (phase : Moment) (h : P s) : P (s.released kept phase) :=
  hP.startPart _ _ _ (hP.other (s.toReset { s.retained with checkHolds := s.retained.checkHolds && kept }) _
    rfl rfl rfl rfl rfl (hP.held s _ (fun hf => hf) h))

omit hP in
theorem retained_cleared_inRange : ∀ k f, itemAt Retained.cleared.paths k = some f → f.InRange := by
  intro k f e
  have h : k ≠ 0 := by
    rintro rfl
    simp at e
  by_cases hk : k ≤ 12
  · have := e.symm.trans (itemAt_replicate PathFigures.cleared (Nat.pos_of_ne_zero h) hk)
    cases this
    exact cleared_inRange
  · rw [itemAt_of_gt _ (by omega)] at e
    cases e

theorem Kept.restarted (s : State) (kind : StartKind) (h : P s) : P (s.restarted kind) := by
  refine hP.startPart _ _ _ ?_
  cases kind with
  | warm => exact hP.other (s.toReset s.retained) _ rfl rfl rfl rfl rfl (hP.held s _ (fun hf => hf) h)
  | cold =>
    exact hP.other (s.toReset Retained.cleared) _ rfl rfl rfl rfl rfl
      (hP.held s _ (fun _ => retained_cleared_inRange) h)

theorem Kept.replyGone (s : State) (h : P s) : P s.replyGone := by
  unfold State.replyGone
  split
  · have gone := fun l => hP.withLine s l h
    dsimp only
    split
    · exact gone _
    · split
      · exact gone _
      · exact hP.restarted _ _ (gone _)
  · exact h

end

end Sys2Proof.Proofs
end

section
/-! SUPPORT. The requests keep what their updates keep, and so does every command and every step. -/

namespace Sys2Proof.Proofs

open Sys2Proof Sys2Proof.Machine Sys2Proof.Laws

/-! ## What the checks of a request leave to its effect -/

theorem not_true_of_ne_false {b : Bool} (h : ¬ (!b) = true) : b = true := by simpa using h

/-- An accepted CALIBRATE conflicts with nothing. -/
theorem checkCalibration_ok {c : Settings} {f : List Byte} {new : Calibration} (h : checkCalibration c f = .ok new) :
    c.calibrationConflict new = false := by
  unfold checkCalibration at h
  split at h
  · cases h
  · split at h
    · cases h
    · split at h
      · cases h
      · split at h
        · cases h
        · rename_i hc
          cases h
          exact Bool.eq_false_iff.mpr hc

/-- What DEFINE GATE has checked when it is accepted. -/
theorem gateRefusal_none {s : State} {f : List Byte} (h : s.gateRefusal f = none) :
    (1 ≤ byteAt f 0 ∧ byteAt f 0 ≤ 8) ∧ (gateOf f).inRange = true ∧
      s.settings.lineConflict (byteAt f 0) (gateOf f) = false := by
  simp only [State.gateRefusal] at h
  split at h
  · cases h
  · split at h
    · cases h
    · rename_i hr
      split at h
      · cases h
      · split at h
        · cases h
        · split at h
          · cases h
          · rename_i hc
            obtain ⟨⟨hk, -⟩, hr⟩ := by simpa only [Bool.and_eq_true, Bool.not_eq_true', Bool.not_eq_false] using hr
            exact ⟨(within_iff _ _ _).mp hk, hr, Bool.eq_false_iff.mpr hc⟩

/-- What PATH FLOOR has checked when it is accepted. -/
theorem floorRefusal_none {c : Settings} {f : List Byte} (h : floorRefusal c f = none) :
    byteAt f 1 ≤ 4 ∧ (byteAt f 1 = 0 ∨ (1 ≤ byteAt f 2 ∧ byteAt f 2 ≤ 144)) := by
  unfold floorRefusal at h
  split at h
  · cases h
  · split at h
    · cases h
    · rename_i hr
      simp only [Bool.not_eq_true', Bool.not_eq_false, Bool.and_eq_true, Bool.or_eq_true, beq_iff_eq,
        within_iff] at hr
      exact ⟨hr.1.2.2, hr.2⟩

section
variable {P : State → Prop} (hP : Kept P)
include hP

/-! ## The requests -/

theorem Kept.handGateRecord (old : Option GateRecord) (new : GateRecord) (s : State) (h : P s) :
    P (handGateRecord old new s) := by
  cases old with
  | none => exact hP.handOver _ _ _ h
  | some r => exact hP.handOver _ _ _ h

theorem Kept.carryDefineGate (f : List Byte) (s : State) (h : P s) : P (carryDefineGate f s).1 := by
  unfold Machine.carryDefineGate
  split
  · exact h
  · obtain ⟨hk, hr, hc⟩ := gateRefusal_none ‹_›
    exact hP.handGateRecord _ _ _ (hP.reports _ _ (hP.placed s _ _ hk hr hc h))

theorem Kept.carryRemoveGate (k : Nat) (s : State) (h : P s) : P (carryRemoveGate k s).1 := by
  refine keep_removeItem (fun r hr => ?_) h
  split
  · exact h
  · exact hP.handOver _ _ _ (hP.report _ _ (hP.taken s k r hr h))

omit hP in
theorem keep_gateRequest {act : Nat → GateRecord → GateState → State → State × Answer}
    (ha : ∀ k r g s, P s → P (act k r g s).1) (f : List Byte) (s : State) (h : P s) : P (gateRequest f act s).1 := by
  unfold Machine.gateRequest
  split
  · exact h
  · split
    · exact h
    · split
      · exact ha _ _ _ s h
      · exact h

theorem Kept.raiseGate (k : Nat) (r : GateRecord) (g : GateState) (s : State) (h : P s) : P (raiseGate k r g s).1 := by
  unfold Machine.raiseGate
  split
  · exact h
  · split
    · exact h
    · split
      · exact h
      · exact hP.changeGate _ _ _ _ h

theorem Kept.clearGate (k : Nat) (r : GateRecord) (g : GateState) (s : State) (h : P s) : P (clearGate k r g s).1 := by
  unfold Machine.clearGate
  split
  · exact h
  · exact hP.changeGate _ _ _ _ h

theorem Kept.carryCalibrate (f : List Byte) (s : State) (h : P s) : P (carryCalibrate f s).1 := by
  unfold Machine.carryCalibrate
  split
  · exact h
  · exact hP.calibrated s _ (checkCalibration_ok ‹_›) h

theorem Kept.carryPathFloor (f : List Byte) (s : State) (h : P s) : P (carryPathFloor f s).1 := by
  unfold Machine.carryPathFloor
  split
  · exact h
  · obtain ⟨hl, hd⟩ := floorRefusal_none ‹_›
    exact hP.postFloor s _ _ _ hl hd h

theorem Kept.carryTimeSet (f : List Byte) (s : State) (h : P s) : P (carryTimeSet f s).1 := by
  unfold Machine.carryTimeSet
  split
  · exact h
  · split
    · exact h
    · exact hP.setClock s _ h

theorem Kept.carryNoticePost (f : List Byte) (s : State) (h : P s) : P (carryNoticePost f s).1 := by
  unfold Machine.carryNoticePost
  split
  · exact h
  · split
    · exact h
    · exact hP.post s _ h

theorem Kept.carryNoticeWithdraw (f : List Byte) (s : State) (h : P s) : P (carryNoticeWithdraw f s).1 := by
  unfold Machine.carryNoticeWithdraw
  split
  · exact h
  · split
    · exact h
    · exact hP.withdraw s _ h

theorem Kept.carryDefinePath (f : List Byte) (s : State) (h : P s) : P (carryDefinePath f s).1 := by
  unfold Machine.carryDefinePath
  split
  · exact h
  · exact hP.putPath s _ _ h

theorem Kept.carryDefineSegment (f : List Byte) (s : State) (h : P s) : P (carryDefineSegment f s).1 := by
  unfold Machine.carryDefineSegment
  split
  · exact h
  · exact hP.putSegment s _ _ h

theorem Kept.carryRemoveSegment (k : Nat) (s : State) (h : P s) : P (carryRemoveSegment k s).1 := by
  refine keep_removeItem (fun r _ => ?_) h
  split
  · exact h
  · exact hP.dropSegment s k h

theorem Kept.carryDefineSign (f : List Byte) (s : State) (h : P s) : P (carryDefineSign f s).1 := by
  unfold Machine.carryDefineSign
  split
  · exact h
  · exact hP.putSign s _ _ h

theorem Kept.carryRemoveSign (k : Nat) (s : State) (h : P s) : P (carryRemoveSign k s).1 := by
  refine keep_removeItem (fun r _ => ?_) h
  split
  · exact hP.dropSign s k h
  · exact h

theorem Kept.carryDefineProfile (f : List Byte) (s : State) (h : P s) : P (carryDefineProfile f s).1 := by
  unfold Machine.carryDefineProfile
  split
  · exact h
  · split
    · exact h
    · split
      · exact h
      · exact hP.recompose _ _ (hP.change s _ rfl rfl h)

theorem Kept.carryRemoveProfile (k : Nat) (s : State) (h : P s) : P (carryRemoveProfile k s).1 := by
  refine keep_removeItem (fun r _ => ?_) h
  split
  · exact hP.change s _ rfl rfl h
  · exact h

theorem Kept.carryDefineGroup (f : List Byte) (s : State) (h : P s) : P (carryDefineGroup f s).1 := by
  unfold Machine.carryDefineGroup
  split
  · exact h
  · exact hP.change s _ rfl rfl h

theorem Kept.carryPageWrite (f : List Byte) (s : State) (h : P s) : P (carryPageWrite f s).1 := by
  unfold Machine.carryPageWrite
  split
  · exact h
  · split
    · split
      · exact h
      · exact keep_foldl (fun s k => hP.changePages s _ k) _ s h
    · exact h

theorem Kept.carryPageSwap (f : List Byte) (s : State) (h : P s) : P (carryPageSwap f s).1 := by
  unfold Machine.carryPageSwap
  split
  · exact h
  · split
    · exact h
    · split
      · exact h
      · exact hP.recompose _ _ (keep_foldl (fun s k => hP.changePages s _ k) _ s h)

theorem Kept.carryTextLoad (f : List Byte) (s : State) (h : P s) : P (carryTextLoad f s).1 := by
  unfold Machine.carryTextLoad
  split
  · exact h
  · split
    · exact h
    · exact hP.recompose _ _ (hP.change s _ rfl rfl h)

theorem Kept.carryLinkSet (f : List Byte) (s : State) (h : P s) : P (carryLinkSet f s).1 := by
  unfold Machine.carryLinkSet
  split
  · exact h
  · split
    · exact h
    · split
      · exact h
      · exact hP.checkSilence _ (hP.change s _ rfl rfl h)

theorem Kept.carryRestart (f : List Byte) (s : State) (h : P s) : P (carryRestart f s).1 := by
  unfold Machine.carryRestart
  split
  · exact h
  · split
    · exact h
    · exact hP.withLine s _ h

omit hP in
theorem keep_carryQueryStep (f : List Byte) (s : State) (h : P s) : P (carryQueryStep f s).1 := by
  unfold Machine.carryQueryStep
  split
  · exact h
  · dsimp only
    split <;> exact h

omit hP in
theorem keep_carryQueryStatus (f : List Byte) (s : State) (h : P s) : P (carryQueryStatus f s).1 := by
  unfold Machine.carryQueryStatus
  split <;> exact h

omit hP in
theorem keep_carryQueryNotices (f : List Byte) (s : State) (h : P s) : P (carryQueryNotices f s).1 := by
  unfold Machine.carryQueryNotices
  split
  · exact h
  · split <;> exact h

omit hP in
theorem keep_carryQueryText (f : List Byte) (s : State) (h : P s) : P (carryQueryText f s).1 := by
  unfold Machine.carryQueryText
  split
  · exact h
  · split <;> exact h

/-! ## The commands that are no requests -/

theorem Kept.execSaveSettings {m : Moment} {tag : Byte} {fields : List Byte} {s t : State} (h : P s)
    (e : execSaveSettings m tag fields s = .next t) : P t := by
  refine hP.event (fun s h => ?_) h e
  split
  · split
    · exact hP.beginSave _ _ (hP.popFrame s h)
    · exact hP.carryOut (fun s h => h) s h
  · exact h

theorem Kept.execUnknownKind {m : Moment} {kind : Byte} {body : List Byte} {s t : State} (h : P s)
    (e : execUnknownKind m kind body s = .next t) : P t := by
  refine hP.event (fun s h => ?_) h e
  split
  · exact hP.carryOut (fun s h => h) s h
  · exact h

theorem Kept.execStoreWriteEnd {m : Moment} {accepted : Bool} {s t : State} (h : P s)
    (e : execStoreWriteEnd m accepted s = .next t) : P t := by
  refine hP.event (fun s h => ?_) h e
  split
  · exact h
  · split
    · exact hP.saveDone s _ ‹_› h
    · exact hP.saveFailed s h

theorem Kept.execStoreWriteTimeout {m : Moment} {s t : State} (h : P s)
    (e : execStoreWriteTimeout m s = .next t) : P t := by
  refine hP.event (fun s h => ?_) h e
  split
  · exact h
  · split
    · exact hP.saveFailed s h
    · exact h

theorem Kept.execReplySent {m : Moment} {s t : State} (h : P s) (e : execReplySent m s = .next t) : P t := by
  cases e
  split
  · exact hP.goOn _ (hP.settle _ (hP.replyGone _ (hP.elapse s m h)))
  · exact h

theorem Kept.execStart {kept : Bool} {phase : Moment} {s t : State} (h : P s)
    (e : execStart kept phase s = .next t) : P t := by
  unfold Machine.execStart at e
  injection e with e
  rw [← e]
  exact hP.kick _ (hP.settle _ (hP.released s kept phase h))

theorem Kept.execSupplyLoss {m : Moment} {cut : Bool} {s t : State} (h : P s)
    (e : execSupplyLoss m cut s = .next t) : P t := by
  cases e
  split
  · exact hP.supplyLost _ _ (hP.elapse s m h)
  · exact h

theorem Kept.execFieldLineChange {m : Moment} {line : Nat} {high : Bool} {s t : State} (h : P s)
    (e : execFieldLineChange m line high s = .next t) : P t := by
  unfold Machine.execFieldLineChange at e
  split at e
  · exact hP.event (fun s => hP.lineTransition s line high) h e
  · cases e
    exact hP.withPin s line high h

theorem Kept.execWidthEdge {m : Moment} {line : Nat} {high : Bool} {s t : State} (h : P s)
    (e : execWidthEdge m line high s = .next t) : P t := by
  unfold Machine.execWidthEdge at e
  split at e
  · refine hP.event (fun s h => ?_) h e
    split
    · exact hP.lineTransition s line high h
    · exact h
  · cases e
    exact hP.withPin s line high h

theorem Kept.execClockTick {m : Moment} {s t : State} (h : P s) (e : execClockTick m s = .next t) : P t := by
  unfold Machine.execClockTick at e
  split at e
  · refine hP.event (fun s h => ?_) h e
    split
    · exact hP.tick s h
    · exact h
  · cases e
    exact hP.withClock s _ h

theorem Kept.execChangeEvent {m : Moment} {line : Nat} {s t : State} (h : P s)
    (e : execChangeEvent m line s = .next t) : P t := by
  refine hP.event (fun s h => ?_) h e
  split
  · exact hP.deliverChange _ _ _ (hP.withInput s _ _ h)
  · exact h

omit hP in
/-- An event whose effect is taken on a condition. -/
theorem keep_if {c : State → Prop} [DecidablePred c] {f : State → State} (hf : ∀ s, P s → P (f s)) (s : State)
    (h : P s) : P (if c s then f s else s) := by
  split
  · exact hf s h
  · exact h

/-- Every command keeps what its updates keep. -/
theorem Kept.exec {i : Instr} {s t : State} (h : P s) (e : exec i s = .next t) : P t := by
  cases i with
  | timeSet m tag f => exact hP.request (hP.carryTimeSet f) h e
  | noticePost m tag f => exact hP.request (hP.carryNoticePost f) h e
  | noticeWithdraw m tag f => exact hP.request (hP.carryNoticeWithdraw f) h e
  | pageWrite m tag f => exact hP.request (hP.carryPageWrite f) h e
  | pageSwap m tag f => exact hP.request (hP.carryPageSwap f) h e
  | textLoad m tag f => exact hP.request (hP.carryTextLoad f) h e
  | gateRaise m tag f => exact hP.request (keep_gateRequest hP.raiseGate f) h e
  | gateClear m tag f => exact hP.request (keep_gateRequest hP.clearGate f) h e
  | pathFloor m tag f => exact hP.request (hP.carryPathFloor f) h e
  | restart m tag f => exact hP.request (hP.carryRestart f) h e
  | definePath m tag f => exact hP.request (hP.carryDefinePath f) h e
  | defineSegment m tag f => exact hP.request (hP.carryDefineSegment f) h e
  | defineGate m tag f => exact hP.request (hP.carryDefineGate f) h e
  | defineSign m tag f => exact hP.request (hP.carryDefineSign f) h e
  | defineProfile m tag f => exact hP.request (hP.carryDefineProfile f) h e
  | defineGroup m tag f => exact hP.request (hP.carryDefineGroup f) h e
  | removePath m tag f => exact hP.removal (fun k s h => keep_removeItem (fun r _ => hP.dropPath s k r h) h) h e
  | removeSegment m tag f => exact hP.removal hP.carryRemoveSegment h e
  | removeGate m tag f => exact hP.removal hP.carryRemoveGate h e
  | removeSign m tag f => exact hP.removal hP.carryRemoveSign h e
  | removeProfile m tag f => exact hP.removal hP.carryRemoveProfile h e
  | removeGroup m tag f =>
    exact hP.removal (fun k s h => keep_removeItem (fun _ _ => hP.change s _ rfl rfl h) h) h e
  | calibrate m tag f => exact hP.request (hP.carryCalibrate f) h e
  | linkSet m tag f => exact hP.request (hP.carryLinkSet f) h e
  | saveSettings m tag f => exact hP.execSaveSettings h e
  | queryStatus m tag f => exact hP.request (keep_carryQueryStatus f) h e
  | queryPath m tag f => exact hP.request (fun s h => keep_queryItem h) h e
  | querySegment m tag f => exact hP.request (fun s h => keep_queryItem h) h e
  | queryGate m tag f => exact hP.request (fun s h => keep_queryItem h) h e
  | querySign m tag f => exact hP.request (fun s h => keep_queryItem h) h e
  | queryNotices m tag f => exact hP.request (keep_carryQueryNotices f) h e
  | queryStep m tag f => exact hP.request (keep_carryQueryStep f) h e
  | queryText m tag f => exact hP.request (keep_carryQueryText f) h e
  | unknownKind m kind body => exact hP.execUnknownKind h e
  | stationFrameReceived m bytes => exact hP.event (fun s => hP.receiveBytes s bytes) h e
  | gapExpiry m => exact hP.event (keep_if fun s => hP.withLine s _) h e
  | replySent m => exact hP.execReplySent h e
  | reportAgeExpiry m => exact hP.event (fun s h => h) h e
  | reportFrameSent m => exact hP.event (keep_if fun s => hP.withLine s _) h e
  | silenceLimitReached m => exact hP.event hP.checkSilence h e
  | storeWriteEnd m accepted => exact hP.execStoreWriteEnd h e
  | storeWriteTimeout m => exact hP.execStoreWriteTimeout h e
  | start kept phase => exact hP.execStart h e
  | supplyLoss m cut => exact hP.execSupplyLoss h e
  | fieldLineChange m line high => exact hP.execFieldLineChange h e
  | changeEvent m line => exact hP.execChangeEvent h e
  | widthEdge m line high => exact hP.execWidthEdge h e
  | vaneSample m => exact hP.event (keep_if hP.sampled) h e
  | stepEnd m => exact hP.event (keep_if hP.endStep) h e
  | clockTick m => exact hP.execClockTick h e
  | holdDeadline m k => exact hP.event (fun s => hP.loweringTest s k) h e
  | clearZoneExpiry m k => exact hP.event (keep_if fun s h => hP.loweringTest _ k (hP.withZone s k .idle h)) h e
  | travelTimeout m k => exact hP.event (keep_if fun s => hP.travelExpired s k) h e
  | refreshDue m k => exact hP.event (fun s => hP.chooseFor s k _) h e
  | retryDue m k => exact hP.event (fun s => hP.chooseFor s k _) h e
  | imageFrameSent m x => exact hP.event (fun s => hP.imageSent s x) h e
  | shownFrameReceived m x bytes => exact hP.event (keep_foldl (fun s b => hP.stringByte s x b) bytes) h e
  | replyWindowEnd m x => exact hP.event (fun s => hP.windowEnds s x) h e
  | badLength m length => exact hP.event (keep_if fun s => hP.receiveBytes s [length]) h e
  | missingStopBit m => exact hP.event (fun s => hP.withLine s _) h e

/-- Every step keeps what the updates of the commands keep. -/
theorem Kept.step {s t : State} (h : P s) (e : step s = .next t) : P t := by
  unfold Machine.step at e
  split at e
  · cases e
    exact h
  · rename_i c rest _
    have queued : P { s with pending := rest } := hP.other s _ rfl rfl rfl rfl rfl h
    exact hP.exec queued e

end

end Sys2Proof.Proofs
end

section
/-! The path figures and the vane bins, as every step keeps them (O53). -/

namespace Sys2Proof.Proofs

open Sys2Proof Sys2Proof.Machine Sys2Proof.Laws

/-! ## Tables made item by item -/

/-- An item of a table is its vector's, one place below its number. -/
theorem itemAt_eq_some {α : Type} {n : Nat} {v : Vector α n} {k : Nat} {x : α} :
    itemAt v k = some x ↔ 1 ≤ k ∧ v[k - 1]? = some x := by
  unfold itemAt
  by_cases h : k = 0
  · simp [h]
  · simp [h, Nat.one_le_iff_ne_zero]

theorem itemAt_map {α β : Type} {n : Nat} (f : α → β) (v : Vector α n) (k : Nat) :
    itemAt (v.map f) k = (itemAt v k).map f := by
  unfold itemAt
  split
  · rfl
  · exact Vector.getElem?_map

theorem itemAt_zipWith {α β γ : Type} {n : Nat} {f : α → β → γ} {v : Vector α n} {w : Vector β n} {k : Nat} {z : γ} :
    itemAt (Vector.zipWith f v w) k = some z ↔ ∃ x y, itemAt v k = some x ∧ itemAt w k = some y ∧ f x y = z := by
  rw [itemAt_eq_some, Vector.getElem?_zipWith]
  constructor
  · rintro ⟨hk, h⟩
    split at h
    · rename_i x y hx hy
      exact ⟨x, y, itemAt_eq_some.mpr ⟨hk, hx⟩, itemAt_eq_some.mpr ⟨hk, hy⟩, Option.some.inj h⟩
    · cases h
  · rintro ⟨x, y, hx, hy, rfl⟩
    obtain ⟨hk, hx⟩ := itemAt_eq_some.mp hx
    obtain ⟨-, hy⟩ := itemAt_eq_some.mp hy
    exact ⟨hk, by rw [hx, hy]⟩

/-- Item `k` of a table given by a function of the places. -/
theorem itemAt_ofFn {α : Type} {n : Nat} {f : Fin n → α} {k : Nat} {x : α} :
    itemAt (Vector.ofFn f) k = some x ↔ ∃ i : Fin n, k = i.val + 1 ∧ f i = x := by
  rw [itemAt_eq_some, Vector.getElem?_ofFn]
  constructor
  · rintro ⟨hk, h⟩
    split at h
    · rename_i hi
      exact ⟨⟨k - 1, hi⟩, (Nat.sub_add_cancel hk).symm, Option.some.inj h⟩
    · cases h
  · rintro ⟨i, rfl, rfl⟩
    simp

/-- A place of a vector is the item one number above it. -/
theorem itemAt_get {α : Type} {n : Nat} (v : Vector α n) (i : Fin n) : itemAt v (i.val + 1) = some (v.get i) := by
  simp [itemAt, Vector.get]

/-! ## What the gates' start leaves -/

/-- Deriving the gates at a start touches gates and outputs alone. -/
theorem startGates_keeps (s : State) :
    s.startGates.retained = s.retained ∧ s.startGates.weather = s.weather ∧
      s.startGates.field.channels = s.field.channels ∧ s.startGates.store = s.store := by
  have derived : ∀ v : Vector (Option GateState) 8, (s.withGates v).retained = s.retained ∧
      (s.withGates v).weather = s.weather ∧ (s.withGates v).field.channels = s.field.channels ∧
      (s.withGates v).store = s.store := fun v => ⟨rfl, rfl, rfl, rfl⟩
  unfold State.startGates
  refine keep_foldl (P := fun u : State => u.retained = s.retained ∧ u.weather = s.weather ∧
    u.field.channels = s.field.channels ∧ u.store = s.store) (fun u x hu => ?_) _ _ (derived _)
  split
  · exact hu
  · exact hu

/-- The path figures a start begins with (R66, R199). -/
theorem loaded_paths (s : State) : s.loaded.retained.paths =
    startFigures (loadedSettings s.store.saved)
      (if s.retained.checkHolds then s.retained else Retained.cleared).paths := rfl

/-! ## Path figures (R39, R49, R60) -/

/-- A start clears the figures of paths without a record, and keeps the others (R66, R67). -/
theorem startFigures_inRange (c : Settings) (v : Vector PathFigures 12)
    (h : ∀ k f, itemAt v k = some f → f.InRange) : ∀ k f, itemAt (startFigures c v) k = some f → f.InRange := by
  intro k f e
  obtain ⟨r, g, -, hg, rfl⟩ := itemAt_zipWith.mp e
  split
  · exact h k g hg
  · exact cleared_inRange

theorem figuresInRange_congr {s t : State} (hr : t.retained = s.retained) (h : s.FiguresInRange) : t.FiguresInRange := by
  unfold State.FiguresInRange
  rwa [hr]

@[simp] theorem calibrate_retained (s : State) (new : Calibration) : (s.calibrate new).retained = s.retained := rfl

/-- The ranges of the path figures are kept by every update: those of the Retained Area say so themselves. -/
theorem kept_figuresInRange : Kept State.FiguresInRange where
  other _ _ _ _ hr _ _ h := figuresInRange_congr hr h
  retained _ _ hx h := hx h
  field _ _ _ _ h := h
  gate _ _ _ _ _ _ h := h
  moved _ _ _ _ _ _ _ h := h
  store _ _ _ _ h := h
  sampled _ h := h
  stepped _ _ _ h := h
  calibrated s new _ h := figuresInRange_congr (calibrate_retained s new) h
  placed _ _ _ _ _ _ h := h
  taken _ _ _ _ h := h
  held _ _ hr h := hr h
  loaded := by
    intro s h
    obtain ⟨hr, -⟩ := startGates_keeps s.loaded
    unfold State.FiguresInRange
    rw [hr, loaded_paths]
    refine startFigures_inRange _ _ ?_
    split
    · exact h
    · exact retained_cleared_inRange

/-! ## Vane bins (R12) -/

theorem sum_set_succ (l : List Nat) (n : Nat) (h : n < l.length) : (l.set n (l[n] + 1)).sum = l.sum + 1 := by
  induction l generalizing n with
  | nil => cases h
  | cons x l ih =>
    cases n with
    | zero =>
      simp only [List.set_cons_zero, List.getElem_cons_zero, List.sum_cons]
      omega
    | succ n =>
      have := ih n (Nat.lt_of_succ_lt_succ h)
      simp only [List.set_cons_succ, List.getElem_cons_succ, List.sum_cons]
      omega

/-- A bin that increases adds one sample. -/
theorem vaneSamples_bin (bins : Vector Nat 8) (invalid : Nat) {k : Nat} (h : k < 8) :
    vaneSamples (bins.setIfInBounds k (bins.getD k 0 + 1)) invalid = vaneSamples bins invalid + 1 := by
  have hk : k < bins.toList.length := by simpa using h
  have hd : bins.getD k 0 = bins.toList[k] := by simp [Vector.getD, h]
  unfold vaneSamples
  rw [Vector.toList_setIfInBounds, hd, sum_set_succ _ _ hk]
  omega

theorem graySector_lt (a b c : Bool) : graySector a b c < 8 := by
  revert a b c
  decide

/-- A sample increases one bin by one. -/
theorem sample_samples {s : State} {c : ChannelConfig} {bins bins' : Vector Nat 8} {invalid invalid' : Nat}
    (h : s.sample c bins invalid = .vane bins' invalid') : vaneSamples bins' invalid' = vaneSamples bins invalid + 1 := by
  unfold State.sample at h
  split at h
  · cases h
    rfl
  · cases h
    exact vaneSamples_bin bins invalid (graySector_lt _ _ _)

/-- Only a VANE channel is one after a sample instant, with one sample more. -/
theorem sampleChannel_vane {s : State} {c : ChannelConfig} {x : ChannelTotals} {bins : Vector Nat 8} {invalid : Nat}
    (h : s.sampleChannel c x = .vane bins invalid) :
    ∃ b i, x = .vane b i ∧ vaneSamples bins invalid = vaneSamples b i + 1 := by
  cases x with
  | vane b i => exact ⟨b, i, rfl, sample_samples h⟩
  | off => cases h
  | event n => cases h
  | width n sum m => cases h

/-- Emptied accumulators hold no sample. -/
theorem emptied_samples {x : ChannelTotals} {bins : Vector Nat 8} {invalid : Nat}
    (h : x.emptied = .vane bins invalid) : vaneSamples bins invalid = 0 := by
  cases x with
  | vane b i =>
    cases h
    decide
  | off => cases h
  | event n => cases h
  | width n sum m => cases h

/-- A VANE channel that begins is credited with the instants that have passed (R12). -/
theorem fresh_samples {c : ChannelConfig} {high : Bool} {passed : Nat} {bins : Vector Nat 8} {invalid : Nat}
    (h : c.fresh high passed = .vane bins invalid) : vaneSamples bins invalid = passed := by
  unfold ChannelConfig.fresh at h
  split at h
  · cases h
  · cases h
  · cases h
  · cases h
    simp [vaneSamples]

/-- The count of the vane samples is kept by every update: a sample instant counts one more, a step end and a start begin
anew, and a channel that begins is credited. -/
theorem kept_vaneCounts : Kept State.VaneCounts where
  other := by
    intro s t hf hw _ _ _ h
    unfold State.VaneCounts
    rwa [hf, hw]
  retained _ _ _ h := h
  field _ _ _ hv h k bins invalid e := h k bins invalid (hv k bins invalid e)
  gate _ _ _ _ _ _ h := h
  moved _ _ _ _ _ _ _ h := h
  store _ _ _ _ h := h
  sampled := by
    intro s h k bins invalid e
    obtain ⟨c, x, -, hx, hs⟩ := itemAt_zipWith.mp e
    obtain ⟨b, i, rfl, hn⟩ := sampleChannel_vane hs
    rw [hn, h k b i hx]
    rfl
  stepped := by
    intro s w hw h k bins invalid e
    obtain ⟨x, -, hx⟩ := Option.map_eq_some_iff.mp ((itemAt_map _ s.field.channels k).symm.trans e)
    exact (emptied_samples hx).trans hw.symm
  calibrated := by
    intro s new _ h k bins invalid e
    obtain ⟨i, rfl, hi⟩ := itemAt_ofFn.mp e
    unfold State.recalibrated at hi
    split at hi
    · exact h _ bins invalid (hi ▸ itemAt_get _ i)
    · exact fresh_samples hi
  placed _ _ _ _ _ _ h := h
  taken _ _ _ _ h := h
  held := by
    intro s r _ _ k bins invalid e
    obtain ⟨hk, e⟩ := itemAt_eq_some.mp e
    obtain ⟨hl, e⟩ := Vector.getElem?_eq_some_iff.mp e
    cases (Vector.getElem_replicate ..).symm.trans e
  loaded := by
    intro s _ k bins invalid e
    obtain ⟨-, hw, hc, -⟩ := startGates_keeps s.loaded
    rw [hc] at e
    obtain ⟨c, -, hf⟩ := Option.map_eq_some_iff.mp ((itemAt_map _ _ k).symm.trans e)
    rw [hw]
    exact fresh_samples hf

/-- Settles O53: the two invariants are instances of what every step keeps. -/
theorem figuresAndBinsStayInRange : Obligations.FiguresAndBinsStayInRange := by
  refine ⟨fun s t h e => ?_, fun s t h e => kept_vaneCounts.step h e⟩
  have ht : t.FiguresInRange := kept_figuresInRange.step h e
  exact ⟨ht, fun k => effective_le (figures_inRange ht k)⟩

end Sys2Proof.Proofs
end

section
/-! The owners of the lines and the outputs of the gates, as every step keeps them (O56). -/

namespace Sys2Proof.Proofs

open Sys2Proof Sys2Proof.Machine Sys2Proof.Laws

/-! ## Outputs at a setting (R5, R110) -/

/-- A gate's three outputs stand at the setting of a state. -/
def OutputsAt (v : Vector Bool 16) (r : GateRecord) (p : GatePosition) : Prop :=
  levelAt v r.lower = p.setting.1 ∧ levelAt v r.raise = p.setting.2.1 ∧ levelAt v r.flasher = p.setting.2.2

/-- A line that an order takes to one level has it. -/
theorem levelAt_order_of_mem (v : Vector Bool 16) (os : List (Nat × Bool)) (l : Nat) (b : Bool) (hl : 1 ≤ l ∧ l ≤ 16)
    (h : (l, b) ∈ os) (hn : (l, !b) ∉ os) : levelAt (orderOutputs v os) l = b := by
  cases b with
  | true => exact levelAt_order_on v os l hl h
  | false => exact levelAt_order_off v os l hl h hn

/-- A gate's own order leaves its outputs at the setting of the state it was given for. -/
theorem outputsAt_order_self (v : Vector Bool 16) (r : GateRecord) (p : GatePosition)
    (hl : ∀ l ∈ r.outputs, 1 ≤ l ∧ l ≤ 16) (hn : r.outputs.Nodup) : OutputsAt (orderOutputs v (r.order p)) r p := by
  obtain ⟨⟨n1, n2⟩, n3⟩ : (r.lower ≠ r.raise ∧ r.lower ≠ r.flasher) ∧ r.raise ≠ r.flasher := by
    simpa [GateRecord.outputs] using hn
  refine ⟨levelAt_order_of_mem v _ _ _ (hl _ ?_) ?_ ?_, levelAt_order_of_mem v _ _ _ (hl _ ?_) ?_ ?_,
    levelAt_order_of_mem v _ _ _ (hl _ ?_) ?_ ?_⟩
  all_goals simp [GateRecord.outputs, GateRecord.order, n1, n2, n3, n1.symm, n2.symm, n3.symm]

/-- An order for other lines leaves a gate's outputs as they stand. -/
theorem outputsAt_order_other {v : Vector Bool 16} {os : List (Nat × Bool)} {q : GateRecord} {p : GatePosition}
    (hl : ∀ l ∈ q.outputs, 1 ≤ l ∧ l ≤ 16) (hd : ∀ l ∈ q.outputs, l ∉ os.map Prod.fst) (h : OutputsAt v q p) :
    OutputsAt (orderOutputs v os) q p := by
  have keeps : ∀ l ∈ q.outputs, levelAt (orderOutputs v os) l = levelAt v l :=
    fun l m => levelAt_order_other v os l (hl l m) (hd l m)
  obtain ⟨h1, h2, h3⟩ := h
  refine ⟨(keeps _ ?_).trans h1, (keeps _ ?_).trans h2, (keeps _ ?_).trans h3⟩
  all_goals simp [GateRecord.outputs]

/-- An order for a gate names its outputs. -/
theorem order_lines (r : GateRecord) (p : GatePosition) : (r.order p).map Prod.fst = r.outputs := rfl

/-- States that are one state, whatever the stop cause or raise kind, have one setting. -/
theorem setting_of_sameState {a b : GatePosition} (h : a.sameState b = true) : a.setting = b.setting := by
  cases a <;> cases b <;> simp [GatePosition.sameState, GatePosition.code] at h <;> rfl

/-! ## Owners of the outputs -/

section
variable {c : Settings} (hO : c.OutputsOwned)
include hO

theorem outputs_bounds {k : Nat} {r : GateRecord} (h : lookup c.gates k = some r) :
    ∀ l ∈ r.outputs, 1 ≤ l ∧ l ≤ 16 := (hO k r h).1

theorem outputs_nodup {k : Nat} {r : GateRecord} (h : lookup c.gates k = some r) : r.outputs.Nodup :=
  (hO k r h).2.1

/-- Another gate's output is not this gate's. -/
theorem outputs_disjoint {j k : Nat} {q r : GateRecord} (hj : j ≠ k) (hr : lookup c.gates k = some r)
    (hq : lookup c.gates j = some q) : ∀ l ∈ q.outputs, l ∉ r.outputs :=
  fun l hl => (hO j q hq).2.2 k r hj.symm hr l hl

end

/-- The invariant: the tables give every line one owner, and the outputs stand at the settings of the gate states. -/
def OutputsKept (s : State) : Prop := s.TablesOwned ∧ s.OutputsFollow

theorem owned_of_kept {s : State} (h : OutputsKept s) : s.settings.OutputsOwned := h.1.1.1

/-- A state with the same tables, gates and outputs keeps the invariant. -/
theorem outputsKept_congr {s t : State} (hs : t.store = s.store) (hg : t.gates = s.gates)
    (ho : t.field.outputs = s.field.outputs) (h : OutputsKept s) : OutputsKept t := by
  unfold OutputsKept State.TablesOwned State.OutputsFollow State.settings State.gate at h ⊢
  rwa [hs, hg, ho]

/-- A gate moved with its own order stands at its setting, and every other gate as before. -/
theorem outputsKept_moved {s : State} {k : Nat} {r : GateRecord} {g : GateState} (h' : GateState)
    (hr : lookup s.settings.gates k = some r) (hg : s.gate k = some g) (h : OutputsKept s) :
    OutputsKept ((s.withGate k (some h')).applyOrder (r.order h'.position)) := by
  have hO := owned_of_kept h
  refine ⟨h.1, fun j q i hq hi => ?_⟩
  have hi' := (gate_withGate s k j (some h') (lookup_bounds _ hg)).symm.trans hi
  by_cases hj : j = k
  · subst hj
    obtain rfl : r = q := Option.some.inj (hr.symm.trans hq)
    rw [if_pos rfl] at hi'
    cases hi'
    exact outputsAt_order_self _ r _ (outputs_bounds hO hr) (outputs_nodup hO hr)
  · rw [if_neg hj] at hi'
    exact outputsAt_order_other (outputs_bounds hO hq) (outputs_disjoint hO hj hr hq) (h.2 j q i hq hi')

/-- A gate replaced within one state keeps its setting. -/
theorem outputsKept_gate {s : State} {k : Nat} {g h' : GateState} (hg : s.gate k = some g)
    (hs : g.position.sameState h'.position = true) (h : OutputsKept s) : OutputsKept (s.withGate k (some h')) := by
  refine ⟨h.1, fun j q i hq hi => ?_⟩
  rw [gate_withGate s k j (some h') (lookup_bounds _ hg)] at hi
  by_cases hj : j = k
  · subst hj
    rw [if_pos rfl] at hi
    cases hi
    rw [← setting_of_sameState hs]
    exact h.2 j q g hq hg
  · rw [if_neg hj] at hi
    exact h.2 j q i hq hi

/-! ## Settings with one gate record replaced -/

theorem any_eq_false_iff {α : Type} {l : List α} {p : α → Bool} : l.any p = false ↔ ∀ x ∈ l, p x = false := by
  simp [List.any_eq_false]

/-- The other gate records are those of the other numbers. -/
theorem mem_otherGates {c : Settings} {k : Nat} {q : GateRecord} :
    q ∈ c.otherGates k ↔ ∃ j, j ≠ k ∧ lookup c.gates j = some q := by
  unfold Settings.otherGates
  simp only [List.mem_map, List.mem_filter, bne_iff_ne, ne_eq]
  constructor
  · rintro ⟨⟨j, r⟩, ⟨hm, hj⟩, rfl⟩
    exact ⟨j, hj, mem_entries.mp hm⟩
  · rintro ⟨j, hj, hq⟩
    exact ⟨(j, q), ⟨mem_entries.mpr hq, hj⟩, rfl⟩

theorem mem_vector_iff_itemAt {α : Type} {n : Nat} {v : Vector α n} {x : α} : x ∈ v ↔ ∃ k, itemAt v k = some x := by
  rw [Vector.mem_iff_getElem?]
  constructor
  · rintro ⟨i, h⟩
    exact ⟨i + 1, itemAt_eq_some.mpr ⟨Nat.le_add_left .., h⟩⟩
  · rintro ⟨k, h⟩
    exact ⟨k - 1, (itemAt_eq_some.mp h).2⟩

/-- The lines a calibration set names are those of its channels. -/
theorem mem_named {c : Calibration} {l : Nat} : l ∈ c.named ↔ ∃ j x, itemAt c.channels j = some x ∧ l ∈ x.lines := by
  unfold Calibration.named
  rw [List.mem_flatMap]
  simp only [Vector.mem_toList_iff, mem_vector_iff_itemAt]
  constructor
  · rintro ⟨x, ⟨j, h⟩, hl⟩
    exact ⟨j, x, h, hl⟩
  · rintro ⟨j, x, h, hl⟩
    exact ⟨x, ⟨j, h⟩, hl⟩

/-- A gate record without conflict: its lines are distinct, no other gate's, and its inputs no channel's (R19). -/
theorem lineConflict_eq_false {c : Settings} {k : Nat} {r : GateRecord} :
    c.lineConflict k r = false ↔ r.inputs.Nodup ∧ r.outputs.Nodup ∧
      (∀ j q, j ≠ k → lookup c.gates j = some q → (∀ l ∈ r.inputs, l ∉ q.inputs) ∧ ∀ l ∈ r.outputs, l ∉ q.outputs) ∧
      ∀ j x, itemAt c.calibration.channels j = some x → ∀ l ∈ r.inputs, l ∉ x.lines := by
  have channels : ∀ l, (c.calibration.channels.any fun x => decide (l ∈ x.lines)) = false ↔
      ∀ j x, itemAt c.calibration.channels j = some x → l ∉ x.lines := by
    intro l
    rw [← Vector.any_toList, any_eq_false_iff]
    simp only [Vector.mem_toList_iff, mem_vector_iff_itemAt, decide_eq_false_iff_not, forall_exists_index]
    exact forall_comm
  unfold Settings.lineConflict
  simp only [Bool.or_eq_false_iff, Bool.not_eq_false', distinct, decide_eq_true_eq, any_eq_false_iff, mem_otherGates,
    channels, List.contains_eq_mem, decide_eq_false_iff_not, forall_exists_index, and_imp]
  constructor
  · rintro ⟨⟨⟨h1, h2⟩, h3⟩, h4⟩
    exact ⟨h1, h2, fun j q hj hq => ⟨fun l hl => (h3 l hl).1 q j hj hq, fun l hl => h4 l hl q j hj hq⟩,
      fun j x hx l hl => (h3 l hl).2 j x hx⟩
  · rintro ⟨h1, h2, h3, h4⟩
    exact ⟨⟨⟨h1, h2⟩, fun l hl => ⟨fun q j hj hq => (h3 j q hj hq).1 l hl, fun j x hx => h4 j x hx l hl⟩⟩,
      fun l hl q j hj hq => (h3 j q hj hq).2 l hl⟩

/-- The output lines of a record in range are lines (R105). -/
theorem outputs_of_inRange {r : GateRecord} (h : r.inRange = true) : ∀ l ∈ r.outputs, 1 ≤ l ∧ l ≤ 16 := by
  simp only [GateRecord.inRange, Bool.and_eq_true, allWithin, List.all_eq_true, List.mem_cons, within_iff] at h
  obtain ⟨⟨⟨⟨-, h⟩, -⟩, -⟩, -⟩ := h
  intro l hl
  refine h l ?_
  simp only [GateRecord.outputs, List.mem_cons, List.not_mem_nil, or_false] at hl ⊢
  tauto

theorem lookup_setGate_self (c : Settings) {k : Nat} (r : Option GateRecord) (hk : 1 ≤ k ∧ k ≤ 8) :
    lookup (c.setGate k r).gates k = r := lookup_putItem_self _ r hk.1 hk.2

theorem lookup_setGate_ne (c : Settings) {j k : Nat} (r : Option GateRecord) (h : j ≠ k) :
    lookup (c.setGate k r).gates j = lookup c.gates j := lookup_putItem_ne _ r h

/-- A record without conflict joins owned lines. -/
theorem linesOwned_setGate {c : Settings} {k : Nat} {r : GateRecord} (hk : 1 ≤ k ∧ k ≤ 8) (hr : r.inRange = true)
    (hc : c.lineConflict k r = false) (h : c.LinesOwned) : (c.setGate k (some r)).LinesOwned := by
  obtain ⟨hO, hI, hN⟩ := h
  obtain ⟨h1, h2, h3, h4⟩ := lineConflict_eq_false.mp hc
  have self := lookup_setGate_self c (some r) hk
  have free : ∀ l ∈ r.inputs, l ∉ c.calibration.named := by
    intro l hl hm
    obtain ⟨j, x, hx, hlx⟩ := mem_named.mp hm
    exact h4 j x hx l hl hlx
  refine ⟨fun j q hq => ?_, fun j q hq => ?_, hN⟩
  · by_cases hj : j = k
    · subst hj
      cases self.symm.trans hq
      refine ⟨outputs_of_inRange hr, h2, fun i p hi hp => ?_⟩
      rw [lookup_setGate_ne c _ hi] at hp
      exact (h3 i p hi hp).2
    · rw [lookup_setGate_ne c _ hj] at hq
      refine ⟨(hO j q hq).1, (hO j q hq).2.1, fun i p hi hp => ?_⟩
      by_cases hik : i = k
      · subst hik
        cases self.symm.trans hp
        exact fun l hl hm => (h3 j q hj hq).2 l hm hl
      · rw [lookup_setGate_ne c _ hik] at hp
        exact (hO j q hq).2.2 i p hi hp
  · by_cases hj : j = k
    · subst hj
      cases self.symm.trans hq
      refine ⟨h1, free, fun i p hi hp => ?_⟩
      rw [lookup_setGate_ne c _ hi] at hp
      exact (h3 i p hi hp).1
    · rw [lookup_setGate_ne c _ hj] at hq
      refine ⟨(hI j q hq).1, (hI j q hq).2.1, fun i p hi hp => ?_⟩
      by_cases hik : i = k
      · subst hik
        cases self.symm.trans hp
        exact fun l hl hm => (h3 j q hj hq).1 l hm hl
      · rw [lookup_setGate_ne c _ hik] at hp
        exact (hI j q hq).2.2 i p hi hp

/-- A record that goes leaves owned lines. -/
theorem linesOwned_dropGate {c : Settings} {k : Nat} (hk : 1 ≤ k ∧ k ≤ 8) (h : c.LinesOwned) :
    (c.setGate k none).LinesOwned := by
  obtain ⟨hO, hI, hN⟩ := h
  have left : ∀ {j q}, lookup (c.setGate k none).gates j = some q → lookup c.gates j = some q := by
    intro j q hq
    by_cases hj : j = k
    · subst hj
      rw [lookup_setGate_self c none hk] at hq
      cases hq
    · rwa [lookup_setGate_ne c _ hj] at hq
  exact ⟨fun j q hq => ⟨(hO j q (left hq)).1, (hO j q (left hq)).2.1,
      fun i p hi hp => (hO j q (left hq)).2.2 i p hi (left hp)⟩,
    fun j q hq => ⟨(hI j q (left hq)).1, (hI j q (left hq)).2.1,
      fun i p hi hp => (hI j q (left hq)).2.2 i p hi (left hp)⟩, hN⟩

/-! ## DEFINE GATE and REMOVE ITEM -/

/-- The outputs that a replaced record leaves behind are outputs it named. -/
theorem droppedOutputs_lines {old : Option GateRecord} {new : GateRecord} {l : Nat}
    (h : l ∈ (droppedOutputs old new).map Prod.fst) : ∃ r, old = some r ∧ l ∈ r.outputs := by
  cases old with
  | none => cases h
  | some r =>
    refine ⟨r, rfl, ?_⟩
    simp only [droppedOutputs, List.map_append, List.mem_append] at h
    simp only [GateRecord.outputs, List.mem_cons, List.not_mem_nil, or_false]
    have one : ∀ {a b : Nat}, l ∈ (if a = b then [] else [(a, false)]).map Prod.fst → l = a := by
      intro a b hm
      split at hm
      · cases hm
      · simpa using hm
    rcases h with (h | h) | h
    · exact Or.inl (one h)
    · exact Or.inr (Or.inl (one h))
    · exact Or.inr (Or.inr (one h))

theorem outputsKept_placed {s : State} {k : Nat} {r : GateRecord} (hk : 1 ≤ k ∧ k ≤ 8) (hr : r.inRange = true)
    (hc : s.settings.lineConflict k r = false) (h : OutputsKept s) : OutputsKept (gatePlaced k r s) := by
  obtain ⟨⟨hL, hS, hW⟩, hF⟩ := h
  have hL' := linesOwned_setGate hk hr hc hL
  have hO := hL'.1
  have self := lookup_setGate_self s.settings (some r) hk
  refine ⟨⟨hL', hS, hW⟩, fun j q i hq hi => ?_⟩
  have hq' : lookup (s.settings.setGate k (some r)).gates j = some q := hq
  by_cases hj : j = k
  · subst hj
    cases self.symm.trans hq'
    have hi' := (lookup_putItem_self s.gates _ hk.1 hk.2).symm.trans hi
    cases hi'
    exact outputsAt_order_self _ r _ (outputs_bounds hO self) (outputs_nodup hO self)
  · have hi' : s.gate j = some i := (lookup_putItem_ne s.gates _ hj).symm.trans hi
    have hqs : lookup s.settings.gates j = some q := (lookup_setGate_ne _ _ hj).symm.trans hq'
    refine outputsAt_order_other (outputs_bounds hO hq') (outputs_disjoint hO hj self hq') ?_
    refine outputsAt_order_other (outputs_bounds hO hq') (fun l hl hm => ?_) (hF j q i hqs hi')
    obtain ⟨o, ho, hlo⟩ := droppedOutputs_lines hm
    exact outputs_disjoint hL.1 hj ho hqs l hl hlo

theorem outputsKept_taken {s : State} {k : Nat} {r : GateRecord} (hr : lookup s.settings.gates k = some r)
    (h : OutputsKept s) : OutputsKept (gateTaken k r s) := by
  have hk := lookup_bounds _ hr
  obtain ⟨⟨hL, hS, hW⟩, hF⟩ := h
  refine ⟨⟨linesOwned_dropGate hk hL, hS, hW⟩, fun j q i hq hi => ?_⟩
  have hq' : lookup (s.settings.setGate k none).gates j = some q := hq
  have hj : j ≠ k := by
    rintro rfl
    rw [lookup_setGate_self _ none hk] at hq'
    cases hq'
  rw [lookup_setGate_ne _ _ hj] at hq'
  have hi' : s.gate j = some i := (lookup_putItem_ne s.gates _ hj).symm.trans hi
  refine outputsAt_order_other (outputs_bounds hL.1 hq') (fun l hl hm => ?_) (hF j q i hq' hi')
  refine outputs_disjoint hL.1 hj hr hq' l hl ?_
  simpa using hm

/-! ## CALIBRATE -/

/-- A calibration set without conflict joins owned lines. -/
theorem linesOwned_calibrated {c : Settings} {new : Calibration} (hc : c.calibrationConflict new = false)
    (h : c.LinesOwned) : ({ c with calibration := new } : Settings).LinesOwned := by
  obtain ⟨hO, hI, -⟩ := h
  simp only [Settings.calibrationConflict, Bool.or_eq_false_iff, any_eq_false_iff, Bool.not_eq_false', distinct,
    decide_eq_true_eq, List.contains_eq_mem, decide_eq_false_iff_not] at hc
  obtain ⟨⟨h1, h2⟩, -⟩ := hc
  exact ⟨hO, fun k r hr => ⟨(hI k r hr).1, fun l hl hm => h1 l hm (k, r) (mem_entries.mpr hr) hl, (hI k r hr).2.2⟩, h2⟩

theorem outputsKept_calibrated {s : State} {new : Calibration} (hc : s.settings.calibrationConflict new = false)
    (h : OutputsKept s) : OutputsKept (s.calibrate new) :=
  ⟨⟨linesOwned_calibrated hc h.1.1, h.1.2⟩, h.2⟩

/-! ## Starts -/

/-- The factory settings name no line (R198). -/
theorem factory_linesOwned : factorySettings.LinesOwned := by
  have none : ∀ k r, lookup factorySettings.gates k ≠ some r := by
    intro k r h
    cases (lookup_replicate_none k).symm.trans h
  exact ⟨fun k r h => absurd h (none k r), fun k r h => absurd h (none k r), by decide⟩

theorem loaded_linesOwned {saved : Option Settings} (h : ∀ c, saved = some c → c.LinesOwned) :
    (loadedSettings saved).LinesOwned := by
  cases saved with
  | none => exact factory_linesOwned
  | some c => exact h c rfl

/-- The order a start gives for a gate (R133). -/
def startOrder (s : State) (x : Nat × GateRecord) : State :=
  match s.gate x.1 with
  | some g => s.applyOrder (x.2.order g.position)
  | none => s

/-- Orders given gate by gate leave the outputs of the gates they were given for at their settings. -/
theorem startOrders_follow {c : Settings} (hO : c.OutputsOwned) (xs : List (Nat × GateRecord)) (s : State)
    (hxs : ∀ x ∈ xs, lookup c.gates x.1 = some x.2) {k : Nat} {r : GateRecord} {g : GateState}
    (hr : lookup c.gates k = some r) (hg : s.gate k = some g)
    (h : (k, r) ∈ xs ∨ OutputsAt s.field.outputs r g.position) :
    OutputsAt (xs.foldl startOrder s).field.outputs r g.position := by
  induction xs generalizing s with
  | nil => exact h.resolve_left nofun
  | cons x xs ih =>
    have hx := hxs x (List.mem_cons_self ..)
    have gates : (startOrder s x).gate k = s.gate k := by
      unfold startOrder
      split <;> rfl
    refine ih _ (fun y hy => hxs y (List.mem_cons_of_mem _ hy)) (gates.trans hg) ?_
    by_cases hk : x.1 = k
    · subst hk
      obtain rfl : x.2 = r := Option.some.inj (hx.symm.trans hr)
      unfold startOrder
      rw [hg]
      exact Or.inr (outputsAt_order_self _ _ _ (outputs_bounds hO hr) (outputs_nodup hO hr))
    · refine h.imp (fun hm => (List.mem_cons.mp hm).resolve_left fun e => hk (congrArg Prod.fst e).symm) fun ha => ?_
      unfold startOrder
      split
      · exact outputsAt_order_other (outputs_bounds hO hr) (outputs_disjoint hO (Ne.symm hk) hx hr) ha
      · exact ha

theorem outputsKept_loaded {s : State} (h : OutputsKept s) : OutputsKept s.loaded.startGates := by
  have hL : (loadedSettings s.store.saved).LinesOwned := loaded_linesOwned h.1.2.1
  obtain ⟨-, -, -, hs⟩ := startGates_keeps s.loaded
  have settings : s.loaded.startGates.settings = loadedSettings s.store.saved := congrArg SettingsStore.working hs
  refine ⟨⟨by rwa [settings], ?_, ?_⟩, fun k r g hr hg => ?_⟩
  · rw [hs]
    exact h.1.2.1
  · rw [hs]
    exact nofun
  · rw [settings] at hr
    let v := s.loaded.withGates (s.loaded.settings.gates.map fun g => g.map s.loaded.deriveGate)
    have gates : ∀ (xs : List (Nat × GateRecord)) (u : State), (xs.foldl startOrder u).gates = u.gates := by
      intro xs u
      refine keep_foldl (P := fun w : State => w.gates = u.gates) (fun w x hw => ?_) xs u rfl
      unfold startOrder
      split <;> exact hw
    have hg' : v.gate k = some g := by
      have e := gates (entries v.settings.gates) v
      unfold State.gate at hg ⊢
      rw [← e]
      exact hg
    exact startOrders_follow (c := loadedSettings s.store.saved) hL.1 (entries v.settings.gates) v
      (fun x hx => mem_entries.mp hx) hr hg' (Or.inl (mem_entries.mpr hr))

/-- Owners and outputs are kept by every update. -/
theorem kept_outputs : Kept OutputsKept where
  other s t hf _ _ hg hs h := outputsKept_congr hs hg (by rw [hf]) h
  retained s x _ h := outputsKept_congr rfl rfl rfl h
  field s x ho _ h := outputsKept_congr (s := s) rfl rfl ho h
  gate _ _ _ _ hg hs h := outputsKept_gate hg hs h
  moved _ _ _ _ _ hr hg h := outputsKept_moved _ hr hg h
  store s x hg hO h := ⟨hO h.1, fun k r g hr => h.2 k r g (by rwa [← hg])⟩
  sampled s h := outputsKept_congr rfl rfl rfl h
  stepped s w _ h := outputsKept_congr rfl rfl rfl h
  calibrated _ _ hc h := outputsKept_calibrated hc h
  placed _ _ _ hk hr hc h := outputsKept_placed hk hr hc h
  taken _ _ _ hr h := outputsKept_taken hr h
  held s r _ h := by
    refine ⟨⟨factory_linesOwned, h.1.2.1, nofun⟩, fun k r g hr _ => ?_⟩
    cases (lookup_replicate_none k).symm.trans hr
  loaded _ h := outputsKept_loaded h

/-- Outputs at the settings of the states are never both on (R110). -/
theorem neverBothWays_of_follow {s : State} (h : s.OutputsFollow) : s.NeverBothWays := by
  intro k r g hr hg ⟨h1, h2⟩
  obtain ⟨e1, e2, -⟩ := h k r g hr hg
  have := setting_exclusive g.position
  rw [← e1, ← e2, h1, h2] at this
  cases this

/-- Settles O56: every step keeps the owners and that the outputs follow the gates, for each update keeps them. -/
theorem lowerAndRaiseNeverBothOn : Obligations.LowerAndRaiseNeverBothOn := by
  intro s t hO hF e
  obtain ⟨hO', hF'⟩ := kept_outputs.step ⟨hO, hF⟩ e
  exact ⟨hO', hF', neverBothWays_of_follow hF'⟩

end Sys2Proof.Proofs
end

section
/-! The rules of the Field Interface's inputs and channels, the vane samples and the changes of lines (O8, O10). -/

namespace Sys2Proof.Proofs

open Sys2Proof Sys2Proof.Machine Sys2Proof.Laws Sys2Proof.Claims

/-! ## Tables: what is there -/

/-- A number in range has an item. -/
theorem exists_itemAt {α : Type} {n : Nat} (v : Vector α n) {k : Nat} (h : 1 ≤ k) (hn : k ≤ n) :
    ∃ x, itemAt v k = some x :=
  ⟨v[k - 1], itemAt_eq_some.mpr ⟨h, Vector.getElem?_eq_getElem (by omega)⟩⟩

theorem itemAt_bounds {α : Type} {n : Nat} {v : Vector α n} {k : Nat} {x : α} (h : itemAt v k = some x) :
    1 ≤ k ∧ k ≤ n := by
  obtain ⟨hk, hx⟩ := itemAt_eq_some.mp h
  obtain ⟨hn, -⟩ := Vector.getElem?_eq_some_iff.mp hx
  omega

theorem levelAt_of_item {n : Nat} {v : Vector Bool n} {k : Nat} {b : Bool} (h : itemAt v k = some b) :
    levelAt v k = b := by
  unfold levelAt
  rw [h]
  rfl

theorem levelAt_putItem_self {n : Nat} (v : Vector Bool n) {k : Nat} (b : Bool) (h : 1 ≤ k) (hn : k ≤ n) :
    levelAt (putItem v k b) k = b := levelAt_of_item (itemAt_putItem_self v b h hn)

theorem levelAt_putItem_ne {n : Nat} (v : Vector Bool n) {j k : Nat} (b : Bool) (h : j ≠ k) :
    levelAt (putItem v k b) j = levelAt v j := by
  unfold levelAt
  rw [itemAt_putItem_ne v b h]

/-! ## Frames of one input, pin or channel -/

theorem frame_withInput (s : State) (line : Nat) (i : InputState) : Frame [.inputs] s (s.withInput line i) := by
  intro p hp
  cases p <;> first
    | exact absurd (show (_ : Part) ∈ [Part.inputs] by decide) hp
    | exact Eq.refl _
    | exact ⟨Eq.refl _, Eq.refl _⟩

theorem frame_withPin (s : State) (line : Nat) (high : Bool) : Frame [.pins] s (s.withPin line high) := by
  intro p hp
  cases p <;> first
    | exact absurd (show (_ : Part) ∈ [Part.pins] by decide) hp
    | exact Eq.refl _
    | exact ⟨Eq.refl _, Eq.refl _⟩

theorem frame_withChannels (s : State) (v : Vector ChannelTotals 6) :
    Frame [.channels] s (s.withField { s.field with channels := v }) := by
  intro p hp
  cases p <;> first
    | exact absurd (show (_ : Part) ∈ [Part.channels] by decide) hp
    | exact Eq.refl _
    | exact ⟨Eq.refl _, Eq.refl _⟩

theorem frame_withChannel (s : State) (k : Nat) (c : ChannelTotals) : Frame [.channels] s (s.withChannel k c) :=
  frame_withChannels s _

theorem frame_withWeather (s : State) (w : WeatherUnit) : Frame [.weather] s (s.withWeather w) := by
  intro p hp
  cases p <;> first
    | exact absurd (show (_ : Part) ∈ [Part.weather] by decide) hp
    | exact Eq.refl _
    | exact ⟨Eq.refl _, Eq.refl _⟩

/-! ## Vane samples (R11) -/

/-- The sector of a Gray code stands at its place of the table. -/
theorem grayLevels_graySector (a b c : Bool) : grayLevels[graySector a b c]? = some (a, b, c) := by
  revert a b c
  decide

/-- The table of Gray codes is the sector's. -/
theorem graySector_of_grayLevels {j : Nat} {a b c : Bool} (h : grayLevels[j]? = some (a, b, c)) :
    graySector a b c = j := by
  obtain ⟨hj, -⟩ := List.getElem?_eq_some_iff.mp h
  exact ((List.getElem?_inj hj (by decide)).mp (h.trans (grayLevels_graySector a b c).symm)).symm

/-- A sample of a channel whose VANE_OK line is low counts as invalid. -/
theorem sample_invalid {s : State} {c : ChannelConfig} (bins : Vector Nat 8) (invalid : Nat) (h0 : c.vaneOk ≠ 0)
    (h : s.accepted c.vaneOk = false) : s.sample c bins invalid = .vane bins (invalid + 1) := by
  simp [State.sample, h0, h]

/-- Any other sample counts in the bin of its sector. -/
theorem sample_valid {s : State} {c : ChannelConfig} (bins : Vector Nat 8) (invalid : Nat) {j : Nat}
    (h : c.vaneOk = 0 ∨ s.accepted c.vaneOk = true)
    (hj : grayLevels[j]? = some (s.accepted c.source, s.accepted (c.source + 1), s.accepted (c.source + 2))) :
    s.sample c bins invalid = .vane (bins.setIfInBounds j (bins.toList.getD j 0 + 1)) invalid := by
  have hn : ¬ ((c.vaneOk ≠ 0 && !s.accepted c.vaneOk) = true) := by
    rcases h with h | h <;> simp [h]
  have hb : bins.getD j 0 = bins.toList.getD j 0 := by
    by_cases h8 : j < 8 <;> simp [Vector.getD, h8]
  unfold State.sample
  rw [if_neg hn, graySector_of_grayLevels hj]
  dsimp only
  rw [hb]

theorem sampleChannel_other {s : State} {c : ChannelConfig} {x : ChannelTotals}
    (h : ∀ bins invalid, x ≠ .vane bins invalid) : s.sampleChannel c x = x := by
  cases x with
  | vane bins invalid => exact absurd rfl (h bins invalid)
  | off => rfl
  | event => rfl
  | width => rfl

/-- Every channel samples with its own record. -/
theorem itemAt_takeSamples {s : State} {k : Nat} {c : ChannelConfig} {x : ChannelTotals}
    (hc : itemAt s.settings.calibration.channels k = some c) (hx : itemAt s.field.channels k = some x) :
    itemAt s.takeSamples.field.channels k = some (s.sampleChannel c x) := itemAt_zipWith.mpr ⟨c, x, hc, hx, rfl⟩

/-- The effect of VANE_SAMPLE when its instant has come. -/
def sampledOnce (s : State) : State := s.takeSamples.withWeather { s.weather with timer := s.weather.timer + 1 }

theorem frame_sampledOnce (s : State) : Frame [.weather, .channels] s (sampledOnce s) :=
  Frame.mono (Frame.trans (frame_withChannels s _) (frame_withWeather s.takeSamples _)) (by simp)

/-- Settles O8: at a sample instant the effect is the samples and the count of the timer. -/
theorem vaneSampleCounts : Obligations.VaneSampleCounts := by
  intro m s hp hs ht hm
  have taken : (if (s.elapse m).weather.timer < Config.stepSeconds && (s.elapse m).nextSample ≤ (s.elapse m).now then
      sampledOnce (s.elapse m) else s.elapse m) = sampledOnce (s.elapse m) :=
    if_pos (by
      rw [Bool.and_eq_true, decide_eq_true_eq, decide_eq_true_eq]
      exact ⟨ht, hm⟩)
  obtain ⟨t, he, hpass, hu, hq⟩ := event_quiet m (fun s => if s.weather.timer < Config.stepSeconds &&
    s.nextSample ≤ s.now then sampledOnce s else s) s _ [.weather, .channels] hp hs taken (frame_sampledOnce _) (by decide)
  have channels : t.field.channels = (s.elapse m).takeSamples.field.channels := hu .channels (by decide)
  refine ⟨t, he, hpass, hu .weather (by decide), fun k c bins invalid hc hx => ?_, fun k x hx other => ?_, hq⟩
  · have sampled := (congrArg (itemAt · k) channels).trans (itemAt_takeSamples (s := s.elapse m) hc hx)
    exact ⟨fun h0 h => sampled.trans (congrArg some (sample_invalid bins invalid h0 h)),
      fun h j hj => sampled.trans (congrArg some (sample_valid bins invalid h hj))⟩
  · obtain ⟨hk, hn⟩ := itemAt_bounds hx
    obtain ⟨c, hc⟩ := exists_itemAt s.settings.calibration.channels hk hn
    have sampled := (congrArg (itemAt · k) channels).trans (itemAt_takeSamples (s := s.elapse m) hc hx)
    exact sampled.trans (congrArg some (sampleChannel_other other))

/-! ## The channels of a calibration set -/

theorem mem_numbered {c : Calibration} {k : Nat} {x : ChannelConfig} :
    (k, x) ∈ c.numbered ↔ itemAt c.channels k = some x := by
  unfold Calibration.numbered
  rw [List.mem_filterMap]
  constructor
  · rintro ⟨j, -, h⟩
    obtain ⟨y, hy, e⟩ := Option.map_eq_some_iff.mp h
    cases e
    exact hy
  · intro h
    exact ⟨k, mem_numbers.mpr (itemAt_bounds h), by rw [h]; rfl⟩

/-- Each channel is numbered once. -/
theorem numbered_nodup (c : Calibration) : c.numbered.Nodup := by
  refine List.Nodup.filterMap (fun j k x hj hk => ?_) List.nodup_range'
  obtain ⟨y, -, hy⟩ := Option.map_eq_some_iff.mp hj
  obtain ⟨z, -, hz⟩ := Option.map_eq_some_iff.mp hk
  exact congrArg Prod.fst (hy.trans hz.symm)

/-- The WIDTH channels whose source a line is. -/
def widthChannels (c : Calibration) (line : Nat) : List (Nat × ChannelConfig) :=
  c.numbered.filter fun x => x.2.mode == .width && x.2.source == line

theorem mem_widthChannels {c : Calibration} {line k : Nat} {x : ChannelConfig} :
    (k, x) ∈ widthChannels c line ↔ itemAt c.channels k = some x ∧ x.mode = .width ∧ x.source = line := by
  unfold widthChannels
  rw [List.mem_filter, mem_numbered, Bool.and_eq_true, beq_iff_eq, beq_iff_eq]

theorem widthChannels_numbers_nodup (c : Calibration) (line : Nat) : ((widthChannels c line).map Prod.fst).Nodup := by
  refine List.Nodup.map_on ?_ ((numbered_nodup c).filter _)
  rintro ⟨j, x⟩ hx ⟨k, y⟩ hy rfl
  have e := (mem_widthChannels.mp hx).1.symm.trans (mem_widthChannels.mp hy).1
  rw [Option.some.inj e]

/-! ## Edges on WIDTH channels (R9) -/

theorem edge_eq_edgeTable (now : Moment) (high : Bool) (x : ChannelTotals) : x.edge now high = edgeTable now high x := by
  cases x with
  | off => rfl
  | event => rfl
  | vane => rfl
  | width count sum state =>
    cases state with
    | idle => cases high <;> rfl
    | blind => cases high <;> rfl
    | measuring since =>
      cases high with
      | true => rfl
      | false =>
        simp only [ChannelTotals.edge, widthPulse, edgeTable, Bool.false_eq_true, if_false, Bool.and_eq_true,
          decide_eq_true_eq, and_assoc]
        split <;> rfl

/-- One channel takes an edge. -/
def takeEdge (high : Bool) (s : State) (x : Nat × ChannelConfig) : State :=
  match itemAt s.field.channels x.1 with
  | some c => s.withChannel x.1 (c.edge s.now high)
  | none => s

theorem widthEdgeOn_eq (line : Nat) (high : Bool) (s : State) :
    s.widthEdgeOn line high = (widthChannels s.settings.calibration line).foldl (takeEdge high) s := rfl

theorem frame_takeEdge (high : Bool) (s : State) (x : Nat × ChannelConfig) : Frame [.channels] s (takeEdge high s x) := by
  unfold takeEdge
  split
  · exact frame_withChannel s _ _
  · exact Frame.refl _ _

theorem frame_widthEdgeOn (line : Nat) (high : Bool) (s : State) : Frame [.channels] s (s.widthEdgeOn line high) :=
  keep_foldl (P := Frame [.channels] s)
    (fun u x hu => Frame.mono (Frame.trans hu (frame_takeEdge high u x)) (by decide)) _ s (Frame.refl _ _)

theorem takeEdge_self {s : State} {high : Bool} {k : Nat} {cfg : ChannelConfig} {x : ChannelTotals}
    (hx : itemAt s.field.channels k = some x) :
    itemAt (takeEdge high s (k, cfg)).field.channels k = some (x.edge s.now high) := by
  have e : takeEdge high s (k, cfg) = s.withChannel k (x.edge s.now high) := by
    simp only [takeEdge, hx]
  obtain ⟨h1, h2⟩ := itemAt_bounds hx
  rw [e]
  exact itemAt_putItem_self _ _ h1 h2

theorem takeEdge_ne {s : State} {high : Bool} {j k : Nat} {cfg : ChannelConfig} (h : k ≠ j) :
    itemAt (takeEdge high s (j, cfg)).field.channels k = itemAt s.field.channels k := by
  unfold takeEdge
  split
  · exact itemAt_putItem_ne _ _ h
  · rfl

/-- Channels that take an edge one after the other take it once each. -/
theorem foldl_takeEdge (high : Bool) (xs : List (Nat × ChannelConfig)) (hn : (xs.map Prod.fst).Nodup) (s : State)
    {k : Nat} {x : ChannelTotals} (hx : itemAt s.field.channels k = some x) :
    itemAt (xs.foldl (takeEdge high) s).field.channels k =
      some (if k ∈ xs.map Prod.fst then x.edge s.now high else x) := by
  induction xs generalizing s x with
  | nil => exact hx
  | cons y ys ih =>
    obtain ⟨j, cfg⟩ := y
    obtain ⟨hj, hys⟩ := List.nodup_cons.mp hn
    have now : (takeEdge high s (j, cfg)).now = s.now := frame_takeEdge high s (j, cfg) .moment (by decide)
    rw [List.foldl_cons]
    by_cases hk : k = j
    · subst hk
      rw [ih hys _ (takeEdge_self hx), if_neg hj, if_pos (by simp)]
    · rw [ih hys _ ((takeEdge_ne hk).trans hx), now]
      simp only [List.map_cons, List.mem_cons, hk, false_or]

/-- What an edge on a line does to every channel. -/
theorem itemAt_widthEdgeOn {s : State} {line k : Nat} {high : Bool} {cfg : ChannelConfig} {x : ChannelTotals}
    (hc : itemAt s.settings.calibration.channels k = some cfg) (hx : itemAt s.field.channels k = some x) :
    itemAt (s.widthEdgeOn line high).field.channels k =
      some (if cfg.mode = .width ∧ cfg.source = line then edgeTable s.now high x else x) := by
  have mem : k ∈ (widthChannels s.settings.calibration line).map Prod.fst ↔ cfg.mode = .width ∧ cfg.source = line := by
    rw [List.mem_map]
    constructor
    · rintro ⟨⟨j, y⟩, hy, rfl⟩
      obtain ⟨hj, hw⟩ := mem_widthChannels.mp hy
      rwa [← Option.some.inj (hj.symm.trans hc)]
    · exact fun h => ⟨(k, cfg), mem_widthChannels.mpr ⟨hc, h⟩, rfl⟩
  rw [widthEdgeOn_eq, foldl_takeEdge high _ (widthChannels_numbers_nodup _ _) s hx, edge_eq_edgeTable]
  exact congrArg some (if_congr mem rfl rfl)

/-! ## Transitions of a line (R2 to R4) -/

/-- A level the line has already changes nothing. -/
theorem lineTransition_same {s : State} {line : Nat} {high : Bool} (h : levelAt s.field.lines line = high) :
    s.lineTransition line high = s := by
  unfold State.lineTransition
  split
  · rename_i level i hl hi
    rw [levelAt_of_item hl] at h
    exact if_pos h
  · rfl

/-- A line that takes another level. -/
theorem lineTransition_other {s : State} {line : Nat} {high : Bool} {i : InputState} (hk : 1 ≤ line) (hn : line ≤ 16)
    (hi : itemAt s.field.inputs line = some i) (h : levelAt s.field.lines line = !high) :
    s.lineTransition line high = if s.settings.calibration.isWidthSource line then
      ((s.withPin line high).withInput line { i with accepted := high }).widthEdgeOn line high
    else (s.withPin line high).withInput line
      (i.transition s.now ((itemAt s.settings.calibration.debounce line).getD 0) high) := by
  obtain ⟨level, hl⟩ := exists_itemAt s.field.lines hk hn
  have ne : level ≠ high := by
    rw [← levelAt_of_item hl, h]
    cases high <;> decide
  unfold State.lineTransition
  simp only [hl, hi, ne, if_false]
  rfl

theorem transition_eq (i : InputState) (now : Moment) (d : Nat) (high : Bool) :
    i.transition now d high =
      ⟨i.accepted, if high = i.accepted then none else some (i.candidate.getD ⟨high, now, d⟩)⟩ := by
  obtain ⟨accepted, candidate⟩ := i
  unfold InputState.transition
  by_cases h : high = accepted
  · simp [h]
  · cases candidate <;> simp [h]

/-- A line of a debounced input at a level: the pin, and the input with its candidate. -/
def debounced (line : Nat) (high : Bool) (i : InputState) (s : State) : State := (s.withPin line high).withInput line i

theorem frame_debounced (line : Nat) (high : Bool) (i : InputState) (s : State) :
    Frame [.pins, .inputs] s (debounced line high i s) :=
  Frame.mono (Frame.trans (frame_withPin s line high) (frame_withInput _ line i)) (by decide)

/-- What a state says of a line and its input after the line has taken a level. -/
def LineTakes (line : Nat) (high : Bool) (i : InputState) (s t : State) : Prop :=
  levelAt t.field.lines line = high ∧ (∀ j, j ≠ line → levelAt t.field.lines j = levelAt s.field.lines j) ∧
    itemAt t.field.inputs line = some i ∧ ∀ j, j ≠ line → itemAt t.field.inputs j = itemAt s.field.inputs j

theorem lineTakes_debounced {line : Nat} (high : Bool) (i : InputState) {s t : State} (hk : 1 ≤ line) (hn : line ≤ 16)
    (hl : t.field.lines = (debounced line high i s).field.lines)
    (hi : t.field.inputs = (debounced line high i s).field.inputs) : LineTakes line high i s t := by
  unfold LineTakes
  rw [hl, hi]
  exact ⟨levelAt_putItem_self _ _ hk hn, fun j hj => levelAt_putItem_ne _ _ hj, itemAt_putItem_self _ _ hk hn,
    fun j hj => itemAt_putItem_ne _ _ hj⟩

/-- A debounced input takes a level. -/
theorem fieldLineChange_debounced {m : Moment} {line d : Nat} {high : Bool} {s : State} {i : InputState}
    (hp : s.powered = true) (hs : s.Settled) (hk : 1 ≤ line) (hn : line ≤ 16)
    (hw : s.settings.calibration.isWidthSource line = false) (hi : itemAt s.field.inputs line = some i)
    (hd : itemAt s.settings.calibration.debounce line = some d) (hl : levelAt s.field.lines line = !high) :
    ∃ t, exec (.fieldLineChange m line high) s = .next t ∧ Passed m s t ∧
      LineTakes line high ⟨i.accepted,
        if high = i.accepted then none else some (i.candidate.getD ⟨high, max s.now m, d⟩)⟩ s t ∧
      Quiet [.pins, .inputs] s t := by
  have effect : (s.elapse m).lineTransition line high = debounced line high (i.transition (max s.now m) d high)
      (s.elapse m) := by
    rw [lineTransition_other (s := s.elapse m) hk hn hi hl]
    have hw' : (s.elapse m).settings.calibration.isWidthSource line = false := hw
    have hd' : (itemAt (s.elapse m).settings.calibration.debounce line).getD 0 = d := congrArg (Option.getD · 0) hd
    rw [hw', hd']
    rfl
  obtain ⟨t, he, hpass, hu, hq⟩ := event_quiet m (State.lineTransition line high) s _ [.pins, .inputs] hp hs effect
    (frame_debounced _ _ _ _) (by decide)
  refine ⟨t, (if_pos hp).trans he, hpass, ?_, hq⟩
  rw [← transition_eq]
  exact lineTakes_debounced (s := s.elapse m) high _ hk hn (hu .pins (by decide)) (hu .inputs (by decide))

/-- The source of a WIDTH channel takes a level. -/
theorem lineTransition_width {m : Moment} {line : Nat} {high : Bool} {s : State} {i : InputState}
    (hp : s.powered = true) (hs : s.Settled) (hk : 1 ≤ line) (hn : line ≤ 16)
    (hw : s.settings.calibration.isWidthSource line = true) (hi : itemAt s.field.inputs line = some i)
    (hl : levelAt s.field.lines line = !high) (f : State → State)
    (hf : f (s.elapse m) = (s.elapse m).lineTransition line high) :
    ∃ t, event m f s = .next t ∧ Passed m s t ∧ LineTakes line high { i with accepted := high } s t ∧
      (∀ k cfg x, itemAt s.settings.calibration.channels k = some cfg → itemAt s.field.channels k = some x →
        itemAt t.field.channels k =
          some (if cfg.mode = .width ∧ cfg.source = line then edgeTable (max s.now m) high x else x)) ∧
      Quiet [.pins, .inputs, .channels] s t := by
  have effect : f (s.elapse m) =
      (debounced line high { i with accepted := high } (s.elapse m)).widthEdgeOn line high :=
    hf.trans ((lineTransition_other (s := s.elapse m) hk hn hi hl).trans (if_pos hw))
  have edges := frame_widthEdgeOn line high (debounced line high { i with accepted := high } (s.elapse m))
  obtain ⟨t, he, hpass, hu, hq⟩ := event_quiet m f s _ [.pins, .inputs, .channels] hp hs effect
    (Frame.mono (Frame.trans (frame_debounced _ _ _ _) edges) (by decide)) (by decide)
  refine ⟨t, he, hpass, ?_, fun k cfg x hc hx => ?_, hq⟩
  · exact lineTakes_debounced (s := s.elapse m) high _ hk hn ((hu .pins (by decide)).trans (edges .pins (by decide)))
      ((hu .inputs (by decide)).trans (edges .inputs (by decide)))
  · exact (congrArg (itemAt · k) (hu .channels (by decide))).trans (itemAt_widthEdgeOn
      (s := debounced line high { i with accepted := high } (s.elapse m)) hc hx)

/-- Settles O10: a line's transition, debounced and on the source of a WIDTH channel. -/
theorem lineChanges : Obligations.LineChanges := by
  refine ⟨fun m line high s i d hp hs hk hn hw hi hd => ⟨fun hl => ?_, fun hl => ?_⟩,
    fun m line high s i hp hs hk hn hw hi hl c hc => ?_⟩
  · obtain ⟨t, he, hpass, -, hq⟩ := event_quiet m (State.lineTransition line high) s (s.elapse m) [] hp hs
      (lineTransition_same hl) (Frame.refl _ _) (by decide)
    exact ⟨t, (if_pos hp).trans he, hpass, hq⟩
  · obtain ⟨t, he, hpass, ⟨h1, h2, h3, h4⟩, hq⟩ := fieldLineChange_debounced hp hs hk hn hw hi hd hl
    exact ⟨t, he, hpass, h1, h2, h3, h4, hq⟩
  · rcases hc with rfl | rfl
    · obtain ⟨t, he, hpass, ⟨h1, h2, h3, h4⟩, hx, hq⟩ := lineTransition_width hp hs hk hn hw hi hl
        (State.lineTransition line high) rfl
      exact ⟨t, (if_pos hp).trans he, hpass, h1, h2, h3, h4, hx, hq⟩
    · obtain ⟨t, he, hpass, ⟨h1, h2, h3, h4⟩, hx, hq⟩ := lineTransition_width hp hs hk hn hw hi hl
        (fun s => if s.settings.calibration.isWidthSource line then s.lineTransition line high else s) (if_pos hw)
      exact ⟨t, (if_pos hp).trans he, hpass, h1, h2, h3, h4, hx, hq⟩

end Sys2Proof.Proofs
end

section
/-! The functions of the inputs, and the change events that no gate is told of (O11). -/

namespace Sys2Proof.Proofs

open Sys2Proof Sys2Proof.Machine Sys2Proof.Laws Sys2Proof.Claims

/-! ## The function a record gives a line (R1, R20) -/

/-- A gate record gives a function to the lines it names, and to no other. -/
theorem gateFunction_eq_unused {r : GateRecord} {k line : Nat} (hl : 1 ≤ line) :
    r.functionOf k line = .unused ↔ line ∉ r.inputs := by
  have h0 : line ≠ 0 := Nat.one_le_iff_ne_zero.mp hl
  have named : line ∈ r.inputs ↔ line = r.upSwitch ∨ line = r.downSwitch ∨ line = r.presence ∨ line = r.key := by
    have optional : ∀ x : Nat, line ∈ (if x = 0 then [] else [x]) ↔ line = x := by
      intro x
      by_cases hx : x = 0
      · simp [hx, h0]
      · simp [hx]
    simp only [GateRecord.inputs, List.mem_append, List.mem_cons, List.not_mem_nil, or_false, optional]
    tauto
  rw [named]
  unfold GateRecord.functionOf
  split_ifs <;> simp_all

/-- A channel gives a function to the lines it names, and to no other. -/
theorem channelFunction_eq_unused {x : ChannelConfig} {k line : Nat} (hl : 1 ≤ line) :
    x.functionOf k line = .unused ↔ line ∉ x.lines := by
  have h0 : line ≠ 0 := Nat.one_le_iff_ne_zero.mp hl
  unfold ChannelConfig.functionOf ChannelConfig.lines
  cases hm : x.mode with
  | off => simp
  | event => by_cases h : line = x.source <;> simp [h]
  | width => by_cases h : line = x.source <;> simp [h]
  | vane =>
    have three : (x.source ≤ line && line ≤ x.source + 2) = true ↔ line ∈ [x.source, x.source + 1, x.source + 2] := by
      simp only [Bool.and_eq_true, decide_eq_true_eq, List.mem_cons, List.not_mem_nil, or_false]
      omega
    have fourth : (line ≠ 0 && line = x.vaneOk) = true ↔ line ∈ (if x.vaneOk = 0 then [] else [x.vaneOk]) := by
      by_cases hv : x.vaneOk = 0
      · simp [hv, h0]
      · simp [hv, h0]
    rw [List.mem_append, ← three, ← fourth]
    dsimp only
    split_ifs <;> simp_all

/-! ## The function of an input -/

/-- The functions that the records of a table give a line. -/
def givenFunctions (c : Settings) (line : Nat) : List InputFunction :=
  ((entries c.gates).map fun g => g.2.functionOf g.1 line) ++
    (c.calibration.numbered.map fun x => x.2.functionOf x.1 line)

theorem functionOf_eq (c : Settings) (line : Nat) :
    c.functionOf line = ((givenFunctions c line).find? fun f => f != .unused).getD .unused := rfl

theorem mem_givenFunctions {c : Settings} {line : Nat} {f : InputFunction} : f ∈ givenFunctions c line ↔
    (∃ k r, lookup c.gates k = some r ∧ r.functionOf k line = f) ∨
      ∃ k x, itemAt c.calibration.channels k = some x ∧ x.functionOf k line = f := by
  simp only [givenFunctions, List.mem_append, List.mem_map, Prod.exists, mem_entries, mem_numbered]

/-- Where every function given is one, that is the input's. -/
theorem functionOf_of_unique {c : Settings} {line : Nat} {f : InputFunction} (hm : f ∈ givenFunctions c line)
    (hf : f ≠ .unused) (hu : ∀ g ∈ givenFunctions c line, g ≠ .unused → g = f) : c.functionOf line = f := by
  rw [functionOf_eq]
  cases h : (givenFunctions c line).find? fun f => f != .unused with
  | none => exact absurd (bne_iff_ne.mpr hf) (List.find?_eq_none.mp h f hm)
  | some g =>
    have hg : (g != InputFunction.unused) = true := List.find?_some (p := fun f : InputFunction => f != .unused) h
    exact hu g (List.mem_of_find?_eq_some h) (bne_iff_ne.mp hg)

theorem functionOf_of_none {c : Settings} {line : Nat} (hu : ∀ g ∈ givenFunctions c line, g = .unused) :
    c.functionOf line = .unused := by
  have h : (givenFunctions c line).find? (fun f => f != .unused) = none :=
    List.find?_eq_none.mpr fun g hg => by rw [hu g hg]; decide
  rw [functionOf_eq, h]
  rfl

/-! ## One owner of each input (R18, R19) -/

section
variable {c : Settings} {line : Nat}

/-- Two channels that name one line are one. -/
theorem channel_unique (hn : c.calibration.named.Nodup) {j k : Nat} {x y : ChannelConfig}
    (hx : itemAt c.calibration.channels j = some x) (hy : itemAt c.calibration.channels k = some y)
    (hlx : line ∈ x.lines) (hly : line ∈ y.lines) : j = k := by
  obtain ⟨-, hd⟩ := List.nodup_flatMap.mp hn
  have apart := List.pairwise_iff_getElem.mp hd
  have place : ∀ {i : Nat} {z : ChannelConfig}, itemAt c.calibration.channels i = some z →
      1 ≤ i ∧ ∃ hi : i - 1 < c.calibration.channels.toList.length, c.calibration.channels.toList[i - 1] = z := by
    intro i z hz
    obtain ⟨hi, hz⟩ := itemAt_eq_some.mp hz
    obtain ⟨hlt, e⟩ := Vector.getElem?_eq_some_iff.mp hz
    exact ⟨hi, by simpa using hlt, by simpa using e⟩
  obtain ⟨hj1, hj, ej⟩ := place hx
  obtain ⟨hk1, hk, ek⟩ := place hy
  rcases Nat.lt_trichotomy (j - 1) (k - 1) with h | h | h
  · exact absurd (ek ▸ hly) (apart (j - 1) (k - 1) hj hk h (ej ▸ hlx))
  · omega
  · exact absurd (ej ▸ hlx) (apart (k - 1) (j - 1) hk hj h (ek ▸ hly))

/-- A channel's lines are distinct. -/
theorem channel_lines_nodup (hn : c.calibration.named.Nodup) {k : Nat} {x : ChannelConfig}
    (hx : itemAt c.calibration.channels k = some x) : x.lines.Nodup :=
  (List.nodup_flatMap.mp hn).1 x (Vector.mem_toList_iff.mpr (mem_vector_iff_itemAt.mpr ⟨k, hx⟩))

/-- The function of an input that a gate record names is the record's. -/
theorem functionOf_of_gate (hI : c.InputsOwned) (hl : 1 ≤ line) {k : Nat} {r : GateRecord}
    (hr : lookup c.gates k = some r) (hm : line ∈ r.inputs) : c.functionOf line = r.functionOf k line := by
  refine functionOf_of_unique (mem_givenFunctions.mpr (Or.inl ⟨k, r, hr, rfl⟩))
    (fun h => (gateFunction_eq_unused hl).mp h hm) fun g hg hne => ?_
  rcases mem_givenFunctions.mp hg with ⟨j, q, hq, rfl⟩ | ⟨j, x, hx, rfl⟩
  · by_cases hj : j = k
    · subst hj
      rw [Option.some.inj (hq.symm.trans hr)]
    · exact absurd ((gateFunction_eq_unused hl).mpr ((hI.1 k r hr).2.2 j q hj hq line hm)) hne
  · exact absurd ((channelFunction_eq_unused hl).mpr fun hlx =>
      (hI.1 k r hr).2.1 line hm (mem_named.mpr ⟨j, x, hx, hlx⟩)) hne

/-- The function of an input that a channel names is the channel's. -/
theorem functionOf_of_channel (hI : c.InputsOwned) (hl : 1 ≤ line) {k : Nat} {x : ChannelConfig}
    (hx : itemAt c.calibration.channels k = some x) (hm : line ∈ x.lines) : c.functionOf line = x.functionOf k line := by
  refine functionOf_of_unique (mem_givenFunctions.mpr (Or.inr ⟨k, x, hx, rfl⟩))
    (fun h => (channelFunction_eq_unused hl).mp h hm) fun g hg hne => ?_
  rcases mem_givenFunctions.mp hg with ⟨j, q, hq, rfl⟩ | ⟨j, y, hy, rfl⟩
  · exact absurd ((gateFunction_eq_unused hl).mpr fun hlq =>
      (hI.1 j q hq).2.1 line hlq (mem_named.mpr ⟨k, x, hx, hm⟩)) hne
  · have hly : line ∈ y.lines := by
      by_contra h
      exact hne ((channelFunction_eq_unused hl).mpr h)
    obtain rfl := channel_unique hI.2 hx hy hm hly
    rw [Option.some.inj (hx.symm.trans hy)]

/-- An input that no record names has no function. -/
theorem functionOf_of_unnamed (hl : 1 ≤ line) (hg : ∀ k r, lookup c.gates k = some r → line ∉ r.inputs)
    (hc : line ∉ c.calibration.named) : c.functionOf line = .unused := by
  refine functionOf_of_none fun g hm => ?_
  rcases mem_givenFunctions.mp hm with ⟨k, r, hr, rfl⟩ | ⟨k, x, hx, rfl⟩
  · exact (gateFunction_eq_unused hl).mpr (hg k r hr)
  · exact (channelFunction_eq_unused hl).mpr fun h => hc (mem_named.mpr ⟨k, x, hx, h⟩)

end

/-- The function a gate record gives each of its lines, where it names none twice. -/
theorem gateFunction_cases {r : GateRecord} (k : Nat) {line : Nat} (hn : r.inputs.Nodup) (hl : 1 ≤ line) :
    (line = r.upSwitch → r.functionOf k line = .upSwitch k) ∧
      (line = r.downSwitch → r.functionOf k line = .downSwitch k) ∧
      (line = r.presence → r.functionOf k line = .presence k) ∧ (line = r.key → r.functionOf k line = .key k) := by
  have h0 : line ≠ 0 := Nat.one_le_iff_ne_zero.mp hl
  unfold GateRecord.functionOf
  refine ⟨?_, ?_, ?_, ?_⟩ <;> rintro rfl <;> simp [GateRecord.inputs, h0] at hn ⊢ <;> grind

/-- The lines a gate record names. -/
theorem mem_inputs {r : GateRecord} {line : Nat} (hl : 1 ≤ line)
    (h : line = r.upSwitch ∨ line = r.downSwitch ∨ line = r.presence ∨ line = r.key) : line ∈ r.inputs := by
  have h0 : line ≠ 0 := Nat.one_le_iff_ne_zero.mp hl
  unfold GateRecord.inputs
  rcases h with rfl | rfl | rfl | rfl <;> simp [h0]

/-- The function of an input is the one its record gives. -/
theorem lineFunction_of_owned {c : Settings} {line : Nat} (hI : c.InputsOwned) (hl : 1 ≤ line) : LineFunction c line := by
  refine ⟨fun k r hr => ?_, fun k x hx => ⟨fun hm he => ?_, fun hm he => ?_, fun hm he => ?_⟩,
    fun hg hc => functionOf_of_unnamed hl hg hc⟩
  · obtain ⟨h1, h2, h3, h4⟩ := gateFunction_cases k (hI.1 k r hr).1 hl
    have own : ∀ {p : Prop}, (p → line = r.upSwitch ∨ line = r.downSwitch ∨ line = r.presence ∨ line = r.key) → p →
        c.functionOf line = r.functionOf k line :=
      fun hp h => functionOf_of_gate hI hl hr (mem_inputs hl (hp h))
    exact ⟨fun h => (own Or.inl h).trans (h1 h), fun h => (own (Or.inr ∘ Or.inl) h).trans (h2 h),
      fun h => (own (Or.inr ∘ Or.inr ∘ Or.inl) h).trans (h3 h),
      fun h => (own (Or.inr ∘ Or.inr ∘ Or.inr) h).trans (h4 h)⟩
  · have hlx : line ∈ x.lines := by
      rcases hm with hm | hm <;> simp [ChannelConfig.lines, hm, he]
    rw [functionOf_of_channel hI hl hx hlx]
    rcases hm with hm | hm <;> simp [ChannelConfig.functionOf, hm, he]
  · have hlx : line ∈ x.lines := by
      simp only [ChannelConfig.lines, hm, List.mem_append, List.mem_cons, List.not_mem_nil, or_false]
      exact Or.inl he
    rw [functionOf_of_channel hI hl hx hlx]
    have within : (x.source ≤ line && line ≤ x.source + 2) = true := by
      rw [Bool.and_eq_true, decide_eq_true_eq, decide_eq_true_eq]
      omega
    simp only [ChannelConfig.functionOf, hm, within, if_true]
  · have h0 : line ≠ 0 := Nat.one_le_iff_ne_zero.mp hl
    have hv : x.vaneOk ≠ 0 := he ▸ h0
    have hlx : line ∈ x.lines := by simp [ChannelConfig.lines, hm, he, hv]
    have apart : x.vaneOk ∉ [x.source, x.source + 1, x.source + 2] := by
      have hn := channel_lines_nodup hI.2 hx
      simp only [ChannelConfig.lines, hm, hv, if_false] at hn
      exact (List.nodup_append'.mp hn).2.2.symm (List.mem_singleton_self _)
    have outside : ¬ ((x.source ≤ line && line ≤ x.source + 2) = true) := by
      simp only [List.mem_cons, List.not_mem_nil, or_false] at apart
      rw [Bool.and_eq_true, decide_eq_true_eq, decide_eq_true_eq]
      omega
    rw [functionOf_of_channel hI hl hx hlx]
    have fourth : (line ≠ 0 && line = x.vaneOk) = true := by simp [he, hv]
    unfold ChannelConfig.functionOf
    rw [hm]
    exact (if_neg outside).trans (if_pos fourth)

/-! ## Change events (R2, R8) -/

/-- A candidate is held at a moment: the effect of CHANGE_EVENT finds it. -/
theorem candidateHeld_elapse {s : State} {m : Moment} {line : Nat} {c : Candidate} :
    (s.elapse m).candidateHeld line = some c ↔ Held s m line c := by
  unfold State.candidateHeld Held
  have same : itemAt (s.elapse m).field.inputs line = itemAt s.field.inputs line := rfl
  have now : (s.elapse m).now = max s.now m := rfl
  rw [same]
  cases hi : itemAt s.field.inputs line with
  | none => simp
  | some i =>
    obtain ⟨accepted, candidate⟩ := i
    cases candidate with
    | none => simp
    | some d =>
      simp only [now, Option.some.injEq, exists_eq_left']
      constructor
      · intro h
        split at h
        · rename_i hd
          cases h
          exact ⟨rfl, hd⟩
        · cases h
      · rintro ⟨rfl, hd⟩
        exact if_pos hd

theorem held_bounds {s : State} {m : Moment} {line : Nat} {c : Candidate} (h : Held s m line c) :
    1 ≤ line ∧ line ≤ 16 := by
  obtain ⟨i, hi, -⟩ := h
  exact itemAt_bounds hi

/-- The effect of CHANGE_EVENT. -/
def changeEffect (line : Nat) (s : State) : State :=
  match s.candidateHeld line with
  | some c => s.acceptChange line c
  | none => s

/-- CHANGE_EVENT without a held candidate changes nothing. -/
theorem changeEvent_idle {m : Moment} {line : Nat} {s : State} (hp : s.powered = true) (hs : s.Settled)
    (h : ∀ c, ¬ Held s m line c) : ∃ t, exec (.changeEvent m line) s = .next t ∧ Passed m s t ∧ Quiet [] s t := by
  have none : (s.elapse m).candidateHeld line = none :=
    Option.eq_none_iff_forall_ne_some.mpr fun c hc => h c (candidateHeld_elapse.mp hc)
  have effect : changeEffect line (s.elapse m) = s.elapse m := by
    unfold changeEffect
    rw [none]
  obtain ⟨t, he, hpass, -, hq⟩ := event_quiet m (changeEffect line) s _ [] hp hs effect (Frame.refl _ _) (by decide)
  exact ⟨t, he, hpass, hq⟩

/-- The input has taken the level of its candidate. -/
def acceptedInput (line : Nat) (high : Bool) (m : Moment) (s : State) : State :=
  (s.elapse m).withInput line ⟨high, none⟩

/-- The effect of CHANGE_EVENT with a held candidate. -/
theorem changeEffect_held {m : Moment} {line : Nat} {s : State} {c : Candidate} (h : Held s m line c) :
    changeEffect line (s.elapse m) =
      (acceptedInput line c.level m s).deliverChange (s.settings.functionOf line) c.level := by
  unfold changeEffect
  rw [candidateHeld_elapse.mpr h]
  rfl

/-- The input after its change is accepted, in a state with the same inputs. -/
theorem accepts_of_inputs {s t : State} {m : Moment} {line : Nat} {c : Candidate} (h : Held s m line c)
    (ht : t.field.inputs = (acceptedInput line c.level m s).field.inputs) : Accepts s t line c.level := by
  obtain ⟨hk, hn⟩ := held_bounds h
  unfold Accepts
  rw [ht]
  exact ⟨itemAt_putItem_self _ _ hk hn, fun j hj => itemAt_putItem_ne _ _ hj⟩

/-- What a change event does to the totals of a channel. -/
def countedRise (f : InputFunction) (high : Bool) (k : Nat) (x : ChannelTotals) : ChannelTotals :=
  match x with
  | .event n => if f = .counter k ∧ high = true then .event (min (n + 1) 65535) else .event n
  | x => x

theorem countedRise_rise (k : Nat) (x : ChannelTotals) : countedRise (.counter k) true k x = x.countRise := by
  cases x <;> simp [countedRise, ChannelTotals.countRise]

theorem countedRise_none {f : InputFunction} {high : Bool} {k : Nat} (x : ChannelTotals)
    (h : ¬ (f = .counter k ∧ high = true)) : countedRise f high k x = x := by
  cases x <;> simp [countedRise, h]

/-- An input that no gate names. -/
def NoGateFunction (f : InputFunction) : Prop :=
  f = .unused ∨ (∃ k, f = .counter k) ∨ (∃ k, f = .vaneLine k) ∨ ∃ k, f = .vaneOk k

theorem deliverChange_counter (s : State) (k : Nat) (high : Bool) :
    s.deliverChange (.counter k) high = match itemAt s.field.channels k with
      | some totals => if high then s.withChannel k totals.countRise else s
      | none => s := rfl

/-- A change event that no gate is told of touches channels alone. -/
theorem frame_deliverChange (s : State) {f : InputFunction} (high : Bool) (hf : NoGateFunction f) :
    Frame [.channels] s (s.deliverChange f high) := by
  rcases hf with rfl | ⟨k, rfl⟩ | ⟨k, rfl⟩ | ⟨k, rfl⟩
  · exact Frame.refl _ _
  · rw [deliverChange_counter]
    cases itemAt s.field.channels k with
    | none => exact Frame.refl _ _
    | some x =>
      cases high with
      | false => exact Frame.refl _ _
      | true => exact frame_withChannel s _ _
  · exact Frame.refl _ _
  · exact Frame.refl _ _

/-- A change event counts on the channel whose source it is, and on no other. -/
theorem itemAt_deliverChange {s : State} {f : InputFunction} {high : Bool} {k : Nat} {x : ChannelTotals}
    (hf : NoGateFunction f) (hx : itemAt s.field.channels k = some x) :
    itemAt (s.deliverChange f high).field.channels k = some (countedRise f high k x) := by
  have unchanged : ∀ {g : InputFunction}, ¬ (g = .counter k ∧ high = true) →
      itemAt s.field.channels k = some (countedRise g high k x) :=
    fun h => hx.trans (congrArg some (countedRise_none x h).symm)
  rcases hf with rfl | ⟨j, rfl⟩ | ⟨j, rfl⟩ | ⟨j, rfl⟩
  · exact unchanged nofun
  · rw [deliverChange_counter]
    by_cases hj : j = k
    · subst hj
      obtain ⟨hk, hn⟩ := itemAt_bounds hx
      rw [hx]
      cases high with
      | false => exact unchanged nofun
      | true =>
        rw [countedRise_rise]
        exact itemAt_putItem_self _ _ hk hn
    · have other : itemAt s.field.channels k = some (countedRise (.counter j) high k x) :=
        unchanged fun h => hj (InputFunction.counter.inj h.1)
      cases itemAt s.field.channels j with
      | none => exact other
      | some y =>
        cases high with
        | false => exact other
        | true => exact (itemAt_putItem_ne _ _ (Ne.symm hj)).trans other
  · exact unchanged nofun
  · exact unchanged nofun

/-- Settles O11: the functions of the inputs, and the change events of inputs that no gate names. -/
theorem changeEventCounts : Obligations.ChangeEventCounts := by
  refine ⟨fun c line hI hl => lineFunction_of_owned hI hl,
    fun m line s hp hs _ _ => ⟨changeEvent_idle hp hs, fun c hc hf => ?_⟩⟩
  have frame := Frame.mono (d := [.inputs, .channels]) (Frame.trans (frame_withInput (s.elapse m) line ⟨c.level, none⟩)
    (frame_deliverChange (acceptedInput line c.level m s) c.level hf)) (by decide)
  obtain ⟨t, he, hpass, hu, hq⟩ := event_quiet m (changeEffect line) s _ [.inputs, .channels] hp hs
    (changeEffect_held hc) frame (by decide)
  refine ⟨t, he, hpass, accepts_of_inputs hc ?_, fun k x hx => ?_, hq⟩
  · exact (hu .inputs (by decide)).trans (frame_deliverChange _ c.level hf .inputs (by decide))
  · have counted := (congrArg (itemAt · k) (hu .channels (by decide))).trans
      (itemAt_deliverChange (s := acceptedInput line c.level m s) (high := c.level) hf hx)
    cases x <;> exact counted

end Sys2Proof.Proofs
end

section
/-! The gate timers, and the change events of presence and key inputs (O13, O14). -/

namespace Sys2Proof.Proofs

open Sys2Proof Sys2Proof.Machine Sys2Proof.Laws Sys2Proof.Claims

/-! ## The lowering test as the effect of an event (R117) -/

/-- A gate that begins to lower. -/
def beginsLowering (seconds : Nat) (r : GateRecord) (g : GateState) : GateState :=
  { g with position := .lowering, travelExpiry := some (seconds + r.travel) }

/-- An event whose effect ends with a lowering test: the gate lowers, or nothing more happens. -/
theorem event_loweringTest {m : Moment} {f : State → State} {s u : State} {k : Nat} {r : GateRecord} {g : GateState}
    {also : List Part} (hp : s.powered = true) (hs : s.Settled) (hr : lookup s.settings.gates k = some r)
    (hg : s.gate k = some g) (hF : f (s.elapse m) = u.loweringTest k) (hset : u.settings = s.settings)
    (hf : Frame also (s.elapse m) u) (hal : ∀ p ∈ also, p ∈ [Part.inputs, .zones]) :
    ∃ t, event m f s = .next t ∧ Passed m s t ∧ Frame (always ++ road) u t ∧
      (u.mayLower k r g = true → Moves k g (beginsLowering (secondsAt m s) r g) .hold also s t) ∧
      (¬ u.mayLower k r g = true → Quiet also s t) := by
  have off : ∀ p, p ∉ [Part.inputs, .zones] → p ∉ also := fun p hp hm => hp (hal p hm)
  have hg' : u.gate k = some g := (congrArg (lookup · k) (hf .gates (off _ (by decide)))).trans hg
  have seconds : u.seconds = secondsAt m s := congrArg (· / usPerSecond) (hf .moment (off _ (by decide)))
  have test := hF.trans (loweringTest_eq (s := u) (by rwa [hset]) hg')
  by_cases h : u.mayLower k r g = true
  · have moved : f (s.elapse m) = u.changeGate k .hold (beginsLowering (secondsAt m s) r g) := by
      rw [test, if_pos h, ← seconds]
      rfl
    obtain ⟨t, he, hpass, hu, hm⟩ := event_moves m f s u k r g _ .hold also hp moved hr hg hset hf hal
    exact ⟨t, he, hpass, hu, fun _ => hm, fun hn => absurd h hn⟩
  · obtain ⟨t, he, hpass, hu, hq⟩ := event_quiet m f s u also hp hs (test.trans (if_neg h)) hf
      ⟨off _ (by decide), off _ (by decide), off _ (by decide)⟩
    exact ⟨t, he, hpass, Frame.mono hu (by decide), fun hl => absurd hl h, fun _ => hq⟩

/-! ## HOLD_DEADLINE, CLEAR_ZONE_EXPIRY and TRAVEL_TIMEOUT -/

/-- The effect of CLEAR_ZONE_EXPIRY. -/
def zoneEffect (k : Nat) (s : State) : State :=
  if s.zoneEnded k then (s.withZone k .idle).loweringTest k else s

/-- The effect of TRAVEL_TIMEOUT. -/
def travelEffect (k : Nat) (s : State) : State := if s.travelPassed k then s.travelExpired k else s

section
variable {m : Moment} {s : State} {k : Nat} {r : GateRecord} {g : GateState} (hp : s.powered = true) (hs : s.Settled)
  (hr : lookup s.settings.gates k = some r) (hg : s.gate k = some g)
include hp hs hr hg

theorem holdDeadline_cases : ∃ t, exec (.holdDeadline m k) s = .next t ∧ Passed m s t ∧
    (g.position = .warning ∧ itemAt s.field.clearZones k = some .idle ∧ Served s (secondsAt m s) r g →
      Moves k g (beginsLowering (secondsAt m s) r g) .hold [] s t) ∧
    (¬ (g.position = .warning ∧ itemAt s.field.clearZones k = some .idle ∧ Served s (secondsAt m s) r g) →
      Quiet [] s t) := by
  obtain ⟨t, he, hpass, -, hm, hq⟩ := event_loweringTest (m := m) (f := State.loweringTest k) hp hs hr hg rfl rfl
    (Frame.refl [] _) (by decide)
  have may := mayLower_iff (s.elapse m) k r g (lookup_bounds _ hg)
  exact ⟨t, he, hpass, fun h => hm (may.mpr h), fun h => hq fun hl => h (may.mp hl)⟩

omit hp hs hr hg in
/-- A clear-zone hold has ended at a moment. -/
theorem zoneEnded_elapse : (s.elapse m).zoneEnded k = true ↔
    ∃ e, itemAt s.field.clearZones k = some (.holding e) ∧ e ≤ max s.now m := by
  have same : itemAt (s.elapse m).field.clearZones k = itemAt s.field.clearZones k := rfl
  unfold State.zoneEnded
  rw [same]
  cases itemAt s.field.clearZones k with
  | none => simp
  | some z => cases z <;> simp

theorem clearZoneExpiry_cases : ∃ t, exec (.clearZoneExpiry m k) s = .next t ∧ Passed m s t ∧
    (∀ e, itemAt s.field.clearZones k = some (.holding e) → e ≤ max s.now m →
      itemAt t.field.clearZones k = some .idle ∧
      (∀ j, j ≠ k → itemAt t.field.clearZones j = itemAt s.field.clearZones j) ∧
      (g.position = .warning ∧ Served s (secondsAt m s) r g →
        Moves k g (beginsLowering (secondsAt m s) r g) .hold [.zones] s t) ∧
      (¬ (g.position = .warning ∧ Served s (secondsAt m s) r g) → Quiet [.zones] s t)) ∧
    ((∀ e, itemAt s.field.clearZones k = some (.holding e) → max s.now m < e) → Quiet [] s t) := by
  have hk := lookup_bounds _ hg
  by_cases ended : (s.elapse m).zoneEnded k = true
  · obtain ⟨t, he, hpass, hu, hm, hq⟩ := event_loweringTest (m := m) (f := zoneEffect k) hp hs hr hg (if_pos ended) rfl
      (frame_withZone (s.elapse m) k .idle) (by decide)
    have idle : itemAt ((s.elapse m).withZone k .idle).field.clearZones k = some .idle :=
      itemAt_putItem_self _ _ hk.1 hk.2
    have zones : t.field.clearZones = ((s.elapse m).withZone k .idle).field.clearZones := hu .zones (by decide)
    have may : ((s.elapse m).withZone k .idle).mayLower k r g = true ↔
        g.position = .warning ∧ Served s (secondsAt m s) r g :=
      (mayLower_iff ((s.elapse m).withZone k .idle) k r g hk).trans
        ⟨fun ⟨h1, _, h3⟩ => ⟨h1, h3⟩, fun ⟨h1, h3⟩ => ⟨h1, idle, h3⟩⟩
    obtain ⟨e, hz, hle⟩ := zoneEnded_elapse.mp ended
    refine ⟨t, he, hpass, fun _ _ _ => ⟨by rw [zones, idle], fun j hj => ?_, fun h => hm (may.mpr h),
      fun h => hq fun hl => h (may.mp hl)⟩, fun h => absurd hle (Nat.not_le.mpr (h e hz))⟩
    rw [zones]
    exact itemAt_putItem_ne _ _ hj
  · obtain ⟨t, he, hpass, -, hq⟩ := event_quiet m (zoneEffect k) s _ [] hp hs (if_neg ended) (Frame.refl _ _) (by decide)
    exact ⟨t, he, hpass, fun e hz hle => absurd (zoneEnded_elapse.mpr ⟨e, hz, hle⟩) ended, fun _ => hq⟩

omit hp hs hr hg in
theorem inMotion_iff (p : GatePosition) : p.inMotion = true ↔ p = .lowering ∨ ∃ kind, p = .raising kind := by
  cases p <;> simp [GatePosition.inMotion]

omit hp hs hr in
/-- The travel timer of a moving gate has run out at a moment. -/
theorem travelPassed_elapse : (s.elapse m).travelPassed k = true ↔
    g.position.inMotion = true ∧ ∃ e, g.travelExpiry = some e ∧ e ≤ secondsAt m s := by
  have same : (s.elapse m).gate k = some g := hg
  unfold State.travelPassed
  rw [same, seconds_elapse]
  dsimp only
  cases g.travelExpiry <;> simp

theorem travelTimeout_cases : ∃ t, exec (.travelTimeout m k) s = .next t ∧ Passed m s t ∧
    ((g.position = .lowering ∨ ∃ kind, g.position = .raising kind) →
      ∀ e, g.travelExpiry = some e → e ≤ secondsAt m s →
        Moves k g (atRest (.stopped .timeout) g.reversals) .timeout [] s t) ∧
    (g.position ≠ .lowering → (∀ kind, g.position ≠ .raising kind) → Quiet [] s t) ∧
    ((∀ e, g.travelExpiry = some e → secondsAt m s < e) → Quiet [] s t) := by
  by_cases passed : (s.elapse m).travelPassed k = true
  · have stopped : (s.elapse m).travelExpired k =
        (s.elapse m).changeGate k .timeout (atRest (.stopped .timeout) g.reversals) := by
      have same : (s.elapse m).gate k = some g := hg
      unfold State.travelExpired
      rw [same]
      rfl
    obtain ⟨t, he, hpass, -, hm⟩ := event_moves m (travelEffect k) s (s.elapse m) k r g _ .timeout [] hp
      ((if_pos passed).trans stopped) hr hg rfl (Frame.refl _ _) (by decide)
    obtain ⟨moving, e, hx, hle⟩ := (travelPassed_elapse hg).mp passed
    refine ⟨t, he, hpass, fun _ _ _ _ => hm, fun hl hk => ?_, fun h => absurd hle (Nat.not_le.mpr (h e hx))⟩
    rcases (inMotion_iff _).mp moving with h | ⟨kind, h⟩
    · exact absurd h hl
    · exact absurd h (hk kind)
  · obtain ⟨t, he, hpass, -, hq⟩ := event_quiet m (travelEffect k) s _ [] hp hs (if_neg passed) (Frame.refl _ _)
      (by decide)
    exact ⟨t, he, hpass, fun hm e hx hle =>
      absurd ((travelPassed_elapse hg).mpr ⟨(inMotion_iff _).mpr hm, e, hx, hle⟩) passed, fun _ _ => hq, fun _ => hq⟩

end

/-- Settles O14: each timer by whether its moment has come. -/
theorem gateTimers : Obligations.GateTimers := fun _ _ _ _ _ hp hs hr hg =>
  ⟨holdDeadline_cases hp hs hr hg, clearZoneExpiry_cases hp hs hr hg, travelTimeout_cases hp hs hr hg⟩

/-! ## Presence (R15, R16, R122) -/

/-- A clear-zone timer after a presence change event. -/
theorem presence_eq (z : ClearZone) (now : Moment) (hold : Nat) (high : Bool) :
    z.presence now hold high = if high then .occupied
      else match z with
        | .occupied => .holding (now + hold * usPerSecond)
        | z => z := by
  cases z <;> cases high <;> rfl

theorem presenceChanged_eq {s : State} {k : Nat} {r : GateRecord} {z : ClearZone} (high : Bool)
    (hr : lookup s.settings.gates k = some r) (hz : itemAt s.field.clearZones k = some z) :
    s.presenceChanged k high = if high then (s.withZone k (z.presence s.now r.clearHold high)).presenceRose k
      else s.withZone k (z.presence s.now r.clearHold high) := by
  unfold State.presenceChanged
  simp only [hr, hz]

theorem presenceRose_eq {s : State} {k : Nat} {r : GateRecord} {g : GateState}
    (hr : lookup s.settings.gates k = some r) (hg : s.gate k = some g) :
    s.presenceRose k = if g.position = .lowering then
        if g.reversals < 3 then
          s.changeGate k .obstruction { g with position := .raising .obstruction, reversals := g.reversals + 1,
                                               travelExpiry := some (s.travelEnd r) }
        else s.changeGate k .obstruction (atRest (.stopped .obstruction) g.reversals)
      else s := by
  unfold State.presenceRose
  simp only [hr, hg]
  rfl

/-- The input accepted and the clear-zone timer told. -/
def presenceTold (line k : Nat) (high : Bool) (r : GateRecord) (z : ClearZone) (m : Moment) (s : State) : State :=
  (acceptedInput line high m s).withZone k (z.presence (max s.now m) r.clearHold high)

theorem frame_presenceTold (line k : Nat) (high : Bool) (r : GateRecord) (z : ClearZone) (m : Moment) (s : State) :
    Frame [.inputs, .zones] (s.elapse m) (presenceTold line k high r z m s) :=
  Frame.mono (Frame.trans (frame_withInput (s.elapse m) line _) (frame_withZone (acceptedInput line high m s) k _))
    (by simp)

/-- What the statement says of the gate after a presence change event. -/
def PresenceMoves (k : Nat) (high : Bool) (r : GateRecord) (g : GateState) (m : Moment) (s t : State) : Prop :=
  (high = true → g.position = .lowering → g.reversals < 3 →
    Moves k g { g with position := .raising .obstruction, reversals := g.reversals + 1,
                       travelExpiry := some (secondsAt m s + r.travel) } .obstruction [.inputs, .zones] s t) ∧
  (high = true → g.position = .lowering → 3 ≤ g.reversals →
    Moves k g (atRest (.stopped .obstruction) g.reversals) .obstruction [.inputs, .zones] s t) ∧
  (high = false ∨ g.position ≠ .lowering → Quiet [.inputs, .zones] s t)

section
variable {m : Moment} {line : Nat} {s : State} {c : Candidate} {k : Nat} {r : GateRecord} {g : GateState}
  (hp : s.powered = true) (hs : s.Settled) (hc : Held s m line c)
  (hr : lookup s.settings.gates k = some r) (hg : s.gate k = some g)
include hp hs hc hr hg

/-- A presence change event: the gate of a lowering is obstructed, and nothing else moves. -/
theorem presence_event {z : ClearZone} (hf : s.settings.functionOf line = .presence k)
    (hz : itemAt s.field.clearZones k = some z) :
    ∃ t, exec (.changeEvent m line) s = .next t ∧ Passed m s t ∧
      Frame (always ++ road) (presenceTold line k c.level r z m s) t ∧ PresenceMoves k c.level r g m s t := by
  have effect : changeEffect line (s.elapse m) =
      if c.level then (presenceTold line k c.level r z m s).presenceRose k else presenceTold line k c.level r z m s := by
    rw [changeEffect_held hc, hf]
    exact presenceChanged_eq (s := acceptedInput line c.level m s) c.level hr hz
  have rose := presenceRose_eq (s := presenceTold line k c.level r z m s) hr hg
  have frame := frame_presenceTold line k c.level r z m s
  by_cases h : c.level = true ∧ g.position = .lowering
  · obtain ⟨hl, hpos⟩ := h
    have raised := effect.trans ((if_pos hl).trans (rose.trans (if_pos hpos)))
    by_cases h3 : g.reversals < 3
    · obtain ⟨t, he, hpass, hu, hm⟩ := event_moves m (changeEffect line) s _ k r g _ .obstruction [.inputs, .zones] hp
        (raised.trans (if_pos h3)) hr hg rfl frame (by decide)
      exact ⟨t, he, hpass, hu, fun _ _ _ => hm, fun _ _ h => absurd h (Nat.not_le.mpr h3),
        fun h => absurd h (by simp [hl, hpos])⟩
    · obtain ⟨t, he, hpass, hu, hm⟩ := event_moves m (changeEffect line) s _ k r g _ .obstruction [.inputs, .zones] hp
        (raised.trans (if_neg h3)) hr hg rfl frame (by decide)
      exact ⟨t, he, hpass, hu, fun _ _ h => absurd h h3, fun _ _ _ => hm, fun h => absurd h (by simp [hl, hpos])⟩
  · have still : changeEffect line (s.elapse m) = presenceTold line k c.level r z m s := by
      rw [effect]
      split
      · rename_i hl
        exact rose.trans (if_neg fun hpos => h ⟨hl, hpos⟩)
      · rfl
    obtain ⟨t, he, hpass, hu, hq⟩ := event_quiet m (changeEffect line) s _ [.inputs, .zones] hp hs still frame (by decide)
    exact ⟨t, he, hpass, Frame.mono hu (by decide), fun hl hpos => absurd ⟨hl, hpos⟩ h,
      fun hl hpos => absurd ⟨hl, hpos⟩ h, fun _ => hq⟩

end

/-! ## The key switch (R111, R127, R128) -/

theorem accepted_withInput_self (s : State) {line : Nat} (i : InputState) (h : 1 ≤ line ∧ line ≤ 16) :
    (s.withInput line i).accepted line = i.accepted := by
  have e : itemAt (s.withInput line i).field.inputs line = some i := itemAt_putItem_self _ _ h.1 h.2
  unfold State.accepted
  rw [e]

theorem accepted_withInput_ne (s : State) {line j : Nat} (i : InputState) (h : j ≠ line) :
    (s.withInput line i).accepted j = s.accepted j := by
  have e : itemAt (s.withInput line i).field.inputs j = itemAt s.field.inputs j := itemAt_putItem_ne _ _ h
  unfold State.accepted
  rw [e]

/-- A gate's hold start is not told by `Moves` where it comes to UP or WARNING. -/
theorem moves_anyHold {k : Nat} {g new : GateState} {cause : GateCause} {also : List Part} {s t : State}
    (hold : Option Nat) (hn : new.position = .warning) (h : Moves k g { new with holdStart := hold } cause also s t) :
    Moves k g new cause also s t := by
  obtain ⟨⟨a, ha, hrev, hmov, -⟩, hrep, hrest⟩ := h
  exact ⟨⟨a, ha, hrev, hmov, fun _ hw => absurd hn hw⟩, hrep, hrest⟩

/-- The derived state of a gate whose key is inactive. -/
def keyLeft (s : State) (r : GateRecord) : GatePosition :=
  derivedPosition false (s.accepted r.upSwitch) (s.accepted r.downSwitch) (s.cif r.segment)

theorem deriveGate_eq {s : State} {r : GateRecord} (h : s.keyActive r = false) :
    s.deriveGate r = { atRest (keyLeft s r) 0 with
      holdStart := if keyLeft s r = .warning then s.freshHold r else none } := by
  unfold State.deriveGate
  rw [h]
  rfl

section
variable {m : Moment} {line : Nat} {s : State} {c : Candidate} {k : Nat} {r : GateRecord} {g : GateState}
  (hp : s.powered = true) (hs : s.Settled) (hc : Held s m line c)
  (hr : lookup s.settings.gates k = some r) (hg : s.gate k = some g)
include hp hs hc hr hg

omit hs in
/-- The key becomes active: LOCAL. -/
theorem key_rises (hf : s.settings.functionOf line = .key k) (hl : c.level = true) :
    ∃ t, exec (.changeEvent m line) s = .next t ∧ Passed m s t ∧
      Frame (always ++ road) (acceptedInput line c.level m s) t ∧ Moves k g (atRest .inLocal 0) .key [.inputs] s t := by
  have effect : changeEffect line (s.elapse m) =
      (acceptedInput line c.level m s).changeGate k .key (atRest .inLocal 0) := by
    rw [changeEffect_held hc, hf]
    exact if_pos hl
  exact event_moves m (changeEffect line) s _ k r g _ .key [.inputs] hp effect hr hg rfl
    (frame_withInput (s.elapse m) line _) (by decide)

omit hp hs in
theorem keyFell_eq (hf : s.settings.functionOf line = .key k) (hl : c.level = false) :
    changeEffect line (s.elapse m) = if g.position = .inLocal then
      (acceptedInput line c.level m s).changeGate k .key ((acceptedInput line c.level m s).deriveGate r)
      else acceptedInput line c.level m s := by
  have hr' : lookup (acceptedInput line c.level m s).settings.gates k = some r := hr
  have hg' : (acceptedInput line c.level m s).gate k = some g := hg
  rw [changeEffect_held hc, hf]
  refine (if_neg (by simp [hl])).trans ?_
  unfold State.keyFell
  rw [hr', hg']

omit hs in
/-- The key becomes inactive in LOCAL: the derivation. -/
theorem key_falls (hf : s.settings.functionOf line = .key k) (hk : line = r.key) (hu : r.upSwitch ≠ line)
    (hd : r.downSwitch ≠ line) (hl : c.level = false) (hpos : g.position = .inLocal) :
    ∃ t, exec (.changeEvent m line) s = .next t ∧ Passed m s t ∧
      Frame (always ++ road) (acceptedInput line c.level m s) t ∧ Moves k g (atRest (keyLeft s r) 0) .key [.inputs] s t := by
  have inactive : (acceptedInput line c.level m s).keyActive r = false := by
    unfold State.keyActive acceptedInput
    rw [← hk, accepted_withInput_self _ _ (held_bounds hc), hl, Bool.and_false]
  have left : keyLeft (acceptedInput line c.level m s) r = keyLeft s r := by
    unfold keyLeft acceptedInput
    rw [accepted_withInput_ne _ _ hu, accepted_withInput_ne _ _ hd]
    rfl
  have derived := deriveGate_eq inactive
  rw [left] at derived
  obtain ⟨t, he, hpass, hframe, hm⟩ := event_moves m (changeEffect line) s _ k r g _ .key [.inputs] hp
    ((keyFell_eq hc hr hg hf hl).trans (if_pos hpos)) hr hg rfl (frame_withInput (s.elapse m) line _) (by decide)
  refine ⟨t, he, hpass, hframe, ?_⟩
  rw [derived] at hm
  by_cases hw : keyLeft s r = .warning
  · exact moves_anyHold _ hw hm
  · rwa [if_neg hw] at hm

/-- The key becomes inactive in another state: nothing moves. -/
theorem key_falls_idle (hf : s.settings.functionOf line = .key k) (hl : c.level = false) (hpos : g.position ≠ .inLocal) :
    ∃ t, exec (.changeEvent m line) s = .next t ∧ Passed m s t ∧
      Frame (always ++ road) (acceptedInput line c.level m s) t ∧ Quiet [.inputs] s t := by
  obtain ⟨t, he, hpass, hu, hq⟩ := event_quiet m (changeEffect line) s _ [.inputs] hp hs
    ((keyFell_eq hc hr hg hf hl).trans (if_neg hpos)) (frame_withInput (s.elapse m) line _) (by decide)
  exact ⟨t, he, hpass, Frame.mono hu (by decide), hq⟩

end

/-- Settles O13: the presence input by its level and the gate's state, the key by its level. -/
theorem presenceAndKeyEvents : Obligations.PresenceAndKeyEvents := by
  refine fun m line s c k r g hp hs hc hr hg => ⟨fun z hf _ hz => ?_, fun hf hk hu hd => ?_⟩
  · obtain ⟨hk1, hk2⟩ := lookup_bounds _ hg
    obtain ⟨t, he, hpass, hframe, hm⟩ := presence_event hp hs hc hr hg hf hz
    have zones : t.field.clearZones = (presenceTold line k c.level r z m s).field.clearZones := hframe .zones (by decide)
    refine ⟨t, he, hpass, accepts_of_inputs hc (hframe .inputs (by decide)), ?_, fun j hj => ?_, hm⟩
    · rw [zones]
      exact (itemAt_putItem_self _ _ hk1 hk2).trans (congrArg some (presence_eq z _ _ _))
    · rw [zones]
      exact itemAt_putItem_ne _ _ hj
  · have accepts : ∀ {t : State}, Frame (always ++ road) (acceptedInput line c.level m s) t →
        Accepts s t line c.level := fun h => accepts_of_inputs hc (h .inputs (by decide))
    cases hl : c.level with
    | true =>
      obtain ⟨t, he, hpass, hframe, hm⟩ := key_rises hp hc hr hg hf hl
      exact ⟨t, he, hpass, hl ▸ accepts hframe, fun _ => hm, nofun, nofun⟩
    | false =>
      by_cases hpos : g.position = .inLocal
      · obtain ⟨t, he, hpass, hframe, hm⟩ := key_falls hp hc hr hg hf hk hu hd hl hpos
        exact ⟨t, he, hpass, hl ▸ accepts hframe, nofun, fun _ _ => hm, fun _ h => absurd hpos h⟩
      · obtain ⟨t, he, hpass, hframe, hq⟩ := key_falls_idle hp hs hc hr hg hf hl hpos
        exact ⟨t, he, hpass, hl ▸ accepts hframe, nofun, fun _ h => absurd h hpos, fun _ _ => hq⟩

end Sys2Proof.Proofs
end

section
/-! CALIBRATE: its checks in the statement's words, and the set replaced (O15). -/

namespace Sys2Proof.Proofs

open Sys2Proof Sys2Proof.Machine Sys2Proof.Laws Sys2Proof.Claims

/-! ## The checks (R18) -/

theorem vector_all_iff {α : Type} {n : Nat} {v : Vector α n} {p : α → Bool} :
    v.all p = true ↔ ∀ k x, itemAt v k = some x → p x = true := by
  rw [Vector.all_eq_true_iff_forall_mem]
  simp only [mem_vector_iff_itemAt, forall_exists_index]
  exact forall_comm

/-- A channel whose mode fits its role and whose lines fit its mode. -/
theorem channel_inRange_iff (x : ChannelConfig) : x.inRange = true ↔ x.mode = x.role.mode ∧
    (x.mode = .off → x.source = 0 ∧ x.vaneOk = 0) ∧
    (x.mode = .event ∨ x.mode = .width → 1 ≤ x.source ∧ x.source ≤ 16 ∧ x.vaneOk = 0) ∧
    (x.mode = .vane → 1 ≤ x.source ∧ x.source ≤ 14 ∧ x.vaneOk ≤ 16) := by
  unfold ChannelConfig.inRange
  rw [Bool.and_eq_true, decide_eq_true_eq]
  refine and_congr_right fun _ => ?_
  cases x.mode <;> simp [within_iff, and_assoc]

theorem calibration_inRange_iff (new : Calibration) : new.inRange = true ↔ CalibrationInRange new := by
  unfold Calibration.inRange CalibrationInRange
  simp only [Bool.and_eq_true, vector_all_iff, within_iff, channel_inRange_iff]
  tauto

theorem calibrationConflict_eq_false (c : Settings) (new : Calibration) :
    c.calibrationConflict new = false ↔ CalibrationFree c new := by
  simp only [Settings.calibrationConflict, CalibrationFree, Bool.or_eq_false_iff, any_eq_false_iff, Bool.not_eq_false',
    distinct, decide_eq_true_eq, List.contains_eq_mem, decide_eq_false_iff_not, Prod.forall, mem_entries, and_assoc]
  exact and_congr_left fun _ => ⟨fun h k r hr l hl => h l hl k r hr, fun h l hl k r hr => h k r hr l hl⟩

theorem checkCalibration_eq_ok {c : Settings} {f : List Byte} {new : Calibration} (hl : f.length = 43)
    (hn : calibrationOf f = some new) (hr : CalibrationInRange new) (hc : CalibrationFree c new) :
    checkCalibration c f = .ok new := by
  have range := (calibration_inRange_iff new).mpr hr
  have free := (calibrationConflict_eq_false c new).mpr hc
  unfold checkCalibration
  simp only [hl, hn, range, free, ne_eq, not_true_eq_false, if_false, Bool.not_true, Bool.false_eq_true]

/-! ## The set replaced (R3, R10, R12, R14) -/

theorem frame_withCalibration (s : State) (new : Calibration) :
    Frame [.calibration] s (s.change fun c => { c with calibration := new }) := by
  intro p hp
  cases p <;> first
    | exact absurd (show (_ : Part) ∈ [Part.calibration] by decide) hp
    | exact Eq.refl _
    | exact ⟨Eq.refl _, Eq.refl _⟩

theorem frame_withInputs (s : State) (v : Vector InputState 16) :
    Frame [.inputs] s (s.withField { s.field with inputs := v }) := by
  intro p hp
  cases p <;> first
    | exact absurd (show (_ : Part) ∈ [Part.inputs] by decide) hp
    | exact Eq.refl _
    | exact ⟨Eq.refl _, Eq.refl _⟩

theorem frame_calibrate (s : State) (new : Calibration) :
    Frame [.calibration, .channels, .inputs] s (s.calibrate new) := by
  let old := s.settings.calibration
  let changed := s.change fun c => { c with calibration := new }
  let totals := changed.withField { changed.field with channels := s.newChannels old new }
  have channels : Frame [.channels] changed totals := frame_withChannels changed _
  have inputs : Frame [.inputs] totals (totals.withField { totals.field with inputs := s.newInputs old new }) :=
    frame_withInputs totals _
  exact Frame.mono (Frame.trans (Frame.trans (frame_withCalibration s new) channels) inputs) (by simp)

/-- Every channel under the new set. -/
theorem itemAt_newChannels {s : State} {old new : Calibration} {k : Nat} {a b : ChannelConfig} {x : ChannelTotals}
    (ha : itemAt old.channels k = some a) (hb : itemAt new.channels k = some b)
    (hx : itemAt s.field.channels k = some x) :
    itemAt (s.newChannels old new) k = some (s.recalibrated a b x) := by
  obtain ⟨h1, h2⟩ := itemAt_bounds hx
  let i : Fin 6 := ⟨k - 1, by omega⟩
  have hk : k = i.val + 1 := (Nat.sub_add_cancel h1).symm
  have get : ∀ {α : Type} {v : Vector α 6} {y : α}, itemAt v k = some y → v.get i = y := by
    intro α v y hy
    rw [hk, itemAt_get] at hy
    exact Option.some.inj hy
  exact itemAt_ofFn.mpr ⟨i, hk, by rw [get ha, get hb, get hx]⟩

/-- Every input under the new set. -/
theorem itemAt_newInputs {s : State} {old new : Calibration} {k : Nat} {i : InputState} {l : Bool}
    (hi : itemAt s.field.inputs k = some i) (hl : itemAt s.field.lines k = some l) :
    itemAt (s.newInputs old new) k =
      some (if new.isWidthSource k ∧ old.isWidthSource k = false then ⟨l, none⟩ else i) := by
  obtain ⟨h1, h2⟩ := itemAt_bounds hi
  let j : Fin 16 := ⟨k - 1, by omega⟩
  have hk : k = j.val + 1 := (Nat.sub_add_cancel h1).symm
  have get : ∀ {α : Type} {v : Vector α 16} {y : α}, itemAt v k = some y → v.get j = y := by
    intro α v y hy
    rw [hk, itemAt_get] at hy
    exact Option.some.inj hy
  refine itemAt_ofFn.mpr ⟨j, hk, ?_⟩
  rw [get hi, get hl, ← hk]
  exact if_congr (by rw [Bool.and_eq_true, Bool.not_eq_true']) rfl rfl

/-- A channel whose record changed begins anew. -/
theorem recalibrated_ne {s : State} {a b : ChannelConfig} (x : ChannelTotals) (h : a ≠ b) :
    s.recalibrated a b x = match b.mode with
      | .off => .off
      | .event => .event 0
      | .width => .width 0 0 (if levelAt s.field.lines b.source then .blind else .idle)
      | .vane => .vane (Vector.replicate 8 0) s.weather.timer :=
  (if_neg h).trans rfl

/-- Settles O15: an accepted set replaces the old one, channel by channel and input by input. -/
theorem calibrateReplacesSet : Obligations.CalibrateReplacesSet := by
  intro m tag f s new hready hs hl hn hr hc
  have accepted : carryCalibrate f (s.elapse m).popFrame = ((s.elapse m).popFrame.calibrate new, .done []) := by
    have ok : checkCalibration (s.elapse m).popFrame.settings f = .ok new := checkCalibration_eq_ok hl hn hr hc
    unfold carryCalibrate
    rw [ok]
    rfl
  obtain ⟨t, he, hpass, hans, hu, hq⟩ := request_quiet m kindCalibrate tag f (carryCalibrate f) s _ _
    [.calibration, .channels, .inputs] hready hs accepted (frame_calibrate _ new) (by decide)
  have channels : t.field.channels = (s.elapse m).popFrame.newChannels s.settings.calibration new :=
    hu .channels (by decide)
  have inputs : t.field.inputs = (s.elapse m).popFrame.newInputs s.settings.calibration new := hu .inputs (by decide)
  refine ⟨t, ⟨he, hpass, hans⟩, hu .calibration (by decide), fun k a b x ha hb hx => ?_, fun k i l hi hl => ?_, hq⟩
  · have item := itemAt_newChannels (s := (s.elapse m).popFrame) ha hb hx
    rw [← channels] at item
    exact ⟨fun h => item.trans (congrArg some (if_pos h)), fun h => item.trans (congrArg some (recalibrated_ne x h))⟩
  · rw [inputs]
    exact itemAt_newInputs (s := (s.elapse m).popFrame) hi hl

end Sys2Proof.Proofs
end

section
/-! STEP_END: the step record in the statement's words, the figures and reports of the paths, and the autonomous notices
that the trigger's asks make (O9). -/

namespace Sys2Proof.Proofs

open Sys2Proof Sys2Proof.Machine Sys2Proof.Laws Sys2Proof.Claims

/-! ## The hazard update in the statement's words (R36 to R39) -/

theorem snowFraction_eq (t : Option Int) : snowFraction t = fraction t := by
  cases t with
  | none => rfl
  | some t =>
    unfold snowFraction fraction
    dsimp only
    split
    · rfl
    · exact if_congr (by omega) rfl rfl

theorem windLoad_eq (u : Nat) (lee : BitVec 8) (sector : Option Nat) (w : Nat) :
    windLoad u lee sector w = wind u lee sector w := by
  cases sector with
  | none => simp [windLoad, wind, loadedBy, pow_two]
  | some k => simp [windLoad, wind, loadedBy, pow_two]

theorem warmLoad_eq (t : Option Int) (m : Nat) : warmLoad t m = warming t m := by
  cases t with
  | none => rfl
  | some t =>
    unfold warmLoad warming
    dsimp only
    split
    · rfl
    · obtain ⟨n, hn⟩ := Int.eq_ofNat_of_zero_le (show 0 ≤ t - 10 by omega)
      rw [hn]
      exact (Int.toNat_natCast (n * m / 100)).symm

theorem rawIndex_eq (r : PathRecord) (w : StepWeather) (h : Nat) : rawIndex r w h = raw r w h := by
  unfold rawIndex raw
  rw [warmLoad_eq, windLoad_eq, snowFraction_eq]
  rfl

theorem pathEntry_eq (s : State) (w : StepWeather) (y : Nat × PathRecord) :
    s.pathEntry w y = ⟨y.1, min (raw y.2 w (s.figures y.1).h) 10000, decide (10000 < raw y.2 w (s.figures y.1).h)⟩ := by
  unfold State.pathEntry hazardUpdate
  rw [rawIndex_eq]

/-- The figures a path takes at a step end are those of the table. -/
theorem stepFigures_eq (w : StepWeather) (r : PathRecord) (f : PathFigures) :
    r.stepFigures f (min (raw r w f.h) 10000) = figuresAfter w r f := rfl

/-- The weather of a step, from its record. -/
def weatherOf (x : StepRecord) : StepWeather := ⟨x.p, x.t, x.u, x.sector⟩

theorem stepRecord_entries (s : State) :
    s.stepRecord.entries = (entries s.settings.paths).map (s.pathEntry (weatherOf s.stepRecord)) := rfl

/-- A step is marked HCLAMP where a path's raw index passed 10000. -/
theorem stepRecord_hClamp (s : State) : s.stepRecord.flags.hClamp = true ↔ ∃ k r, lookup s.settings.paths k = some r ∧
    10000 < raw r (weatherOf s.stepRecord) (s.figures k).h := by
  have flag : s.stepRecord.flags.hClamp = s.stepRecord.entries.any PathEntry.clamped := rfl
  rw [flag, stepRecord_entries, List.any_map, List.any_eq_true]
  simp only [Prod.exists, mem_entries, Function.comp_apply, pathEntry_eq, decide_eq_true_eq]

theorem addToHistory_eq {history : List StepRecord} (x : StepRecord) (h : history.length ≤ 36) :
    addToHistory history x = (history ++ [x]).drop (history.length + 1 - 36) := by
  have size : Config.historySize = 36 := rfl
  unfold addToHistory
  rw [size]
  split
  · rw [Nat.sub_eq_zero_of_le (by omega), List.drop_zero]
  · have full : history.length = 36 := by omega
    rw [full, List.drop_append_of_le_length (by omega)]

theorem tempReadout_eq (t : Option Int) (state : TempState) : tempReadout t state = match t, state with
    | some v, .valid => .valid v
    | some v, .held _ => .held v
    | _, _ => .fault := by
  cases t <;> cases state <;> rfl

theorem emptied_eq (x : ChannelTotals) : x.emptied = match x with
    | .off => .off
    | .event _ => .event 0
    | .width _ _ state => .width 0 0 state
    | .vane _ _ => .vane (Vector.replicate 8 0) 0 := by
  cases x <;> rfl

/-! ## The new figures of the paths (R54) -/

/-- The numbers of a table's records are distinct. -/
theorem entries_numbers_nodup {α : Type} {n : Nat} (v : Vector (Option α) n) : ((entries v).map Prod.fst).Nodup := by
  have each : (entries v).Nodup := by
    refine List.Nodup.filterMap (fun j k x hj hk => ?_) List.nodup_range'
    obtain ⟨y, -, hy⟩ := Option.map_eq_some_iff.mp hj
    obtain ⟨z, -, hz⟩ := Option.map_eq_some_iff.mp hk
    exact congrArg Prod.fst (hy.trans hz.symm)
  refine List.Nodup.map_on ?_ each
  rintro ⟨j, x⟩ hx ⟨k, y⟩ hy e
  obtain rfl : j = k := e
  have ex : lookup v j = some x := mem_entries.mp hx
  have ey : lookup v j = some y := mem_entries.mp hy
  rw [Option.some.inj (ex.symm.trans ey)]

/-- Items put one after the other: the others stay. -/
theorem foldl_putItem_ne {α β : Type} {n : Nat} (key : β → Nat) (val : β → α) (xs : List β) (v : Vector α n) {k : Nat}
    (hk : k ∉ xs.map key) : itemAt (xs.foldl (fun v x => putItem v (key x) (val x)) v) k = itemAt v k := by
  induction xs generalizing v with
  | nil => rfl
  | cons x xs ih =>
    obtain ⟨hx, hxs⟩ := not_or.mp (List.mem_cons.not.mp hk)
    exact (ih _ hxs).trans (itemAt_putItem_ne _ _ hx)

/-- Items put one after the other under distinct numbers: each is as it was put. -/
theorem foldl_putItem_mem {α β : Type} {n : Nat} (key : β → Nat) (val : β → α) (xs : List β) (v : Vector α n)
    (hn : (xs.map key).Nodup) {x : β} (hx : x ∈ xs) (h1 : 1 ≤ key x) (h2 : key x ≤ n) :
    itemAt (xs.foldl (fun v x => putItem v (key x) (val x)) v) (key x) = some (val x) := by
  induction xs generalizing v with
  | nil => cases hx
  | cons y ys ih =>
    obtain ⟨hy, hys⟩ := List.nodup_cons.mp hn
    rcases List.mem_cons.mp hx with rfl | hx
    · exact (foldl_putItem_ne key val ys _ hy).trans (itemAt_putItem_self _ _ h1 h2)
    · exact ih _ hys hx

/-- The paths of a table with their figures before and after a step. -/
def steppedPaths (w : StepWeather) (s : State) : List (Nat × PathFigures × PathFigures) :=
  (entries s.settings.paths).map fun y => (y.1, s.figures y.1, figuresAfter w y.2 (s.figures y.1))

/-- The new figures taken. -/
def figuresTaken (w : StepWeather) (s : State) : State :=
  s.withRetained { s.retained with
    paths := (steppedPaths w s).foldl (fun v x => putItem v x.1 x.2.2) s.retained.paths }

theorem steppedPaths_numbers (w : StepWeather) (s : State) :
    (steppedPaths w s).map Prod.fst = (entries s.settings.paths).map Prod.fst := by
  unfold steppedPaths
  rw [List.map_map]
  rfl

theorem figures_figuresTaken_some {w : StepWeather} {s : State} {k : Nat} {r : PathRecord}
    (hr : lookup s.settings.paths k = some r) : (figuresTaken w s).figures k = figuresAfter w r (s.figures k) := by
  have hm : (k, s.figures k, figuresAfter w r (s.figures k)) ∈ steppedPaths w s :=
    List.mem_map.mpr ⟨(k, r), mem_entries.mpr hr, rfl⟩
  obtain ⟨h1, h2⟩ := lookup_bounds _ hr
  have item := foldl_putItem_mem (n := 12) Prod.fst (fun x : Nat × PathFigures × PathFigures => x.2.2)
    (steppedPaths w s) s.retained.paths (by rw [steppedPaths_numbers]; exact entries_numbers_nodup _) hm h1 h2
  exact congrArg (Option.getD · ⟨0, 0, none⟩) item

theorem figures_figuresTaken_none {w : StepWeather} {s : State} {k : Nat} (hr : lookup s.settings.paths k = none) :
    (figuresTaken w s).figures k = s.figures k := by
  have hk : k ∉ (steppedPaths w s).map Prod.fst := by
    rw [steppedPaths_numbers]
    rintro hm
    obtain ⟨⟨j, r⟩, hj, rfl⟩ := List.mem_map.mp hm
    rw [mem_entries.mp hj] at hr
    cases hr
  exact congrArg (Option.getD · ⟨0, 0, none⟩)
    (foldl_putItem_ne (n := 12) Prod.fst (fun x : Nat × PathFigures × PathFigures => x.2.2) _ s.retained.paths hk)

/-- The changes of E of a step. -/
def stepRises (w : StepWeather) (s : State) : List Rise :=
  (entries s.settings.paths).flatMap fun y => riseOf y.1 (s.figures y.1) (figuresAfter w y.2 (s.figures y.1))

theorem takeIndices_eq (w : StepWeather) (s : State) :
    s.takeIndices ((entries s.settings.paths).map (s.pathEntry w)) = (figuresTaken w s).handLevels (stepRises w s) := by
  have index : ∀ y ∈ entries s.settings.paths,
      s.takeIndex (s.pathEntry w y) = figuresAfter w y.2 (s.figures y.1) := by
    intro y hy
    have hr : lookup s.settings.paths y.1 = some y.2 := mem_entries.mp hy
    rw [pathEntry_eq]
    unfold State.takeIndex
    simp only [hr, stepFigures_eq]
  have new : ((entries s.settings.paths).map (s.pathEntry w)).map (fun e => (e.path, s.figures e.path, s.takeIndex e)) =
      steppedPaths w s := by
    rw [List.map_map]
    refine List.map_congr_left fun y hy => ?_
    rw [Function.comp_apply, index y hy]
    rfl
  unfold State.takeIndices
  dsimp only
  rw [new, foldl_withFigures_eq, steppedPaths, List.flatMap_map]
  rfl

/-- The LEVEL reports of a step are those of the statement. -/
theorem stepRises_reports (w : StepWeather) (s : State) : (stepRises w s).map Rise.report =
    (entries s.settings.paths).flatMap
      (fun y => levelReport y.1 (s.figures y.1) (figuresAfter w y.2 (s.figures y.1))) := by
  unfold stepRises
  rw [List.map_flatMap]
  refine List.flatMap_congr fun y _ => ?_
  unfold riseOf levelReport
  split <;> rfl

/-! ## Frames of the step's updates -/

theorem frame_withMemories (s : State) (t : Option TempMemory) (p : Option Nat) :
    Frame [.memories] s (s.withRetained { s.retained with lastTemp := t, prevSector := p }) := by
  intro p hp
  cases p <;> first
    | exact absurd (show (_ : Part) ∈ [Part.memories] by decide) hp
    | exact Eq.refl _
    | exact ⟨Eq.refl _, Eq.refl _⟩

theorem frame_withPaths (s : State) (v : Vector PathFigures 12) :
    Frame [.paths] s (s.withRetained { s.retained with paths := v }) := by
  intro p hp
  cases p <;> first
    | exact absurd (show (_ : Part) ∈ [Part.paths] by decide) hp
    | exact Eq.refl _
    | exact ⟨Eq.refl _, Eq.refl _⟩

theorem frame_withNotices (s : State) (l : List Notice) : Frame [.notices] s (s.withNotices l) := by
  intro p hp
  cases p <;> first
    | exact absurd (show (_ : Part) ∈ [Part.notices] by decide) hp
    | exact Eq.refl _
    | exact ⟨Eq.refl _, Eq.refl _⟩

/-- The readouts of a step (R43). -/
def withReadouts (x : StepRecord) (s : State) : State :=
  s.withComposer { s.composer with temp := tempReadout x.t x.tState, wind := some x.u }

theorem frame_withReadouts (s : State) (x : StepRecord) : Frame [.readouts] s (withReadouts x s) := by
  intro p hp
  cases p <;> first
    | exact absurd (show (_ : Part) ∈ [Part.readouts] by decide) hp
    | exact Eq.refl _
    | exact ⟨Eq.refl _, Eq.refl _⟩

theorem frame_reports (s : State) (bs : List ReportBody) : Frame [.reports] s (s.reports bs) := by
  induction bs generalizing s with
  | nil => exact Frame.refl _ _
  | cons b bs ih => exact Frame.mono (Frame.trans (frame_report s b) (ih _)) (by decide)

/-! ## What follows a hand-over of levels, but for the notices -/

/-- What follows an effect, with the outbox as it was. -/
def Settles (u t : State) : Prop := Follows u t ∧ t.line.outbox = u.line.outbox

theorem Settles.trans {s t u : State} (h : Settles s t) (k : Settles t u) : Settles s u :=
  ⟨h.1.trans k.1, k.2.trans h.2⟩

theorem settles_of_reaction {u t : State} (h : Reaction u t) (hr : Ripple u t) (hc : Reach u t) : Settles u t :=
  ⟨.of_reaction h hr hc, h.outbox⟩

/-- A hand-over that may add notices follows the state with its Notice List. -/
theorem settles_of_loose {u t : State} (h : LooseReaction u t) (hr : Ripple u t) (hc : Reach u t) :
    Settles (u.withNotices t.retained.notices) t :=
  settles_of_reaction h (Ripple.trans (t := u) (.of_eq rfl rfl rfl rfl rfl) hr)
    (Reach.trans (t := u) (.of_eq rfl rfl rfl) hc)

/-- Changes of E handed on: their reports first, then what reacts. -/
theorem settles_handLevels (s : State) (rises : List Rise) :
    Settles ((s.reports (rises.map Rise.report)).withNotices (s.handLevels rises).retained.notices)
      (s.handLevels rises) := by
  cases rises with
  | nil => exact settles_of_loose (.refl s) (.refl s) (.refl s)
  | cons r rs =>
    refine settles_of_loose ?_ ?_ ?_
    · exact (LooseReaction.of (reaction_handOver _ _ _)).trans (LooseReaction.foldl (fun s x => loose_trigger s x) _ _)
    · exact (ripple_handOver _ _ _).trans (Ripple.foldl (fun s x => ripple_trigger s x) _ _)
    · exact (reach_handOver _ _ _).trans (Reach.foldl (fun s x => reach_trigger s x) _ _)

/-- New readouts on both sides of what follows an effect. -/
theorem settles_withReadouts {u t : State} (x : StepRecord) (h : Settles u t) :
    Settles (withReadouts x u) (withReadouts x t) := by
  obtain ⟨⟨hs, hl, hr, hc⟩, ho⟩ := h
  have still_eq : ∀ v : State, still (withReadouts x v) =
      { still v with temp := tempReadout x.t x.tState, wind := some x.u } := fun _ => rfl
  refine ⟨⟨by rw [still_eq, still_eq, hs], ⟨hl.receiver, hl.lastByte, hl.inbound, hl.carrying, hl.restartDue,
    hl.lastValid, hl.attended, ?_⟩, ?_, ?_⟩, ho⟩
  · obtain ⟨bs, hb⟩ := hl.records
    exact ⟨bs, hb.trans (congrArg recordsOf (reports_line_congr bs u (withReadouts x u) rfl rfl rfl))⟩
  · have before : Ripple (withReadouts x u) u := .of_eq rfl rfl rfl rfl rfl
    have after : Ripple t (withReadouts x t) := .of_eq rfl rfl rfl rfl rfl
    exact (before.trans hr).trans after
  · have before : Reach (withReadouts x u) u := .of_eq rfl rfl rfl
    have after : Reach t (withReadouts x t) := .of_eq rfl rfl rfl
    exact (before.trans hc).trans after

/-! ## Autonomous asks (R63, R82, R83) -/

theorem covers_closure_iff (n : Notice) (k : Nat) : n.covers .closure k = true ↔
    (∃ since, n.state = .active since) ∧ n.kind = .closure ∧ k ∈ n.segments := by
  unfold Notice.covers Notice.isActive
  cases n.state <;> simp

theorem autoCloses_iff (s : State) : s.autoCloses = true ↔
    s.settings.autoClose = .always ∨ (s.settings.autoClose = .unattendedOnly ∧ s.line.attended = false) := by
  unfold State.autoCloses
  cases s.settings.autoClose <;> simp

theorem grantsAsk_iff (s : State) (k : Nat) : s.grantsAsk k = true ↔ AskMeets s k := by
  have numbers : (findNotice (60200 + k) s.retained.notices).isNone = true ↔
      ∀ n ∈ s.retained.notices, n.number ≠ 60200 + k := by
    simp [findNotice]
  unfold State.grantsAsk AskMeets
  rw [Bool.and_eq_true, Bool.and_eq_true, Bool.not_eq_true', any_eq_false_iff, autoCloses_iff, numbers, and_assoc]
  simp only [← covers_closure_iff, Bool.not_eq_true]

theorem askMeets_congr {s t : State} (hs : t.settings = s.settings) (ha : t.line.attended = s.line.attended)
    (hn : t.retained.notices = s.retained.notices) (k : Nat) : AskMeets t k ↔ AskMeets s k := by
  unfold AskMeets
  rw [hs, ha, hn]

/-- What an ask leaves of settings, link and clock. -/
theorem askClosure_keeps (s : State) (k : Nat) : (s.askClosure k).settings = s.settings ∧
    (s.askClosure k).line.attended = s.line.attended ∧ (s.askClosure k).retained.clock = s.retained.clock := by
  have h : Reaction (s.withNotices (s.askClosure k).retained.notices) (s.askClosure k) := loose_askClosure s k
  have settings := h.settings
  have attended := h.attended
  have clock := congrArg Retained.clock h.retained
  exact ⟨settings, attended, clock⟩

/-- An ask that is granted puts the autonomous notice into the list. -/
theorem askClosure_granted {s : State} {k : Nat} (h : AskMeets s k) :
    (s.askClosure k).retained.notices = insertNotice (autonomous s k) s.retained.notices := by
  unfold State.askClosure
  rw [if_pos ((grantsAsk_iff s k).mpr h)]
  exact congrArg Retained.notices (Reaction.retained (reaction_handTouched _ [k]))

theorem askClosure_dropped {s : State} {k : Nat} (h : ¬ AskMeets s k) : s.askClosure k = s := by
  unfold State.askClosure
  rw [if_neg fun hg => h ((grantsAsk_iff s k).mp hg)]

/-- After an ask is granted, the asks that are left to grant are those for other segments. -/
theorem askMeets_granted {s : State} {k : Nat} (h : AskMeets s k) (j : Nat) :
    AskMeets (s.askClosure k) j ↔ j ≠ k ∧ AskMeets s j := by
  obtain ⟨hs, ha, -⟩ := askClosure_keeps s k
  have number : (autonomous s k).number = 60200 + k := rfl
  have segments : (autonomous s k).segments = [k] := rfl
  unfold AskMeets
  rw [hs, ha, askClosure_granted h]
  constructor
  · rintro ⟨h1, h2, h3⟩
    refine ⟨?_, h1, fun n hn => h2 n (mem_insertNotice.mpr (Or.inr hn)),
      fun n hn => h3 n (mem_insertNotice.mpr (Or.inr hn))⟩
    rintro rfl
    exact h3 _ (mem_insertNotice.mpr (Or.inl rfl)) number
  · rintro ⟨hj, h1, h2, h3⟩
    refine ⟨h1, fun n hn => ?_, fun n hn => ?_⟩
    · rcases mem_insertNotice.mp hn with rfl | hn
      · rintro ⟨-, -, hm⟩
        rw [segments] at hm
        exact hj (List.mem_singleton.mp hm)
      · exact h2 n hn
    · rcases mem_insertNotice.mp hn with rfl | hn
      · rw [number]
        omega
      · exact h3 n hn

theorem autonomous_congr {s t : State} (h : t.retained.clock = s.retained.clock) (k : Nat) :
    autonomous t k = autonomous s k := by
  unfold autonomous
  rw [h]

/-- Some asks, one after the other: each segment that meets the conditions gains its notice, once. -/
theorem notices_of_asks (ks : List Nat) (s : State) :
    ∃ added, (ks.foldl (fun s k => s.askClosure k) s).retained.notices.Perm (added ++ s.retained.notices) ∧
      added.Nodup ∧ ∀ n, n ∈ added ↔ ∃ k ∈ ks, n = autonomous s k ∧ AskMeets s k := by
  induction ks generalizing s with
  | nil => exact ⟨[], List.Perm.refl _, List.nodup_nil, by simp⟩
  | cons k ks ih =>
    rw [List.foldl_cons]
    by_cases h : AskMeets s k
    · obtain ⟨-, -, hc⟩ := askClosure_keeps s k
      obtain ⟨added, hp, hn, hm⟩ := ih (s.askClosure k)
      simp only [askMeets_granted h, autonomous_congr hc] at hm
      refine ⟨autonomous s k :: added, ?_, List.nodup_cons.mpr ⟨fun hk => ?_, hn⟩, fun n => ?_⟩
      · rw [askClosure_granted h] at hp
        exact hp.trans (((insertNotice_perm _ _).append_left added).trans List.perm_middle)
      · obtain ⟨j, -, e, hj, -⟩ := (hm _).mp hk
        have number : 60200 + k = 60200 + j := congrArg Notice.number e
        omega
      · rw [List.mem_cons, hm]
        constructor
        · rintro (rfl | ⟨j, hj, e, -, ha⟩)
          · exact ⟨k, List.mem_cons_self .., rfl, h⟩
          · exact ⟨j, List.mem_cons_of_mem _ hj, e, ha⟩
        · rintro ⟨j, hj, e, ha⟩
          by_cases hjk : j = k
          · exact Or.inl (hjk ▸ e)
          · exact Or.inr ⟨j, (List.mem_cons.mp hj).resolve_left hjk, e, hjk, ha⟩
    · obtain ⟨added, hp, hn, hm⟩ := ih s
      rw [askClosure_dropped h]
      refine ⟨added, hp, hn, fun n => (hm n).trans ?_⟩
      simp only [List.mem_cons, exists_eq_or_imp, h, and_false, false_or]

/-- The segments that some changes of E ask for (R63). -/
def askedFor (c : Settings) (rises : List Rise) : List Nat :=
  ((rises.filter fun r => r.before < 4 && r.after == 4).map Rise.path).flatMap c.threatens

/-- The triggers of some paths are the asks for the segments they threaten. -/
theorem foldl_trigger {c : Settings} (ps : List Nat) {s : State} (hs : s.settings = c) :
    ps.foldl (fun s k => s.trigger k) s = (ps.flatMap c.threatens).foldl (fun s k => s.askClosure k) s := by
  induction ps generalizing s with
  | nil => rfl
  | cons p ps ih =>
    rw [List.foldl_cons, List.flatMap_cons, List.foldl_append,
      ih ((Reaction.settings (loose_trigger s p)).trans hs)]
    unfold State.trigger
    rw [hs]

/-- The Notice List after changes of E are handed on: that of the asks, from a reaction. -/
theorem handLevels_asks (s : State) (rises : List Rise) : ∃ u, Reaction s u ∧
    (s.handLevels rises).retained.notices =
      ((askedFor s.settings rises).foldl (fun s k => s.askClosure k) u).retained.notices := by
  cases rises with
  | nil => exact ⟨s, .refl s, rfl⟩
  | cons r rs =>
    have h : Reaction s ((s.reports ((r :: rs).map Rise.report)).handOver
        ((s.reports ((r :: rs).map Rise.report)).settings.threatenedBy ((r :: rs).map Rise.path))
        ((s.reports ((r :: rs).map Rise.report)).settings.announcing
          ((s.reports ((r :: rs).map Rise.report)).settings.threatenedBy ((r :: rs).map Rise.path)))) :=
      (reaction_reports s _).trans (reaction_handOver _ _ _)
    exact ⟨_, h, congrArg (fun t : State => t.retained.notices) (foldl_trigger _ h.settings)⟩

theorem mem_threatens {c : Settings} {j k : Nat} :
    k ∈ c.threatens j ↔ ∃ r, lookup c.paths j = some r ∧ (1 ≤ k ∧ k ≤ 8) ∧ k ∈ r.segments := by
  unfold Settings.threatens
  cases lookup c.paths j <;> simp [ascending]

/-- The segments a step asks for are those the statement says are triggered. -/
theorem mem_askedFor_step {w : StepWeather} {s t : State} {k : Nat}
    (hf : ∀ j r, lookup s.settings.paths j = some r → t.figures j = figuresAfter w r (s.figures j)) :
    k ∈ askedFor s.settings (stepRises w s) ↔ Triggered s t k := by
  have rise : ∀ j, (∃ x ∈ stepRises w s, (x.before < 4 ∧ x.after = 4) ∧ x.path = j) ↔
      ∃ r, lookup s.settings.paths j = some r ∧ (s.figures j).effective < 4 ∧ (t.figures j).effective = 4 := by
    intro j
    unfold stepRises
    simp only [List.mem_flatMap, Prod.exists, mem_entries]
    constructor
    · rintro ⟨x, ⟨i, r, hr, hx⟩, ⟨h1, h2⟩, rfl⟩
      unfold riseOf at hx
      split at hx
      · cases hx
      · obtain rfl := List.mem_singleton.mp hx
        exact ⟨r, hr, h1, by rw [hf i r hr]; exact h2⟩
    · rintro ⟨r, hr, h1, h2⟩
      rw [hf j r hr] at h2
      refine ⟨⟨j, (s.figures j).effective, (figuresAfter w r (s.figures j)).effective,
        (figuresAfter w r (s.figures j)).h⟩, ⟨j, r, hr, ?_⟩, ⟨h1, h2⟩, rfl⟩
      unfold riseOf
      rw [if_neg (by omega)]
      exact List.mem_singleton_self _
  unfold askedFor Triggered
  simp only [List.mem_flatMap, List.mem_map, List.mem_filter, Bool.and_eq_true, decide_eq_true_eq, beq_iff_eq,
    mem_threatens]
  constructor
  · rintro ⟨j, ⟨x, ⟨hx, hb⟩, rfl⟩, r, hr, ⟨h1, h2⟩, hk⟩
    obtain ⟨r', -, he⟩ := (rise x.path).mp ⟨x, hx, hb, rfl⟩
    exact ⟨h1, h2, x.path, r, hr, hk, he⟩
  · rintro ⟨h1, h2, j, r, hr, hk, he⟩
    obtain ⟨x, hx, hb, e⟩ := (rise j).mpr ⟨r, hr, he⟩
    exact ⟨j, ⟨x, ⟨hx, hb⟩, e⟩, r, hr, ⟨h1, h2⟩, hk⟩

/-! ## The step end (R23) -/

/-- The step closed and the channels empty. -/
def stepClosed (m : Moment) (s : State) : State := ((s.elapse m).closeStep s.stepRecord).emptyChannels

theorem frame_stepClosed (m : Moment) (s : State) :
    Frame [.moment, .memories, .weather, .channels] s (stepClosed m s) := by
  let remembered := (s.elapse m).withRetained { s.retained with
    lastTemp := s.memoryAfter
    prevSector := if s.stepRecord.sector.isSome then s.stepRecord.sector else s.retained.prevSector }
  have memories : Frame [.memories] (s.elapse m) remembered := frame_withMemories (s.elapse m) _ _
  have weather : Frame [.weather] remembered ((s.elapse m).closeStep s.stepRecord) := frame_withWeather remembered _
  have channels : Frame [.channels] ((s.elapse m).closeStep s.stepRecord) (stepClosed m s) := frame_withChannels _ _
  exact Frame.mono (Frame.trans (Frame.trans (Frame.trans (frame_elapse m s) memories) weather) channels) (by simp)

/-- The step reported and its figures taken. -/
def stepFigured (m : Moment) (s : State) : State :=
  figuresTaken (weatherOf s.stepRecord) ((stepClosed m s).report s.stepRecord.report)

theorem frame_stepFigured (m : Moment) (s : State) : Frame [.reports, .paths] (stepClosed m s) (stepFigured m s) :=
  Frame.mono (Frame.trans (frame_report (stepClosed m s) _) (frame_withPaths _ _)) (by simp)

/-- The changes of E of the ending step. -/
def risesOf (s : State) : List Rise := stepRises (weatherOf s.stepRecord) s

/-- The Notice List after the ending step. -/
def stepNotices (m : Moment) (s : State) : List Notice := ((stepFigured m s).handLevels (risesOf s)).retained.notices

/-- The state that the ending step's reactions follow. -/
def stepBase (m : Moment) (s : State) : State :=
  withReadouts s.stepRecord
    (((stepFigured m s).reports ((risesOf s).map Rise.report)).withNotices (stepNotices m s))

theorem frame_stepBase (m : Moment) (s : State) :
    Frame [.reports, .notices, .readouts] (stepFigured m s) (stepBase m s) :=
  Frame.mono (Frame.trans (Frame.trans (frame_reports (stepFigured m s) _) (frame_withNotices _ (stepNotices m s)))
    (frame_withReadouts _ s.stepRecord)) (by simp)

theorem endStep_eq (m : Moment) (s : State) : (s.elapse m).endStep =
    (withReadouts s.stepRecord ((stepFigured m s).handLevels (risesOf s))).recompose s.settings.weatherSigns := by
  have taken : ((stepClosed m s).report s.stepRecord.report).takeIndices s.stepRecord.entries =
      (stepFigured m s).handLevels (risesOf s) :=
    takeIndices_eq (weatherOf s.stepRecord) ((stepClosed m s).report s.stepRecord.report)
  have settings : (withReadouts s.stepRecord ((stepFigured m s).handLevels (risesOf s))).settings = s.settings :=
    (Reaction.settings (loose_handLevels (stepFigured m s) (risesOf s))).trans rfl
  have unfolded : (s.elapse m).endStep =
      (((stepClosed m s).report s.stepRecord.report).takeIndices s.stepRecord.entries).takeReadouts s.stepRecord := rfl
  rw [unfolded, taken, ← settings]
  rfl

theorem settles_endStep (m : Moment) (s : State) : Settles (stepBase m s) (s.elapse m).endStep := by
  rw [endStep_eq]
  exact (settles_withReadouts s.stepRecord (settles_handLevels (stepFigured m s) (risesOf s))).trans
    (settles_of_reaction (reaction_recompose _ _) (ripple_recompose _ _) (reach_recompose _ _))

/-- The step's reports stand first: STEP, then LEVEL in path order (R47, R61). -/
theorem stepBase_records (m : Moment) (s : State) : recordsOf (stepBase m s).line =
    recordsOf (s.reports (s.stepRecord.report :: (risesOf s).map Rise.report)).line := by
  have figured : recordsOf (stepFigured m s).line = recordsOf (s.report s.stepRecord.report).line :=
    reports_records [s.stepRecord.report] (stepClosed m s) s rfl rfl
  exact reports_records _ (stepFigured m s) (s.report s.stepRecord.report) figured rfl

theorem figures_stepFigured_some {m : Moment} {s : State} {k : Nat} {r : PathRecord}
    (hr : lookup s.settings.paths k = some r) :
    (stepFigured m s).figures k = figuresAfter (weatherOf s.stepRecord) r (s.figures k) :=
  figures_figuresTaken_some (s := (stepClosed m s).report s.stepRecord.report) hr

theorem figures_stepFigured_none {m : Moment} {s : State} {k : Nat} (hr : lookup s.settings.paths k = none) :
    (stepFigured m s).figures k = s.figures k :=
  figures_figuresTaken_none (s := (stepClosed m s).report s.stepRecord.report) hr

/-- The notices the ending step adds (R63, R82, R83). -/
theorem noticesGain_step {m : Moment} {s t : State} (hn : t.retained.notices = stepNotices m s)
    (hf : ∀ j r, lookup s.settings.paths j = some r →
      t.figures j = figuresAfter (weatherOf s.stepRecord) r (s.figures j)) : NoticesGain s t := by
  obtain ⟨u, hu, asks⟩ := handLevels_asks (stepFigured m s) (risesOf s)
  obtain ⟨added, hp, hnodup, hm⟩ := notices_of_asks (askedFor s.settings (risesOf s)) u
  have notices : u.retained.notices = s.retained.notices :=
    (congrArg Retained.notices hu.retained).trans rfl
  have clock : u.retained.clock = s.retained.clock :=
    (congrArg Retained.clock hu.retained).trans rfl
  have meets := askMeets_congr (hu.settings : u.settings = s.settings) hu.attended notices
  refine ⟨added, ?_, hnodup, fun n => (hm n).trans ?_⟩
  · have list : t.retained.notices = _ := hn.trans asks
    rw [list, ← notices]
    exact hp
  · constructor
    · rintro ⟨k, hk, e, ha⟩
      exact ⟨k, e.trans (autonomous_congr clock k), (mem_askedFor_step hf).mp hk, (meets k).mp ha⟩
    · rintro ⟨k, e, ht, ha⟩
      exact ⟨k, (mem_askedFor_step hf).mpr ht, e.trans (autonomous_congr clock k).symm, (meets k).mpr ha⟩

/-- The effect of STEP_END. -/
def stepEndEffect (s : State) : State := if s.weather.timer = Config.stepSeconds then s.endStep else s

/-- STEP_END takes the step: what follows the step's base. -/
theorem stepEnd_settles {m : Moment} {s : State} (hp : s.powered = true) (ht : s.weather.timer = 600) :
    ∃ t, exec (.stepEnd m) s = .next t ∧ Settles (stepBase m s) t := by
  have effect : stepEndEffect (s.elapse m) = (s.elapse m).endStep := if_pos ht
  obtain ⟨t, he, hfol, hout⟩ := event_reacts m stepEndEffect s hp
  rw [effect] at hfol hout
  exact ⟨t, he, (settles_endStep m s).trans ⟨hfol, hout⟩⟩

/-- Settles O9: the step's base in the statement's words, and what follows it. -/
theorem stepEndTakesStep : Obligations.StepEndTakesStep := by
  rintro m s hp ht hh x rfl w rfl
  obtain ⟨t, he, hfol, hout⟩ := stepEnd_settles (m := m) hp ht
  have fromBase : Frame (always ++ road) (stepBase m s) t :=
    frame_of_follows (Frame.refl _ _) hfol (fun _ h => h) (Or.inr hout)
  have fromFigured := Frame.trans (frame_stepBase m s) fromBase
  have fromClosed := Frame.trans (frame_stepFigured m s) fromFigured
  have toBase := Frame.trans (Frame.trans (frame_stepClosed m s) (frame_stepFigured m s)) (frame_stepBase m s)
  have paths : t.retained.paths = (stepFigured m s).retained.paths := fromFigured .paths (by decide)
  have figures : ∀ k, t.figures k = (stepFigured m s).figures k := fun k =>
    congrArg (fun v : Vector PathFigures 12 => (itemAt v k).getD ⟨0, 0, none⟩) paths
  have defined : ∀ k r, lookup s.settings.paths k = some r →
      t.figures k = figuresAfter (weatherOf s.stepRecord) r (s.figures k) :=
    fun k r hr => (figures k).trans (figures_stepFigured_some hr)
  obtain ⟨lastTemp, prevSector⟩ := fromClosed .memories (by decide)
  obtain ⟨temp, windOut⟩ := fromBase .readouts (by decide)
  have now : t.now = max s.now m := congrArg Still.now hfol.still |>.trans
    ((frame_stepBase m s .moment (by decide)).trans (frame_stepFigured m s .moment (by decide)))
  refine ⟨t, he, now, (fromClosed .weather (by decide)).trans ?_, lastTemp, prevSector, temp.trans (tempReadout_eq _ _),
    windOut, fun k c hc => ?_, rfl, rfl, stepRecord_hClamp s, ?_, defined,
    fun k hr => (figures k).trans (figures_stepFigured_none hr), ?_, noticesGain_step (fromBase .notices (by decide)) defined,
    ?_, ?_⟩
  · exact congrArg (WeatherUnit.mk 0 _ _) (addToHistory_eq s.stepRecord hh)
  · have channels : t.field.channels = s.field.channels.map ChannelTotals.emptied := fromClosed .channels (by decide)
    rw [channels, itemAt_map, hc]
    exact congrArg some (emptied_eq c)
  · rw [stepRecord_entries]
    exact List.map_congr_left fun y _ => pathEntry_eq s _ y
  · have clock : (stepBase m s).retained.clock = s.retained.clock := toBase .clock (by decide)
    rw [← stepRises_reports]
    exact reportedFirst_of_follows (stepBase_records m s) clock hfol
  · refine reacts_of_follows hfol (fun k _ => ?_) (fun k _ => ?_) (fun k _ => ?_) (fun x _ => ?_) (fun l _ _ _ => ?_)
      (fun k _ => ?_)
    · exact congrArg (lookup · k) (toBase .gates (by decide))
    · exact congrArg (lookup · k) (toBase .panels (by decide))
    · exact congrArg (lookup · k) (toBase .signs (by decide))
    · obtain ⟨ha, hb⟩ := toBase .transfers (by decide)
      cases x
      · exact ha
      · exact hb
    · exact congrArg (levelAt · l) (toBase .outputs (by decide))
    · exact congrArg (fun v => (lookup v k).isSome) (toBase .segments (by decide))
  · exact Frame.mono (Frame.trans toBase fromBase) (by decide)

end Sys2Proof.Proofs
end

section
/-! What an accepted request leaves of the inbound queue and the outbox: both are as they were (O51). -/

namespace Sys2Proof.Proofs

open Sys2Proof Sys2Proof.Machine Sys2Proof.Laws Sys2Proof.Claims

/-- Queue and outbox are as they were. -/
def LineStays (s t : State) : Prop := t.line.inbound = s.line.inbound ∧ t.line.outbox = s.line.outbox

theorem LineStays.refl (s : State) : LineStays s s := ⟨rfl, rfl⟩

theorem LineStays.trans {s t u : State} (h : LineStays s t) (k : LineStays t u) : LineStays s u :=
  ⟨k.1.trans h.1, k.2.trans h.2⟩

theorem lineStays_of_reaction {s t : State} (h : Reaction s t) : LineStays s t := ⟨h.inbound, h.outbox⟩

theorem lineStays_of_loose {s t : State} (h : LooseReaction s t) : LineStays s t := by
  have hr : Reaction (s.withNotices t.retained.notices) t := h
  have queue := hr.inbound
  have outbox := hr.outbox
  exact ⟨queue, outbox⟩

theorem LineStays.reacts {s t u : State} (h : LineStays s t) (k : Reaction t u) : LineStays s u :=
  h.trans (lineStays_of_reaction k)

/-! ## Clock, notices and paths -/

theorem lineStays_clockWalk (s : State) (now : Nat) : LineStays s (s.clockWalk now) := by
  refine LineStays.reacts ?_ (reaction_handTouched _ _)
  refine LineStays.reacts ?_ (reaction_reports _ _)
  exact ⟨rfl, rfl⟩

theorem lineStays_setClock (s : State) (new : Nat) : LineStays s (s.setClock new) := by
  have set : LineStays s { s.withClock (some new) with clockNext := s.now + usPerSecond } := ⟨rfl, rfl⟩
  unfold State.setClock
  dsimp only
  split
  · exact set.trans (lineStays_clockWalk _ _)
  · exact set

theorem lineStays_post (s : State) (n : Notice) : LineStays s (s.post n) := by
  refine LineStays.reacts ?_ (reaction_handTouched _ _)
  refine LineStays.reacts ?_ (reaction_reports _ _)
  exact ⟨rfl, rfl⟩

theorem lineStays_withdraw (s : State) (n : Notice) : LineStays s (s.withdraw n) := by
  refine LineStays.reacts ?_ (reaction_handTouched _ _)
  exact ⟨rfl, rfl⟩

theorem lineStays_handSegments (s : State) (ks : List Nat) : LineStays s (s.handSegments ks) := by
  unfold State.handSegments
  split
  · exact .refl s
  · exact lineStays_of_reaction (reaction_handOver _ _ _)

theorem lineStays_putPath (s : State) (k : Nat) (r : PathRecord) : LineStays s (s.putPath k r) := by
  refine LineStays.trans ?_ (lineStays_handSegments _ _)
  split
  · exact ⟨rfl, rfl⟩
  · exact ⟨rfl, rfl⟩

theorem lineStays_dropPath (s : State) (k : Nat) (r : PathRecord) : LineStays s (s.dropPath k r) := by
  refine LineStays.trans ?_ (lineStays_handSegments _ _)
  exact ⟨rfl, rfl⟩

theorem lineStays_postFloor (s : State) (k level duration : Nat) : LineStays s (s.postFloor k level duration) := by
  refine LineStays.trans ?_ (lineStays_of_loose (loose_handLevels _ _))
  exact ⟨rfl, rfl⟩

/-! ## Segments and gates -/

theorem lineStays_putSegment (s : State) (k : Nat) (r : SegmentRecord) : LineStays s (s.putSegment k r) := by
  unfold State.putSegment
  split
  · exact ⟨rfl, rfl⟩
  · refine LineStays.reacts ?_ (reaction_handOver _ _ _)
    exact ⟨rfl, rfl⟩

theorem lineStays_handGateRecord (old : Option GateRecord) (new : GateRecord) (s : State) :
    LineStays s (handGateRecord old new s) := by
  unfold handGateRecord
  split
  · exact lineStays_of_reaction (reaction_handOver _ _ _)
  · exact lineStays_of_reaction (reaction_handOver _ _ _)

theorem lineStays_putGate (s : State) (k : Nat) (r : GateRecord) : LineStays s (s.putGate k r) := by
  refine LineStays.trans ?_ (lineStays_handGateRecord _ _ _)
  refine LineStays.reacts ?_ (reaction_reports _ _)
  exact ⟨rfl, rfl⟩

theorem lineStays_dropGate (s : State) (k : Nat) (r : GateRecord) : LineStays s (s.dropGate k r) := by
  refine LineStays.reacts ?_ (reaction_handOver _ _ _)
  exact ⟨rfl, rfl⟩

/-! ## Signs, profiles, pages and texts -/

theorem lineStays_reportSign (s : State) (k : Nat) (e : SignEvent) : LineStays s (s.reportSign k e) := by
  unfold State.reportSign
  split
  · exact ⟨rfl, rfl⟩
  · exact .refl s

theorem lineStays_orphanOn (s : State) (x : StringId) (k : Nat) : LineStays s (s.orphanOn x k) := by
  unfold State.orphanOn
  split
  · exact .refl s
  · split
    · exact lineStays_of_reaction (reaction_withTransfer _ _ _)
    · exact .refl s

theorem lineStays_orphan (s : State) (k : Nat) : LineStays s (s.orphan k) :=
  (lineStays_orphanOn _ _ _).trans (lineStays_orphanOn _ _ _)

theorem lineStays_movePanel (s : State) (k : Nat) : LineStays s (s.movePanel k) := by
  have fresh : LineStays s ((s.orphan k).withPanel k (some PanelRecord.fresh)) :=
    (lineStays_orphan s k).trans ⟨rfl, rfl⟩
  refine LineStays.trans ?_ (lineStays_of_reaction (reaction_tellSign _ _))
  split
  · exact fresh.trans (lineStays_reportSign _ _ _)
  · exact fresh

theorem lineStays_putSign (s : State) (k : Nat) (r : SignRecord) : LineStays s (s.putSign k r) := by
  unfold State.putSign
  split
  · refine LineStays.reacts ?_ (reaction_handMarks _ _)
    have recomposed : ∀ c, LineStays s (((s.change (Settings.setSign k (some r))).withSign k c).recomposeSign k).1 :=
      fun c => LineStays.trans (t := (s.change (Settings.setSign k (some r))).withSign k c) ⟨rfl, rfl⟩
        (lineStays_of_reaction (reaction_recomposeSign _ _))
    dsimp only
    split
    · exact (recomposed _).trans (lineStays_movePanel _ _)
    · exact recomposed _
  · refine LineStays.reacts ?_ (reaction_handMarks _ [k])
    exact ⟨rfl, rfl⟩

theorem lineStays_dropSign (s : State) (k : Nat) : LineStays s (s.dropSign k) := by
  have told : LineStays s (if s.inFault k then s.reportSign k .removed else s) := by
    split
    · exact lineStays_reportSign _ _ _
    · exact .refl s
  exact (told.trans (lineStays_orphan _ k)).trans ⟨rfl, rfl⟩

theorem lineStays_putProfile (s : State) (k : Nat) (r : ProfileRecord) : LineStays s (s.putProfile k r) := by
  refine LineStays.reacts ?_ (reaction_recompose _ _)
  exact ⟨rfl, rfl⟩

theorem lineStays_changePages (f : SignRecord → SignState → SignState) (ks : List Nat) (s : State) :
    LineStays s (ks.foldl (State.changePages f) s) := by
  refine keep_foldl (P := LineStays s) (fun u k hu => hu.trans ?_) ks s (.refl s)
  unfold State.changePages
  split
  · exact ⟨rfl, rfl⟩
  · exact .refl u

theorem lineStays_loadTexts (s : State) (entry : Nat) (ts : List (List Code)) : LineStays s (s.loadTexts entry ts) := by
  refine LineStays.reacts ?_ (reaction_recompose _ _)
  exact ⟨rfl, rfl⟩

/-! ## The part as a whole -/

theorem lineStays_calibrate (s : State) (new : Calibration) : LineStays s (s.calibrate new) := ⟨rfl, rfl⟩

theorem lineStays_setLink (s : State) (limit : Nat) (auto : AutoClose) : LineStays s (s.setLink limit auto) := by
  unfold State.setLink State.checkSilence
  split
  · exact ⟨rfl, rfl⟩
  · exact ⟨rfl, rfl⟩

end Sys2Proof.Proofs
end

section
/-! The checks of the requests: a carried-out request answers by the first check that is not met. Notices, paths,
segments and gates (O51). -/

namespace Sys2Proof.Proofs

open Sys2Proof Sys2Proof.Machine Sys2Proof.Laws Sys2Proof.Claims

/-! ## Deciding by a list of checks -/

/-- What carrying a request out gives is decided by some checks: the refusal of the first that is not met, with nothing
changed; where all are met, a DONE answer that leaves queue and outbox to the reply. -/
def Decides (x : State × Answer) (s : State) (checks : List Condition) : Prop :=
  (∀ code sub, FirstUnmet checks (some (code, sub)) → x = (s, .refused code sub)) ∧
    (FirstUnmet checks none → ∃ u result, x = (u, .done result) ∧ LineStays s u)

theorem decides_unmet {s : State} {c : Condition} {checks : List Condition} (h : ¬ c.met) :
    Decides (s, .refused c.code c.sub) s (c :: checks) := by
  refine ⟨fun code sub hu => ?_, fun hu => ?_⟩
  · rcases hu with ⟨-, e⟩ | ⟨hm, -⟩
    · cases e
      rfl
    · exact absurd hm h
  · rcases hu with ⟨-, e⟩ | ⟨hm, -⟩
    · cases e
    · exact absurd hm h

theorem decides_met {x : State × Answer} {s : State} {c : Condition} {checks : List Condition} (h : c.met)
    (hr : Decides x s checks) : Decides x s (c :: checks) :=
  ⟨fun code sub hu => hr.1 code sub (hu.resolve_left fun hn => hn.1 h).2,
    fun hu => hr.2 (hu.resolve_left fun hn => hn.1 h).2⟩

theorem decides_done {s u : State} (result : List Byte) (h : LineStays s u) : Decides (accept result u) s [] :=
  ⟨fun _ _ hu => (by cases hu), fun _ => ⟨u, result, rfl, h⟩⟩

/-- A check that the model makes by a test. -/
theorem decides_if {p met : Prop} [Decidable p] {x : State × Answer} {s : State} {code : RefusalCode}
    {checks : List Condition} (h : p ↔ ¬ met) (hr : met → Decides x s checks) :
    Decides (if p then refuse code s else x) s (needs code met :: checks) := by
  by_cases hp : p
  · rw [if_pos hp]
    exact decides_unmet (h.mp hp)
  · rw [if_neg hp]
    have hm : met := not_not.mp fun hn => hp (h.mpr hn)
    exact decides_met hm (hr hm)

/-- A refusal code is that of the first check that is not met, or there is none. -/
def Finds (o : Option RefusalCode) (checks : List Condition) : Prop :=
  ∀ r, FirstUnmet checks r → r = o.map fun code => (code, SubReason.noReason)

theorem finds_nil : Finds none [] := fun _ h => h

theorem finds_if {p met : Prop} [Decidable p] {o : Option RefusalCode} {code : RefusalCode} {checks : List Condition}
    (h : p ↔ ¬ met) (hr : Finds o checks) : Finds (if p then some code else o) (needs code met :: checks) := by
  rintro r (⟨hn, e⟩ | ⟨hm, hu⟩)
  · rw [if_pos (h.mpr hn)]
    exact e
  · rw [if_neg fun hp => h.mp hp hm]
    exact hr r hu

/-- Checks made one after the other, before anything else. -/
theorem decides_finds {o : Option RefusalCode} {checks : List Condition} {x : State × Answer} {s : State}
    (hf : Finds o checks) (hs : ∀ code, o = some code → x = refuse code s)
    (hn : o = none → ∃ u result, x = accept result u ∧ LineStays s u) : Decides x s checks := by
  refine ⟨fun code sub hu => ?_, fun hu => hn ?_⟩
  · obtain ⟨c, hc, e⟩ := Option.map_eq_some_iff.mp (hf _ hu).symm
    cases e
    exact hs _ hc
  · exact Option.map_eq_none_iff.mp (hf _ hu).symm

/-- A test that fails, as a check that is met. -/
theorem not_iff_of {b : Bool} {p : Prop} (h : b = true ↔ p) : (!b) = true ↔ ¬ p := by
  rw [Bool.not_eq_true', ← h, Bool.not_eq_true]

theorem iff_not_of {b : Bool} {p : Prop} (h : b = false ↔ p) : b = true ↔ ¬ p := by
  rw [← h, Bool.not_eq_false]

theorem all_defined_iff {α : Type} {n : Nat} (table : Vector (Option α) n) (ks : List Nat) :
    (ks.all fun k => (lookup table k).isSome) = true ↔ AllDefined table ks := List.all_eq_true

theorem isNone_iff_not {α : Type} (o : Option α) : o.isNone = true ↔ ¬ o.isSome = true := by
  cases o <;> simp

/-! ## Requests that name one item, and removals -/

theorem decides_queryItem {α : Type} {n : Nat} (f : List Byte) (table : Vector (Option α) n)
    (reply : Nat → α → List Byte) (s : State) : Decides (queryItem f table reply s) s (itemConditions f table) := by
  unfold queryItem itemConditions
  refine decides_if Iff.rfl fun _ => decides_if (not_iff_of (within_iff _ _ _)) fun _ => ?_
  cases h : lookup table (byteAt f 0) with
  | none => exact decides_unmet (by simp)
  | some r => exact decides_met rfl (decides_done _ (.refl s))

/-- Which rows a REMOVE ITEM frame belongs to (log entry 6). -/
theorem removalIsFor_iff (item : Nat) (f : List Byte) : removalIsFor item f = true ↔
    ¬ (f.length = 2 ∧ 1 ≤ byteAt f 0 ∧ byteAt f 0 ≤ 6 ∧ byteAt f 0 ≠ item) := by
  unfold removalIsFor
  simp only [Bool.or_eq_true, bne_iff_ne, beq_iff_eq, Bool.not_eq_true', Bool.and_eq_false_iff, decide_eq_false_iff_not]
  tauto

/-- A row of REMOVE ITEM, with the owning block's own checks. -/
theorem decides_removal {α : Type} {n : Nat} {f : List Byte} {table : Vector (Option α) n} {s : State}
    {g : Nat → State → State × Answer} {more : Nat → List Condition} (h : Nat → α → State → State × Answer)
    (hg : ∀ k, g k s = removeItem k table (h k) s)
    (hd : ∀ k r, lookup table k = some r → Decides (h k r s) s (more k)) :
    Decides (carryRemoval f g s) s ([needs .malformed (f.length = 2),
      needs .range (1 ≤ byteAt f 0 ∧ byteAt f 0 ≤ 6), needs .range (1 ≤ byteAt f 1 ∧ byteAt f 1 ≤ n),
      needs .unknownItem ((lookup table (byteAt f 1)).isSome = true)] ++ more (byteAt f 1)) := by
  unfold carryRemoval
  refine decides_if Iff.rfl fun _ => decides_if (by omega) fun _ => ?_
  rw [hg]
  unfold removeItem
  refine decides_if (not_iff_of (within_iff _ _ _)) fun _ => ?_
  cases hr : lookup table (byteAt f 1) with
  | none => exact decides_unmet (by simp)
  | some r => exact decides_met rfl (hd _ r hr)

/-! ## Clock and notices (R69, R73, R78, R85) -/

theorem decides_timeSet (f : List Byte) (s : State) : Decides (carryTimeSet f s) s
    [needs .malformed (f.length = 4), needs .range (longAt f 0 ≤ 4294967294)] := by
  unfold carryTimeSet
  exact decides_if Iff.rfl fun _ => decides_if Nat.not_le.symm fun _ => decides_done _ (lineStays_setClock _ _)

theorem noticeKind_iff (n : Nat) : (NoticeKind.ofCode n).isSome = true ↔ n ≤ 2 := by
  match n with
  | 0 | 1 | 2 => decide
  | n + 3 => simp [NoticeKind.ofCode]

theorem reason_iff (n : Nat) : (Reason.ofCode n).isSome = true ↔ n ≤ 6 := by
  match n with
  | 0 | 1 | 2 | 3 | 4 | 5 | 6 => decide
  | n + 7 => simp [Reason.ofCode]

theorem timeFits_iff (t : Option Nat) : timeFits t = true ↔ ∀ a, t = some a → a ≤ 4294967294 := by
  cases t with
  | none => simp [timeFits]
  | some a => exact decide_eq_true_iff.trans ⟨fun h b e => Option.some.inj e ▸ h, fun h => h a rfl⟩

theorem endsLate_iff (p : PostedNotice) (now : Option Nat) : endsLate p now = true ↔
    (∀ a e, p.startTime = some a → p.endTime = some e → a < e) ∧
      ∀ c e, now = some c → p.endTime = some e → c < e := by
  unfold endsLate
  cases p.endTime with
  | none => simp
  | some e => cases p.startTime <;> cases now <;> simp

theorem postInRange_iff (s : State) (p : PostedNotice) :
    p.inRange s.settings s.retained.clock = true ↔ PostInRange s p := by
  unfold PostedNotice.inRange PostInRange
  simp only [Bool.and_eq_true, within_iff, noticeKind_iff, reason_iff, timeFits_iff, endsLate_iff, List.all_eq_true,
    distinct, decide_eq_true_eq, and_assoc]

theorem finds_post (s : State) (p : PostedNotice) : Finds (s.postRefusal p)
    [needs .noClock (PostTimed s p), needs .range (PostInRange s p), needs .full (PostRoom s p)] := by
  unfold State.postRefusal
  refine finds_if ?_ (finds_if (not_iff_of (postInRange_iff s p)) (finds_if ?_ finds_nil))
  · unfold PostTimed
    cases s.retained.clock <;> cases p.startTime <;> cases p.endTime <;> simp
  · have size : Config.stationNotices = 24 := rfl
    unfold PostRoom
    rw [size]
    cases findNotice p.number s.retained.notices <;> simp

theorem decides_noticePost (f : List Byte) (s : State) : Decides (carryNoticePost f s) s
    [needs .malformed (postedOf f ≠ none), needs .noClock (∀ p, postedOf f = some p → PostTimed s p),
      needs .range (∀ p, postedOf f = some p → PostInRange s p),
      needs .full (∀ p, postedOf f = some p → PostRoom s p)] := by
  unfold carryNoticePost
  cases hp : postedOf f with
  | none => exact decides_unmet (by simp)
  | some p =>
    simp only [Option.some.injEq, forall_eq']
    refine decides_met (by simp) (decides_finds (finds_post s p) (fun code h => ?_) fun h => ?_)
    · rw [h]
    · rw [h]
      exact ⟨_, _, rfl, lineStays_post _ _⟩

theorem decides_noticeWithdraw (f : List Byte) (s : State) : Decides (carryNoticeWithdraw f s) s
    [needs .malformed (f.length = 2),
      needs .unknownItem (findNotice (wordAt f 0) s.retained.notices ≠ none)] := by
  unfold carryNoticeWithdraw
  refine decides_if Iff.rfl fun _ => ?_
  cases findNotice (wordAt f 0) s.retained.notices with
  | none => exact decides_unmet (by simp)
  | some n => exact decides_met (by simp) (decides_done _ (lineStays_withdraw s n))

theorem decides_queryNotices (f : List Byte) (s : State) : Decides (carryQueryNotices f s) s
    [needs .malformed (f.length = 1), needs .range (1 ≤ byteAt f 0 ∧ byteAt f 0 ≤ 32)] := by
  unfold carryQueryNotices
  exact decides_if Iff.rfl fun _ => decides_if (not_iff_of (within_iff _ _ _)) fun _ => decides_done _ (.refl s)

/-! ## Paths (R50, R53, R58) -/

theorem pathInRange_iff (k count : Nat) (r : PathRecord) : (within 1 12 k && within 1 4 count && r.inRange) = true ↔
    PathInRange k r ∧ 1 ≤ count ∧ count ≤ 4 := by
  unfold PathRecord.inRange PathInRange
  simp only [Bool.and_eq_true, within_iff, allWithin, List.all_eq_true, decide_eq_true_eq, distinct,
    List.forall_mem_cons, List.not_mem_nil]
  grind

theorem finds_path (c : Settings) (f : List Byte) : Finds (pathRefusal c f) [needs .malformed (f.length = 22),
    needs .range (PathInRange (byteAt f 0) (pathOf f) ∧ 1 ≤ byteAt f 17 ∧ byteAt f 17 ≤ 4),
    needs .unknownItem (AllDefined c.segments (pathOf f).segments)] := by
  unfold pathRefusal
  exact finds_if Iff.rfl (finds_if (not_iff_of (pathInRange_iff _ _ _))
    (finds_if (not_iff_of (all_defined_iff _ _)) finds_nil))

theorem decides_definePath (f : List Byte) (s : State) : Decides (carryDefinePath f s) s
    [needs .malformed (f.length = 22),
      needs .range (PathInRange (byteAt f 0) (pathOf f) ∧ 1 ≤ byteAt f 17 ∧ byteAt f 17 ≤ 4),
      needs .unknownItem (AllDefined s.settings.segments (pathOf f).segments)] := by
  refine decides_finds (finds_path s.settings f) (fun code h => ?_) fun h => ?_
  · unfold carryDefinePath
    rw [h]
  · unfold carryDefinePath
    rw [h]
    exact ⟨_, _, rfl, lineStays_putPath _ _ _⟩

theorem finds_floor (c : Settings) (f : List Byte) : Finds (floorRefusal c f) [needs .malformed (f.length = 3),
    needs .range (1 ≤ byteAt f 0 ∧ byteAt f 0 ≤ 12 ∧ byteAt f 1 ≤ 4 ∧
      (byteAt f 1 = 0 ∨ (1 ≤ byteAt f 2 ∧ byteAt f 2 ≤ 144))),
    needs .unknownItem ((lookup c.paths (byteAt f 0)).isSome = true)] := by
  unfold floorRefusal
  refine finds_if Iff.rfl (finds_if (not_iff_of ?_) (finds_if (isNone_iff_not _) finds_nil))
  simp only [Bool.and_eq_true, Bool.or_eq_true, within_iff, beq_iff_eq, Nat.zero_le, true_and, and_assoc]

theorem decides_pathFloor (f : List Byte) (s : State) : Decides (carryPathFloor f s) s
    [needs .malformed (f.length = 3),
      needs .range (1 ≤ byteAt f 0 ∧ byteAt f 0 ≤ 12 ∧ byteAt f 1 ≤ 4 ∧
        (byteAt f 1 = 0 ∨ (1 ≤ byteAt f 2 ∧ byteAt f 2 ≤ 144))),
      needs .unknownItem ((lookup s.settings.paths (byteAt f 0)).isSome = true)] := by
  refine decides_finds (finds_floor s.settings f) (fun code h => ?_) fun h => ?_
  · unfold carryPathFloor
    rw [h]
  · unfold carryPathFloor
    rw [h]
    exact ⟨_, _, rfl, lineStays_postFloor _ _ _ _⟩

/-! ## Segments (R99, R102) -/

theorem finds_segment (f : List Byte) : Finds (segmentRefusal f) [needs .malformed (f.length = 4),
    needs .range (1 ≤ byteAt f 0 ∧ byteAt f 0 ≤ 8 ∧ 1 ≤ byteAt f 2 ∧ byteAt f 2 ≤ byteAt f 3 ∧ byteAt f 3 ≤ 4)] := by
  unfold segmentRefusal
  refine finds_if Iff.rfl (finds_if (not_iff_of ?_) finds_nil)
  unfold SegmentRecord.inRange segmentOf
  simp only [Bool.and_eq_true, within_iff, decide_eq_true_eq]
  omega

theorem decides_defineSegment (f : List Byte) (s : State) : Decides (carryDefineSegment f s) s
    [needs .malformed (f.length = 4), needs .range (1 ≤ byteAt f 0 ∧ byteAt f 0 ≤ 8 ∧ 1 ≤ byteAt f 2 ∧
      byteAt f 2 ≤ byteAt f 3 ∧ byteAt f 3 ≤ 4)] := by
  refine decides_finds (finds_segment f) (fun code h => ?_) fun h => ?_
  · unfold carryDefineSegment
    rw [h]
  · unfold carryDefineSegment
    rw [h]
    exact ⟨_, _, rfl, lineStays_putSegment _ _ _⟩

/-- No record refers to a segment. -/
theorem segmentNamed_eq_false (s : State) (k : Nat) : s.segmentNamed k = false ↔
    (∀ j q, lookup s.settings.paths j = some q → k ∉ q.segments) ∧
      (∀ j q, lookup s.settings.gates j = some q → q.segment ≠ k) ∧
      (∀ j q, lookup s.settings.signs j = some q → k ∉ q.segments) ∧ ∀ n ∈ s.retained.notices, k ∉ n.segments := by
  unfold State.segmentNamed
  simp only [Bool.or_eq_false_iff, any_eq_false_iff, Prod.forall, mem_entries, List.contains_eq_mem,
    decide_eq_false_iff_not, beq_eq_false_iff_ne, and_assoc]

/-! ## Gates (R106, R108, R129, R130) -/

theorem gateInMotion_iff (s : State) (k : Nat) : s.gateInMotion k = true ↔ ¬ GateStill s k := by
  unfold State.gateInMotion GateStill
  cases s.gate k with
  | none => simp
  | some g =>
    simp only [inMotion_iff, Option.some.injEq, forall_eq']
    rw [not_and_or, not_not, not_forall]
    simp only [not_not]

theorem gateInRange_iff (k count : Nat) (r : GateRecord) : (within 1 8 k && within 1 3 count && r.inRange) = true ↔
    GateInRange k r ∧ 1 ≤ count ∧ count ≤ 3 := by
  unfold GateRecord.inRange GateInRange
  simp only [Bool.and_eq_true, within_iff, allWithin, List.all_eq_true, decide_eq_true_eq, distinct,
    List.forall_mem_cons, List.not_mem_nil]
  grind

theorem gateNames_iff (c : Settings) (r : GateRecord) : ((lookup c.segments r.segment).isNone ||
    !(r.approach.all fun k => (lookup c.signs k).isSome)) = true ↔ ¬ GateNamesDefined c r := by
  rw [Bool.or_eq_true, isNone_iff_not, not_iff_of List.all_eq_true, ← not_and_or]
  rfl

theorem approachAnnounces_iff (c : Settings) (r : GateRecord) :
    (r.approach.all fun k => c.signAnnounces k r.segment) = true ↔ ApproachAnnounces c r := by
  rw [List.all_eq_true]
  refine forall₂_congr fun x _ => ?_
  unfold Settings.signAnnounces
  cases lookup c.signs x <;> simp

theorem finds_gate (s : State) (f : List Byte) {still : Prop}
    (h : ((lookup s.settings.gates (byteAt f 0)).isSome && s.gateInMotion (byteAt f 0)) = true ↔ ¬ still) :
    Finds (s.gateRefusal f) [needs .malformed (f.length = 17),
      needs .range (GateInRange (byteAt f 0) (gateOf f) ∧ 1 ≤ byteAt f 13 ∧ byteAt f 13 ≤ 3),
      needs .unknownItem (GateNamesDefined s.settings (gateOf f)),
      needs .range (ApproachAnnounces s.settings (gateOf f)),
      needs .conflict (GateLinesFree s.settings (byteAt f 0) (gateOf f)), needs .inMotion still] := by
  unfold State.gateRefusal
  exact finds_if Iff.rfl (finds_if (not_iff_of (gateInRange_iff _ _ _)) (finds_if (gateNames_iff _ _)
    (finds_if (not_iff_of (approachAnnounces_iff _ _)) (finds_if (iff_not_of lineConflict_eq_false)
      (finds_if h finds_nil)))))

theorem decides_defineGate (f : List Byte) (s : State) {still : Prop}
    (h : ((lookup s.settings.gates (byteAt f 0)).isSome && s.gateInMotion (byteAt f 0)) = true ↔ ¬ still) :
    Decides (carryDefineGate f s) s [needs .malformed (f.length = 17),
      needs .range (GateInRange (byteAt f 0) (gateOf f) ∧ 1 ≤ byteAt f 13 ∧ byteAt f 13 ≤ 3),
      needs .unknownItem (GateNamesDefined s.settings (gateOf f)),
      needs .range (ApproachAnnounces s.settings (gateOf f)),
      needs .conflict (GateLinesFree s.settings (byteAt f 0) (gateOf f)), needs .inMotion still] := by
  refine decides_finds (finds_gate s f h) (fun code h => ?_) fun h => ?_
  · unfold carryDefineGate
    rw [h]
  · unfold carryDefineGate
    rw [h]
    exact ⟨_, _, rfl, lineStays_putGate _ _ _⟩

/-- A gate that moves has a record. -/
theorem definedInMotion_iff {s : State} (hw : s.GatesWhole) (k : Nat) :
    ((lookup s.settings.gates k).isSome && s.gateInMotion k) = true ↔ ¬ GateStill s k := by
  rw [← gateInMotion_iff, Bool.and_eq_true, and_iff_right_iff_imp, ← hw k]
  unfold State.gateInMotion
  cases s.gate k <;> simp

/-- A request of a gate number, with the checks that follow its record. -/
theorem decides_gateRequest {f : List Byte} {act : Nat → GateRecord → GateState → State → State × Answer} {s : State}
    {known : Prop} {more : List Condition}
    (hk : known ↔ (lookup s.settings.gates (byteAt f 0)).isSome = true ∧ (s.gate (byteAt f 0)).isSome = true)
    (hd : ∀ r g, lookup s.settings.gates (byteAt f 0) = some r → s.gate (byteAt f 0) = some g →
      Decides (act (byteAt f 0) r g s) s more) :
    Decides (gateRequest f act s) s ([needs .malformed (f.length = 1), needs .range (1 ≤ byteAt f 0 ∧ byteAt f 0 ≤ 8),
      needs .unknownItem known] ++ more) := by
  unfold gateRequest
  refine decides_if Iff.rfl fun _ => decides_if (not_iff_of (within_iff _ _ _)) fun _ => ?_
  cases hr : lookup s.settings.gates (byteAt f 0) with
  | none => exact decides_unmet (by simp [hk, hr])
  | some r =>
    cases hg : s.gate (byteAt f 0) with
    | none => exact decides_unmet (by simp [hk, hg])
    | some g => exact decides_met (hk.mpr (by simp [hr, hg])) (hd r g hr hg)

theorem known_of_whole {s : State} (hw : s.GatesWhole) (k : Nat) : (lookup s.settings.gates k).isSome = true ↔
    (lookup s.settings.gates k).isSome = true ∧ (s.gate k).isSome = true := by
  rw [hw k, and_self]

/-- A check of a record that is there. -/
theorem forall_some_iff {α : Type} {o : Option α} {a : α} {p : α → Prop} (h : o = some a) :
    (∀ x, o = some x → p x) ↔ p a :=
  ⟨fun hx => hx a h, fun ha _ hx => Option.some.inj (h.symm.trans hx) ▸ ha⟩

/-- Hmax of a segment is below its permit level. -/
theorem hazardBlocks_iff (s : State) (k : Nat) : s.hazardBlocks k = true ↔
    ¬ ∀ q d, lookup s.settings.segments k = some q → lookup s.segments k = some d → d.hmax < q.permit := by
  unfold State.hazardBlocks
  cases lookup s.settings.segments k <;> cases lookup s.segments k <;> simp

theorem decides_gateRaise {f : List Byte} {s : State} {known : Prop}
    (hk : known ↔ (lookup s.settings.gates (byteAt f 0)).isSome = true ∧ (s.gate (byteAt f 0)).isSome = true) :
    Decides (carryGateRaise f s) s ([needs .malformed (f.length = 1), needs .range (1 ≤ byteAt f 0 ∧ byteAt f 0 ≤ 8),
      needs .unknownItem known] ++
      [needs .wrongState (∀ g, s.gate (byteAt f 0) = some g → g.position = .down),
        ⟨∀ r, lookup s.settings.gates (byteAt f 0) = some r → s.cif r.segment = false, .interlock, .closure⟩,
        ⟨∀ r q d, lookup s.settings.gates (byteAt f 0) = some r → lookup s.settings.segments r.segment = some q →
          lookup s.segments r.segment = some d → d.hmax < q.permit, .interlock, .hazard⟩]) := by
  refine decides_gateRequest hk fun r g hr hg => ?_
  unfold raiseGate
  refine decides_if (not_congr (forall_some_iff (p := fun g : GateState => g.position = .down) hg).symm) fun _ => ?_
  cases hc : s.cif r.segment with
  | true => exact decides_unmet (c := ⟨_, .interlock, .closure⟩) (by simp [forall_some_iff hr, hc])
  | false =>
    refine decides_met ((forall_some_iff hr).mpr hc) ?_
    have hazard := hazardBlocks_iff s r.segment
    cases hb : s.hazardBlocks r.segment with
    | true =>
      refine decides_unmet (c := ⟨_, .interlock, .hazard⟩) fun hm => hazard.mp hb fun q d => hm r q d hr
    | false =>
      refine decides_met (fun r' q d hr' => ?_) (decides_done _ (lineStays_of_reaction (reaction_changeGate _ _ _ _)))
      obtain rfl := Option.some.inj (hr.symm.trans hr')
      exact not_not.mp (hazard.not.mp (by simp [hb])) q d

theorem isStopped_iff (p : GatePosition) : p.isStopped = true ↔ ∃ cause, p = .stopped cause := by
  cases p <;> simp [GatePosition.isStopped]

theorem decides_gateClear {f : List Byte} {s : State} {known : Prop}
    (hk : known ↔ (lookup s.settings.gates (byteAt f 0)).isSome = true ∧ (s.gate (byteAt f 0)).isSome = true) :
    Decides (carryGateClear f s) s ([needs .malformed (f.length = 1), needs .range (1 ≤ byteAt f 0 ∧ byteAt f 0 ≤ 8),
      needs .unknownItem known] ++
      [needs .wrongState (∀ g, s.gate (byteAt f 0) = some g → ∃ cause, g.position = .stopped cause)]) := by
  refine decides_gateRequest hk fun r g hr hg => ?_
  unfold clearGate
  have stopped := forall_some_iff (p := fun g : GateState => ∃ cause, g.position = .stopped cause) hg
  exact decides_if (not_iff_of ((isStopped_iff _).trans stopped.symm))
    fun _ => decides_done _ (lineStays_of_reaction (reaction_changeGate _ _ _ _))

end Sys2Proof.Proofs
end

section
/-! The checks of the requests of signs and of the part as a whole (O51). -/

namespace Sys2Proof.Proofs

open Sys2Proof Sys2Proof.Machine Sys2Proof.Laws Sys2Proof.Claims

/-! ## Signs (R135, R137) -/

theorem signInRange_iff (k : Nat) (r : SignRecord) : (within 1 16 k && r.inRange) = true ↔ SignInRange k r := by
  unfold SignRecord.inRange SignInRange
  simp only [Bool.and_eq_true, within_iff, allWithin, List.all_eq_true, decide_eq_true_eq, distinct]
  grind

theorem signNames_iff (c : Settings) (r : SignRecord) : ((lookup c.profiles r.profile).isNone ||
    !(r.segments.all fun k => (lookup c.segments k).isSome)) = true ↔ ¬ SignNamesDefined c r := by
  rw [Bool.or_eq_true, isNone_iff_not, not_iff_of (all_defined_iff _ _), ← not_and_or]
  rfl

theorem signFree_iff (c : Settings) (k : Nat) (r : SignRecord) :
    (c.addressTaken k r || c.dropsGuarded k r) = false ↔ SignFree c k r := by
  unfold Settings.addressTaken Settings.dropsGuarded SignFree
  simp only [Bool.or_eq_false_iff, any_eq_false_iff, Prod.forall, mem_entries, Bool.and_eq_false_iff,
    bne_eq_false_iff_eq, beq_eq_false_iff_ne, Bool.not_eq_false', List.contains_eq_mem, decide_eq_false_iff_not,
    decide_eq_true_eq]
  grind

theorem decides_defineSign (f : List Byte) (s : State) : Decides (carryDefineSign f s) s
    [needs .malformed (8 ≤ f.length ∧ f.length = 8 + byteAt f 7),
      needs .range (∃ r, signOf f = some r ∧ SignInRange (byteAt f 0) r),
      needs .unknownItem (∀ r, signOf f = some r → SignNamesDefined s.settings r),
      needs .conflict (∀ r, signOf f = some r → SignFree s.settings (byteAt f 0) r)] := by
  have size : (f.length < 8 || f.length ≠ 8 + byteAt f 7) = true ↔ ¬ (8 ≤ f.length ∧ f.length = 8 + byteAt f 7) := by
    simp only [Bool.or_eq_true, decide_eq_true_eq]
    omega
  unfold carryDefineSign checkSign
  by_cases hl : (f.length < 8 || f.length ≠ 8 + byteAt f 7) = true
  · rw [if_pos hl]
    exact decides_unmet (size.mp hl)
  rw [if_neg hl]
  refine decides_met (not_not.mp (size.not.mp hl)) ?_
  cases hr : signOf f with
  | none => exact decides_unmet (by simp)
  | some r =>
    simp only [Option.some.injEq, exists_eq_left', forall_eq']
    by_cases h1 : (!(within 1 16 (byteAt f 0) && r.inRange)) = true
    · rw [if_pos h1]
      exact decides_unmet ((not_iff_of (signInRange_iff _ _)).mp h1)
    rw [if_neg h1]
    refine decides_met (not_not.mp ((not_iff_of (signInRange_iff _ _)).not.mp h1)) ?_
    by_cases h2 : ((lookup s.settings.profiles r.profile).isNone ||
        !(r.segments.all fun k => (lookup s.settings.segments k).isSome)) = true
    · rw [if_pos h2]
      exact decides_unmet ((signNames_iff _ _).mp h2)
    rw [if_neg h2]
    refine decides_met (not_not.mp ((signNames_iff _ _).not.mp h2)) ?_
    by_cases h3 : (s.settings.addressTaken (byteAt f 0) r || s.settings.dropsGuarded (byteAt f 0) r) = true
    · rw [if_pos h3]
      exact decides_unmet ((iff_not_of (signFree_iff _ _ _)).mp h3)
    rw [if_neg h3]
    exact decides_met (not_not.mp ((iff_not_of (signFree_iff _ _ _)).not.mp h3)) (decides_done _ (lineStays_putSign _ _ _))

theorem isEmpty_iff_forall {α : Type} {l : List α} : l.isEmpty = true ↔ ∀ x, x ∉ l := by
  rw [List.isEmpty_iff, List.eq_nil_iff_forall_not_mem]

/-- The gates that name a sign as an approach sign. -/
theorem mem_approached {c : Settings} {j k : Nat} :
    j ∈ c.approached k ↔ ∃ q, lookup c.gates j = some q ∧ k ∈ q.approach := by
  unfold Settings.approached
  rw [List.mem_filter, mem_numbers]
  cases hq : lookup c.gates j with
  | none => simp
  | some q => simp [lookup_bounds _ hq]

theorem approached_isEmpty_iff (c : Settings) (k : Nat) :
    (c.approached k).isEmpty = true ↔ ∀ j q, lookup c.gates j = some q → k ∉ q.approach := by
  simp only [isEmpty_iff_forall, mem_approached, not_exists, not_and]

/-- The signs that follow a profile. -/
theorem mem_following {c : Settings} {j k : Nat} :
    j ∈ c.following k ↔ ∃ q, lookup c.signs j = some q ∧ q.profile = k := by
  unfold Settings.following
  rw [List.mem_filter, mem_numbers]
  cases hq : lookup c.signs j with
  | none => simp
  | some q => simp [lookup_bounds _ hq]

theorem following_isEmpty_iff (c : Settings) (k : Nat) :
    (c.following k).isEmpty = true ↔ ∀ j q, lookup c.signs j = some q → q.profile ≠ k := by
  simp only [isEmpty_iff_forall, mem_following, not_exists, not_and, ne_eq]

/-! ## Profiles and groups (R138 to R140) -/

theorem switch_iff (n : Nat) : (switchOfCode n).isSome = true ↔ n ≤ 1 := by
  match n with
  | 0 | 1 => decide
  | n + 2 => simp [switchOfCode]

theorem readoutForm_iff (n : Nat) : (ReadoutForm.ofCode n).isSome = true ↔ 1 ≤ n ∧ n ≤ 3 := by
  match n with
  | 0 | 1 | 2 | 3 => decide
  | n + 4 => simp [ReadoutForm.ofCode]

theorem closureStyle_iff (n : Nat) : (ClosureStyle.ofCode n).isSome = true ↔ 1 ≤ n ∧ n ≤ 2 := by
  match n with
  | 0 | 1 | 2 => decide
  | n + 3 => simp [ClosureStyle.ofCode]

/-- A profile body gives a record where every field is one of its values. -/
theorem profileOf_isSome (f : List Byte) : (profileOf f).isSome = true ↔ byteAt f 1 ≤ 1 ∧
    (1 ≤ byteAt f 2 ∧ byteAt f 2 ≤ 4) ∧ byteAt f 3 ≤ 1 ∧ byteAt f 4 ≤ 1 ∧ byteAt f 5 ≤ 1 ∧
    (1 ≤ byteAt f 6 ∧ byteAt f 6 ≤ 3) ∧ 1 ≤ byteAt f 7 ∧ byteAt f 7 ≤ 2 := by
  rw [← switch_iff (byteAt f 1), ← switch_iff (byteAt f 3), ← switch_iff (byteAt f 4), ← switch_iff (byteAt f 5),
    ← readoutForm_iff, ← closureStyle_iff, ← within_iff]
  unfold profileOf
  split
  · rename_i e1 e2 e3 e4 e5 e6
    rw [e1, e2, e3, e4, e5, e6]
    split <;> simp [*]
  · rename_i missing
    refine iff_of_false Bool.false_ne_true ?_
    simp only [Option.isSome_iff_exists]
    rintro ⟨⟨a, e1⟩, -, ⟨b, e2⟩, ⟨c, e3⟩, ⟨d, e4⟩, ⟨e, e5⟩, g, e6⟩
    exact missing a b c d e g e1 e2 e3 e4 e5 e6

theorem decides_defineProfile (f : List Byte) (s : State) : Decides (carryDefineProfile f s) s
    [needs .malformed (f.length = 8),
      needs .range (1 ≤ byteAt f 0 ∧ byteAt f 0 ≤ 8 ∧ byteAt f 1 ≤ 1 ∧ 1 ≤ byteAt f 2 ∧ byteAt f 2 ≤ 4 ∧
        byteAt f 3 ≤ 1 ∧ byteAt f 4 ≤ 1 ∧ byteAt f 5 ≤ 1 ∧ 1 ≤ byteAt f 6 ∧ byteAt f 6 ≤ 3 ∧ 1 ≤ byteAt f 7 ∧
        byteAt f 7 ≤ 2)] := by
  have fields := profileOf_isSome f
  unfold carryDefineProfile
  refine decides_if Iff.rfl fun _ => ?_
  by_cases hk : (!within 1 8 (byteAt f 0)) = true
  · rw [if_pos hk]
    have outside := (not_iff_of (within_iff _ _ _)).mp hk
    exact decides_unmet fun h => outside ⟨h.1, h.2.1⟩
  rw [if_neg hk]
  have inside := not_not.mp ((not_iff_of (within_iff _ _ _)).not.mp hk)
  cases hr : profileOf f with
  | none =>
    rw [hr] at fields
    refine decides_unmet fun h => ?_
    obtain ⟨-, -, h1, h2, h3, h4, h5, h6, h7, h8, h9⟩ := h
    exact Bool.false_ne_true (fields.mpr ⟨h1, ⟨h2, h3⟩, h4, h5, h6, ⟨h7, h8⟩, h9⟩)
  | some r =>
    rw [hr] at fields
    obtain ⟨h1, ⟨h2, h3⟩, h4, h5, h6, ⟨h7, h8⟩, h9⟩ := fields.mp rfl
    exact decides_met ⟨inside.1, inside.2, h1, h2, h3, h4, h5, h6, h7, h8, h9⟩
      (decides_done _ (lineStays_putProfile _ _ _))

theorem finds_group (c : Settings) (f : List Byte) : Finds (groupRefusal c f)
    [needs .malformed (2 ≤ f.length ∧ f.length = 2 + byteAt f 1),
      needs .range (1 ≤ byteAt f 0 ∧ byteAt f 0 ≤ 8 ∧ byteAt f 1 ≤ 16 ∧
        (∀ x ∈ bytesAt f 2 (byteAt f 1), 1 ≤ x ∧ x ≤ 16) ∧ (bytesAt f 2 (byteAt f 1)).Nodup),
      needs .unknownItem (AllDefined c.signs (bytesAt f 2 (byteAt f 1)))] := by
  unfold groupRefusal
  refine finds_if ?_ (finds_if (not_iff_of ?_) (finds_if (not_iff_of (all_defined_iff _ _)) finds_nil))
  · simp only [Bool.or_eq_true, decide_eq_true_eq]
    omega
  · simp only [Bool.and_eq_true, within_iff, allWithin, List.all_eq_true, distinct, decide_eq_true_eq, Nat.zero_le,
      true_and, and_assoc]

theorem decides_defineGroup (f : List Byte) (s : State) : Decides (carryDefineGroup f s) s
    [needs .malformed (2 ≤ f.length ∧ f.length = 2 + byteAt f 1),
      needs .range (1 ≤ byteAt f 0 ∧ byteAt f 0 ≤ 8 ∧ byteAt f 1 ≤ 16 ∧
        (∀ x ∈ bytesAt f 2 (byteAt f 1), 1 ≤ x ∧ x ≤ 16) ∧ (bytesAt f 2 (byteAt f 1)).Nodup),
      needs .unknownItem (AllDefined s.settings.signs (bytesAt f 2 (byteAt f 1)))] := by
  refine decides_finds (finds_group s.settings f) (fun code h => ?_) fun h => ?_
  · unfold carryDefineGroup
    rw [h]
  · unfold carryDefineGroup
    rw [h]
    exact ⟨_, _, rfl, ⟨rfl, rfl⟩⟩

/-! ## Pages (R145, R146) -/

theorem targetOf_isSome (f : List Byte) : (targetOf f).isSome = true ↔ TargetInRange f := by
  unfold targetOf TargetInRange
  split
  · rename_i h
    simp [h, ← within_iff]
  · rename_i h
    simp [h, ← within_iff]
  · rename_i h0 h1
    simp [show byteAt f 0 ≠ 0 from h0, show byteAt f 0 ≠ 1 from h1]

/-- The signs of a target are those the statement says. -/
theorem targets_iff {c : Settings} {f : List Byte} {x : PageTarget} (h : targetOf f = some x) (signs : List Nat) :
    Targets c f signs ↔ c.targetSigns x = some signs := by
  unfold targetOf at h
  unfold Targets
  split at h
  · rename_i h0
    split at h
    · cases h
      cases hr : lookup c.signs (byteAt f 1) <;> simp [h0, hr, Settings.targetSigns, eq_comm]
    · cases h
  · rename_i h1
    split at h
    · cases h
      simp [h1, Settings.targetSigns]
    · cases h
  · cases h

theorem targets_exist_iff {c : Settings} {f : List Byte} {x : PageTarget} (h : targetOf f = some x) :
    (∃ signs, Targets c f signs) ↔ (c.targetSigns x).isSome = true := by
  simp only [targets_iff h, Option.isSome_iff_exists]

theorem cellSlot_isSome (f : List Byte) (i : Nat) :
    ((slotOf f i).bind SlotEntry.asCell).isSome = true ↔ CellEntry (byteAt f i) (byteAt f (i + 1)) := by
  unfold slotOf CellEntry
  split
  · rename_i h
    simp [h, SlotEntry.asCell]
  · rename_i h
    by_cases hn : byteAt f (i + 1) ≤ 31 <;> simp [h, hn, SlotEntry.asCell]
  · rename_i h
    simp [h, SlotEntry.asCell]
  · rename_i h0 h1 _
    simp [show byteAt f i ≠ 0 from h0, show byteAt f i ≠ 1 from h1]

theorem lineSlot_isSome (f : List Byte) (i : Nat) :
    ((slotOf f i).bind SlotEntry.asLine).isSome = true ↔ LineEntry (byteAt f i) := by
  unfold slotOf LineEntry
  split
  · rename_i h
    simp [h, SlotEntry.asLine]
  · rename_i h
    simp [h, SlotEntry.asLine]
  · rename_i h
    simp [h, SlotEntry.asLine]
  · rename_i h0 _ h2
    simp [show byteAt f i ≠ 0 from h0, show byteAt f i ≠ 2 from h2]

theorem pageOf_isSome (f : List Byte) : (pageOf f).isSome = true ↔ CellEntry (byteAt f 2) (byteAt f 3) ∧
    CellEntry (byteAt f 4) (byteAt f 5) ∧ LineEntry (byteAt f 6) ∧ LineEntry (byteAt f 8) ∧ LineEntry (byteAt f 10) := by
  rw [← cellSlot_isSome f 2, ← cellSlot_isSome f 4, ← lineSlot_isSome f 6, ← lineSlot_isSome f 8,
    ← lineSlot_isSome f 10]
  unfold pageOf
  split
  · rename_i e1 e2 e3 e4 e5
    simp [e1, e2, e3, e4, e5]
  · rename_i missing
    refine iff_of_false Bool.false_ne_true ?_
    simp only [Option.isSome_iff_exists]
    rintro ⟨⟨a, e1⟩, ⟨b, e2⟩, ⟨c, e3⟩, ⟨d, e4⟩, e, e5⟩
    exact missing a b c d e e1 e2 e3 e4 e5

theorem decides_pageWrite (f : List Byte) (s : State) : Decides (carryPageWrite f s) s
    [needs .malformed (f.length = 12),
      needs .range (TargetInRange f ∧ CellEntry (byteAt f 2) (byteAt f 3) ∧ CellEntry (byteAt f 4) (byteAt f 5) ∧
        LineEntry (byteAt f 6) ∧ LineEntry (byteAt f 8) ∧ LineEntry (byteAt f 10)),
      needs .unknownItem (∃ signs, Targets s.settings f signs)] := by
  rw [← targetOf_isSome, ← pageOf_isSome]
  unfold carryPageWrite
  refine decides_if Iff.rfl fun _ => ?_
  cases hx : targetOf f with
  | none => exact decides_unmet (by simp)
  | some x =>
    cases hp : pageOf f with
    | none => exact decides_unmet (by simp)
    | some page =>
      refine decides_met ⟨rfl, rfl⟩ ?_
      rw [targets_exist_iff hx]
      dsimp only
      cases hs : s.settings.targetSigns x with
      | none => exact decides_unmet (by simp)
      | some signs => exact decides_met rfl (decides_done _ (lineStays_changePages _ _ _))

theorem decides_pageSwap (f : List Byte) (s : State) : Decides (carryPageSwap f s) s
    [needs .malformed (f.length = 2), needs .range (TargetInRange f),
      needs .unknownItem (∃ signs, Targets s.settings f signs)] := by
  rw [← targetOf_isSome]
  unfold carryPageSwap
  refine decides_if Iff.rfl fun _ => ?_
  cases hx : targetOf f with
  | none => exact decides_unmet (by simp)
  | some x =>
    refine decides_met rfl ?_
    rw [targets_exist_iff hx]
    dsimp only
    cases hs : s.settings.targetSigns x with
    | none => exact decides_unmet (by simp)
    | some signs =>
      exact decides_met rfl (decides_done _ ((lineStays_changePages _ _ _).reacts (reaction_recompose _ _)))

/-! ## Texts (R142, R143) -/

theorem textsFit_iff (ts : List (List Byte)) : ts.all textFits = true ↔
    ∀ x ∈ ts, x.length ≤ 20 ∧ ∀ b ∈ x, b.toNat ≤ 63 := by
  rw [List.all_eq_true]
  refine forall₂_congr fun x _ => ?_
  simp only [textFits, Bool.and_eq_true, decide_eq_true_eq, List.all_eq_true]

theorem decides_textLoad (f : List Byte) (s : State) : Decides (carryTextLoad f s) s
    [needs .malformed (2 ≤ f.length ∧ textsOf (byteAt f 1) (f.drop 2) ≠ none),
      needs .range (1 ≤ byteAt f 1 ∧ byteAt f 1 ≤ 8 ∧ ∀ ts, textsOf (byteAt f 1) (f.drop 2) = some ts →
        ∀ x ∈ ts, x.length ≤ 20 ∧ ∀ b ∈ x, b.toNat ≤ 63)] := by
  unfold carryTextLoad
  by_cases hl : f.length < 2
  · rw [if_pos hl]
    exact decides_unmet fun h => absurd h.1 (Nat.not_le.mpr hl)
  rw [if_neg hl]
  cases ht : textsOf (byteAt f 1) (f.drop 2) with
  | none => exact decides_unmet (by simp)
  | some ts =>
    simp only [Option.some.injEq, forall_eq']
    refine decides_met ⟨Nat.not_lt.mp hl, by simp⟩ (decides_if (not_iff_of ?_) fun _ =>
      decides_done _ (lineStays_loadTexts _ _ _))
    rw [Bool.and_eq_true, within_iff, textsFit_iff, and_assoc]

theorem decides_queryText (f : List Byte) (s : State) : Decides (carryQueryText f s) s
    [needs .malformed (f.length = 2), needs .range (1 ≤ byteAt f 1 ∧ byteAt f 1 ≤ 8)] := by
  unfold carryQueryText
  exact decides_if Iff.rfl fun _ => decides_if (not_iff_of (within_iff _ _ _)) fun _ => decides_done _ (.refl s)

/-! ## The part as a whole (R18, R46, R186, R193, R201) -/

theorem decides_calibrate (f : List Byte) (s : State) : Decides (carryCalibrate f s) s
    [needs .malformed (f.length = 43),
      needs .range (∃ new, calibrationOf f = some new ∧ CalibrationInRange new),
      needs .conflict (∀ new, calibrationOf f = some new → CalibrationFree s.settings new)] := by
  unfold carryCalibrate checkCalibration
  by_cases hl : f.length ≠ 43
  · rw [if_pos hl]
    exact decides_unmet hl
  rw [if_neg hl]
  refine decides_met (not_not.mp hl) ?_
  cases hn : calibrationOf f with
  | none => exact decides_unmet (by simp)
  | some new =>
    simp only [Option.some.injEq, exists_eq_left', forall_eq']
    by_cases h1 : (!new.inRange) = true
    · rw [if_pos h1]
      exact decides_unmet ((not_iff_of (calibration_inRange_iff new)).mp h1)
    rw [if_neg h1]
    refine decides_met (not_not.mp ((not_iff_of (calibration_inRange_iff new)).not.mp h1)) ?_
    by_cases h2 : s.settings.calibrationConflict new = true
    · rw [if_pos h2]
      exact decides_unmet ((iff_not_of (calibrationConflict_eq_false _ _)).mp h2)
    rw [if_neg h2]
    exact decides_met (not_not.mp ((iff_not_of (calibrationConflict_eq_false _ _)).not.mp h2))
      (decides_done _ (lineStays_calibrate _ _))

theorem autoClose_iff (n : Nat) : (AutoClose.ofCode n).isSome = true ↔ n ≤ 2 := by
  match n with
  | 0 | 1 | 2 => decide
  | n + 3 => simp [AutoClose.ofCode]

theorem decides_linkSet (f : List Byte) (s : State) : Decides (carryLinkSet f s) s
    [needs .malformed (f.length = 3),
      needs .range (30 ≤ wordAt f 0 ∧ wordAt f 0 ≤ 3600 ∧ byteAt f 2 ≤ 2)] := by
  rw [← autoClose_iff]
  unfold carryLinkSet
  refine decides_if Iff.rfl fun _ => ?_
  by_cases hw : (!within 30 3600 (wordAt f 0)) = true
  · rw [if_pos hw]
    have outside := (not_iff_of (within_iff _ _ _)).mp hw
    exact decides_unmet fun h => outside ⟨h.1, h.2.1⟩
  rw [if_neg hw]
  have inside := not_not.mp ((not_iff_of (within_iff _ _ _)).not.mp hw)
  cases ha : AutoClose.ofCode (byteAt f 2) with
  | none => exact decides_unmet (by simp)
  | some auto => exact decides_met ⟨inside.1, inside.2, rfl⟩ (decides_done _ (lineStays_setLink _ _ _))

theorem startKind_iff (n : Nat) : (StartKind.ofCode n).isSome = true ↔ n = 1 ∨ n = 2 := by
  match n with
  | 0 | 1 | 2 => decide
  | n + 3 => simp [StartKind.ofCode]

theorem decides_restart (f : List Byte) (s : State) : Decides (carryRestart f s) s
    [needs .malformed (f.length = 1), needs .range (byteAt f 0 = 1 ∨ byteAt f 0 = 2)] := by
  rw [← startKind_iff]
  unfold carryRestart
  refine decides_if Iff.rfl fun _ => ?_
  cases hk : StartKind.ofCode (byteAt f 0) with
  | none => exact decides_unmet (by simp)
  | some kind => exact decides_met rfl (decides_done _ ⟨rfl, rfl⟩)

theorem decides_queryStatus (f : List Byte) (s : State) : Decides (carryQueryStatus f s) s
    [needs .malformed (f = [])] := by
  unfold carryQueryStatus
  exact decides_if (not_congr List.length_eq_zero_iff) fun _ => decides_done _ (.refl s)

theorem decides_queryStep (f : List Byte) (s : State) : Decides (carryQueryStep f s) s
    [needs .malformed (f.length = 3), needs .range (byteAt f 0 = 1 ∨ byteAt f 0 = 2),
      needs .unknownItem (∃ r ∈ s.weather.history, byteAt f 0 = 2 → r.number = wordAt f 1)] := by
  unfold carryQueryStep
  refine decides_if Iff.rfl fun _ => ?_
  match h : byteAt f 0 with
  | 0 => exact decides_unmet (by simp)
  | 1 =>
    refine decides_met (Or.inl rfl) ?_
    dsimp only
    cases hr : s.weather.history.getLast? with
    | none => exact decides_unmet (by simp [List.getLast?_eq_none_iff.mp hr])
    | some r => exact decides_met ⟨r, List.mem_of_getLast? hr, by simp⟩ (decides_done _ (.refl s))
  | 2 =>
    refine decides_met (Or.inr rfl) ?_
    dsimp only
    cases hr : s.weather.history.find? fun r => r.number == wordAt f 1 with
    | none => exact decides_unmet (by simpa using hr)
    | some r =>
      have number : (r.number == wordAt f 1) = true :=
        List.find?_some (p := fun r : StepRecord => r.number == wordAt f 1) hr
      exact decides_met ⟨r, List.mem_of_find?_eq_some hr, fun _ => beq_iff_eq.mp number⟩ (decides_done _ (.refl s))
  | n + 3 => exact decides_unmet (by simp)

end Sys2Proof.Proofs
end

section
/-! Every request row by its checks: refused by the first that is not met, with nothing changed, and answered DONE where
all are met (O51). -/

namespace Sys2Proof.Proofs

open Sys2Proof Sys2Proof.Machine Sys2Proof.Laws Sys2Proof.Claims

/-! ## What each row carries out -/

/-- A row of REMOVE ITEM carries out the frames that belong to it. -/
def removalRow (m : Moment) (item : Nat) (f : List Byte) (g : Nat → State → State × Answer) :
    Option (Moment × (State → State × Answer)) :=
  if removalIsFor item f then some (m, carryRemoval f g) else none

/-- The moment of a request row and what it carries out; none for a command that carries nothing out and answers. -/
def carriedOut : Instr → Option (Moment × (State → State × Answer))
  | .timeSet m _ f => some (m, carryTimeSet f)
  | .noticePost m _ f => some (m, carryNoticePost f)
  | .noticeWithdraw m _ f => some (m, carryNoticeWithdraw f)
  | .pageWrite m _ f => some (m, carryPageWrite f)
  | .pageSwap m _ f => some (m, carryPageSwap f)
  | .textLoad m _ f => some (m, carryTextLoad f)
  | .gateRaise m _ f => some (m, carryGateRaise f)
  | .gateClear m _ f => some (m, carryGateClear f)
  | .pathFloor m _ f => some (m, carryPathFloor f)
  | .restart m _ f => some (m, carryRestart f)
  | .definePath m _ f => some (m, carryDefinePath f)
  | .defineSegment m _ f => some (m, carryDefineSegment f)
  | .defineGate m _ f => some (m, carryDefineGate f)
  | .defineSign m _ f => some (m, carryDefineSign f)
  | .defineProfile m _ f => some (m, carryDefineProfile f)
  | .defineGroup m _ f => some (m, carryDefineGroup f)
  | .removePath m _ f => removalRow m itemPath f carryRemovePath
  | .removeSegment m _ f => removalRow m itemSegment f carryRemoveSegment
  | .removeGate m _ f => removalRow m itemGate f carryRemoveGate
  | .removeSign m _ f => removalRow m itemSign f carryRemoveSign
  | .removeProfile m _ f => removalRow m itemProfile f carryRemoveProfile
  | .removeGroup m _ f => removalRow m itemGroup f carryRemoveGroup
  | .calibrate m _ f => some (m, carryCalibrate f)
  | .linkSet m _ f => some (m, carryLinkSet f)
  | .saveSettings m _ f => if f.isEmpty then none else some (m, refuse .malformed)
  | .queryStatus m _ f => some (m, carryQueryStatus f)
  | .queryPath m _ f => some (m, carryQueryPath f)
  | .querySegment m _ f => some (m, carryQuerySegment f)
  | .queryGate m _ f => some (m, carryQueryGate f)
  | .querySign m _ f => some (m, carryQuerySign f)
  | .queryNotices m _ f => some (m, carryQueryNotices f)
  | .queryStep m _ f => some (m, carryQueryStep f)
  | .queryText m _ f => some (m, carryQueryText f)
  | .unknownKind m kind body =>
    if body.isEmpty || !isRequestKind kind then some (m, fun s => (s, unknownAnswer body)) else none
  | _ => none

section
variable {m m' : Moment} {item : Nat} {f : List Byte} {g : Nat → State → State × Answer}

theorem removalRow_eq_some {F : State → State × Answer} (h : removalRow m item f g = some (m', F)) :
    removalIsFor item f = true ∧ m' = m ∧ F = carryRemoval f g := by
  unfold removalRow at h
  split at h
  · rename_i hi
    cases h
    exact ⟨hi, rfl, rfl⟩
  · cases h

theorem removal_of_row {F : State → State × Answer} (tag : Byte) (s : State)
    (h : removalRow m item f g = some (m', F)) : removal m item tag f g s = request m' kindRemoveItem tag f F s := by
  obtain ⟨hi, rfl, rfl⟩ := removalRow_eq_some h
  exact if_pos hi

theorem removal_of_noRow (tag : Byte) (s : State) (h : removalRow m item f g = none) :
    removal m item tag f g s = event m id s := by
  unfold removalRow at h
  split at h
  · cases h
  · rename_i hi
    exact if_neg hi

end

theorem carriedOut_unknownKind (m : Moment) (kind : Byte) (body : List Byte) :
    carriedOut (.unknownKind m kind body) =
      if body.isEmpty || !isRequestKind kind then some (m, fun s => (s, unknownAnswer body)) else none := rfl

section
variable {i : Instr} {kind tag : Byte} {f : List Byte} (hf : i.requestFrame = some (kind, tag :: f))
include hf

/-- A row that carries its frame out is a request. -/
theorem exec_carriedOut {m : Moment} {F : State → State × Answer} (hc : carriedOut i = some (m, F)) (s : State) :
    exec i s = request m kind tag f F s := by
  cases i with
  | removePath _ _ _ => cases hf; exact removal_of_row tag s hc
  | removeSegment _ _ _ => cases hf; exact removal_of_row tag s hc
  | removeGate _ _ _ => cases hf; exact removal_of_row tag s hc
  | removeSign _ _ _ => cases hf; exact removal_of_row tag s hc
  | removeProfile _ _ _ => cases hf; exact removal_of_row tag s hc
  | removeGroup _ _ _ => cases hf; exact removal_of_row tag s hc
  | saveSettings m _ f =>
    cases hf
    cases f with
    | nil => cases hc
    | cons b f =>
      cases hc
      rfl
  | unknownKind m kind body =>
    cases hf
    rw [carriedOut_unknownKind] at hc
    split at hc
    · rename_i hu
      cases hc
      show execUnknownKind m kind (tag :: f) s = _
      unfold execUnknownKind request
      rw [hu]
      rfl
    · cases hc
  | _ =>
    cases hf
    all_goals
      cases hc
      rfl

/-- A request row that carries nothing out leaves the outbox as it is. -/
theorem exec_idle (hc : carriedOut i = none) (s : State) :
    ∃ m g, exec i s = event m g s ∧ ∀ u : State, (g u).line.outbox = u.line.outbox := by
  cases i with
  | removePath _ _ _ => exact ⟨_, id, removal_of_noRow _ s hc, fun _ => rfl⟩
  | removeSegment _ _ _ => exact ⟨_, id, removal_of_noRow _ s hc, fun _ => rfl⟩
  | removeGate _ _ _ => exact ⟨_, id, removal_of_noRow _ s hc, fun _ => rfl⟩
  | removeSign _ _ _ => exact ⟨_, id, removal_of_noRow _ s hc, fun _ => rfl⟩
  | removeProfile _ _ _ => exact ⟨_, id, removal_of_noRow _ s hc, fun _ => rfl⟩
  | removeGroup _ _ _ => exact ⟨_, id, removal_of_noRow _ s hc, fun _ => rfl⟩
  | saveSettings m tag f =>
    cases f with
    | cons b f => cases hc
    | nil =>
      refine ⟨m, _, rfl, fun u => ?_⟩
      split
      · rfl
      · rfl
  | unknownKind m kind body =>
    rw [carriedOut_unknownKind] at hc
    split at hc
    · cases hc
    · rename_i hu
      refine ⟨m, _, rfl, fun u => ?_⟩
      rw [if_neg (fun h => hu (Bool.and_eq_true_iff.mp h).1)]
  | _ =>
    cases hf
    all_goals cases hc

end

/-! ## The checks of each row -/

theorem removalConditions_eq_some {α : Type} {n item : Nat} {f : List Byte} {table : Vector (Option α) n}
    {more : Nat → List Condition} {checks : List Condition}
    (h : removalConditions item f table more = some checks) : removalIsFor item f = true ∧
      checks = [needs .malformed (f.length = 2), needs .range (1 ≤ byteAt f 0 ∧ byteAt f 0 ≤ 6),
        needs .range (1 ≤ byteAt f 1 ∧ byteAt f 1 ≤ n),
        needs .unknownItem ((lookup table (byteAt f 1)).isSome = true)] ++ more (byteAt f 1) := by
  unfold removalConditions at h
  split at h
  · cases h
  · rename_i hi
    cases h
    exact ⟨(removalIsFor_iff item f).mpr hi, rfl⟩

theorem conditions_removePath (s : State) (m : Moment) (tag : Byte) (f : List Byte) :
    conditions s (.removePath m tag f) = removalConditions 1 f s.settings.paths fun _ => [] := Option.or_none

theorem conditions_removeSegment (s : State) (m : Moment) (tag : Byte) (f : List Byte) :
    conditions s (.removeSegment m tag f) = removalConditions 2 f s.settings.segments fun k =>
      [needs .conflict ((∀ j q, lookup s.settings.paths j = some q → k ∉ q.segments) ∧
        (∀ j q, lookup s.settings.gates j = some q → q.segment ≠ k) ∧
        (∀ j q, lookup s.settings.signs j = some q → k ∉ q.segments) ∧ ∀ n ∈ s.retained.notices, k ∉ n.segments)] :=
  Option.or_none

theorem conditions_removeGate (s : State) (m : Moment) (tag : Byte) (f : List Byte) :
    conditions s (.removeGate m tag f) =
      removalConditions 3 f s.settings.gates fun k => [needs .inMotion (GateStill s k)] := Option.or_none

theorem conditions_removeSign (s : State) (m : Moment) (tag : Byte) (f : List Byte) :
    conditions s (.removeSign m tag f) = removalConditions 4 f s.settings.signs fun k =>
      [needs .conflict (∀ j q, lookup s.settings.gates j = some q → k ∉ q.approach)] := Option.or_none

theorem conditions_removeProfile (s : State) (m : Moment) (tag : Byte) (f : List Byte) :
    conditions s (.removeProfile m tag f) = removalConditions 5 f s.settings.profiles fun k =>
      [needs .conflict (∀ j q, lookup s.settings.signs j = some q → q.profile ≠ k)] := Option.or_none

theorem conditions_removeGroup (s : State) (m : Moment) (tag : Byte) (f : List Byte) :
    conditions s (.removeGroup m tag f) = removalConditions 6 f s.settings.groups fun _ => [] := Option.or_none

section
variable (f : List Byte) (s : State)

theorem decides_removeSegment : Decides (carryRemoval f carryRemoveSegment s) s
    ([needs .malformed (f.length = 2), needs .range (1 ≤ byteAt f 0 ∧ byteAt f 0 ≤ 6),
      needs .range (1 ≤ byteAt f 1 ∧ byteAt f 1 ≤ 8),
      needs .unknownItem ((lookup s.settings.segments (byteAt f 1)).isSome = true)] ++
      [needs .conflict ((∀ j q, lookup s.settings.paths j = some q → byteAt f 1 ∉ q.segments) ∧
        (∀ j q, lookup s.settings.gates j = some q → q.segment ≠ byteAt f 1) ∧
        (∀ j q, lookup s.settings.signs j = some q → byteAt f 1 ∉ q.segments) ∧
        ∀ n ∈ s.retained.notices, byteAt f 1 ∉ n.segments)]) :=
  decides_removal (more := fun k => [needs .conflict
      ((∀ j q, lookup s.settings.paths j = some q → k ∉ q.segments) ∧
        (∀ j q, lookup s.settings.gates j = some q → q.segment ≠ k) ∧
        (∀ j q, lookup s.settings.signs j = some q → k ∉ q.segments) ∧ ∀ n ∈ s.retained.notices, k ∉ n.segments)])
    (fun k _ s => if s.segmentNamed k then refuse .conflict s else accept [byte k] (s.dropSegment k)) (fun _ => rfl)
    fun k _ _ => decides_if (iff_not_of (segmentNamed_eq_false s k)) fun _ => decides_done _ ⟨rfl, rfl⟩

theorem decides_removeSign : Decides (carryRemoval f carryRemoveSign s) s
    ([needs .malformed (f.length = 2), needs .range (1 ≤ byteAt f 0 ∧ byteAt f 0 ≤ 6),
      needs .range (1 ≤ byteAt f 1 ∧ byteAt f 1 ≤ 16),
      needs .unknownItem ((lookup s.settings.signs (byteAt f 1)).isSome = true)] ++
      [needs .conflict (∀ j q, lookup s.settings.gates j = some q → byteAt f 1 ∉ q.approach)]) := by
  refine decides_removal (more := fun k => [needs .conflict
      (∀ j q, lookup s.settings.gates j = some q → k ∉ q.approach)])
    (fun k _ s => if (s.settings.approached k).isEmpty then accept [byte k] (s.dropSign k) else refuse .conflict s)
    (fun _ => rfl) fun k _ _ => ?_
  by_cases he : (s.settings.approached k).isEmpty = true
  · rw [if_pos he]
    exact decides_met ((approached_isEmpty_iff _ _).mp he) (decides_done _ (lineStays_dropSign s k))
  · rw [if_neg he]
    exact decides_unmet ((approached_isEmpty_iff _ _).not.mp he)

theorem decides_removeProfile : Decides (carryRemoval f carryRemoveProfile s) s
    ([needs .malformed (f.length = 2), needs .range (1 ≤ byteAt f 0 ∧ byteAt f 0 ≤ 6),
      needs .range (1 ≤ byteAt f 1 ∧ byteAt f 1 ≤ 8),
      needs .unknownItem ((lookup s.settings.profiles (byteAt f 1)).isSome = true)] ++
      [needs .conflict (∀ j q, lookup s.settings.signs j = some q → q.profile ≠ byteAt f 1)]) := by
  refine decides_removal (more := fun k => [needs .conflict
      (∀ j q, lookup s.settings.signs j = some q → q.profile ≠ k)])
    (fun k _ s => if (s.settings.following k).isEmpty then accept [byte k] (s.change (Settings.setProfile k none))
      else refuse .conflict s) (fun _ => rfl) fun k _ _ => ?_
  by_cases he : (s.settings.following k).isEmpty = true
  · rw [if_pos he]
    exact decides_met ((following_isEmpty_iff _ _).mp he) (decides_done _ ⟨rfl, rfl⟩)
  · rw [if_neg he]
    exact decides_unmet ((following_isEmpty_iff _ _).not.mp he)

theorem decides_removeGate : Decides (carryRemoval f carryRemoveGate s) s
    ([needs .malformed (f.length = 2), needs .range (1 ≤ byteAt f 0 ∧ byteAt f 0 ≤ 6),
      needs .range (1 ≤ byteAt f 1 ∧ byteAt f 1 ≤ 8),
      needs .unknownItem ((lookup s.settings.gates (byteAt f 1)).isSome = true)] ++
      [needs .inMotion (GateStill s (byteAt f 1))]) :=
  decides_removal (more := fun k => [needs .inMotion (GateStill s k)])
    (fun k r s => if s.gateInMotion k then refuse .inMotion s else accept [byte k] (s.dropGate k r)) (fun _ => rfl)
    fun k r _ => decides_if (gateInMotion_iff s k) fun _ => decides_done _ (lineStays_dropGate s k r)

theorem decides_removePath : Decides (carryRemoval f carryRemovePath s) s
    ([needs .malformed (f.length = 2), needs .range (1 ≤ byteAt f 0 ∧ byteAt f 0 ≤ 6),
      needs .range (1 ≤ byteAt f 1 ∧ byteAt f 1 ≤ 12),
      needs .unknownItem ((lookup s.settings.paths (byteAt f 1)).isSome = true)] ++ []) :=
  decides_removal (more := fun _ => []) (fun k r s => accept [byte k] (s.dropPath k r)) (fun _ => rfl)
    fun k r _ => decides_done _ (lineStays_dropPath s k r)

theorem decides_removeGroup : Decides (carryRemoval f carryRemoveGroup s) s
    ([needs .malformed (f.length = 2), needs .range (1 ≤ byteAt f 0 ∧ byteAt f 0 ≤ 6),
      needs .range (1 ≤ byteAt f 1 ∧ byteAt f 1 ≤ 8),
      needs .unknownItem ((lookup s.settings.groups (byteAt f 1)).isSome = true)] ++ []) :=
  decides_removal (more := fun _ => []) (fun k _ s => accept [byte k] (s.change (Settings.setGroup k none)))
    (fun _ => rfl) fun _ _ _ => decides_done _ ⟨rfl, rfl⟩

end

/-- A row is decided by some checks, which are those of the statement where the gates have their records. -/
def RowDecided (i : Instr) (F : State → State × Answer) (s : State) : Prop :=
  ∃ checks, Decides (F s) s checks ∧ (s.GatesWhole → ∀ cs, conditions s i = some cs → cs = checks)

/-- Where the statement's own checks decide a row. -/
theorem rowDecided_of_conditions {i : Instr} {F : State → State × Answer} {s : State} {checks : List Condition}
    (hd : Decides (F s) s checks) (hc : conditions s i = some checks) : RowDecided i F s :=
  ⟨checks, hd, fun _ _ h => Option.some.inj (h.symm.trans hc)⟩

/-- A row of REMOVE ITEM is decided by its checks. -/
theorem rowDecided_removal {α : Type} {n item : Nat} {i : Instr} {m m' : Moment} {f : List Byte} {s : State}
    {table : Vector (Option α) n} {more : Nat → List Condition} {g : Nat → State → State × Answer}
    {F : State → State × Answer} (hc : removalRow m item f g = some (m', F))
    (hd : Decides (carryRemoval f g s) s ([needs .malformed (f.length = 2),
      needs .range (1 ≤ byteAt f 0 ∧ byteAt f 0 ≤ 6), needs .range (1 ≤ byteAt f 1 ∧ byteAt f 1 ≤ n),
      needs .unknownItem ((lookup table (byteAt f 1)).isSome = true)] ++ more (byteAt f 1)))
    (he : conditions s i = removalConditions item f table more) : RowDecided i F s := by
  obtain ⟨-, -, rfl⟩ := removalRow_eq_some hc
  exact ⟨_, hd, fun _ cs h => (removalConditions_eq_some (he.symm.trans h)).2⟩

/-- Every row that carries a frame out is decided by its checks. -/
theorem rowDecided {i : Instr} {m : Moment} {F : State → State × Answer} (hc : carriedOut i = some (m, F)) (s : State) :
    RowDecided i F s := by
  cases i with
  | timeSet _ _ f => cases hc; exact rowDecided_of_conditions (decides_timeSet f s) rfl
  | noticePost _ _ f => cases hc; exact rowDecided_of_conditions (decides_noticePost f s) rfl
  | noticeWithdraw _ _ f => cases hc; exact rowDecided_of_conditions (decides_noticeWithdraw f s) rfl
  | pageWrite _ _ f => cases hc; exact rowDecided_of_conditions (decides_pageWrite f s) rfl
  | pageSwap _ _ f => cases hc; exact rowDecided_of_conditions (decides_pageSwap f s) rfl
  | textLoad _ _ f => cases hc; exact rowDecided_of_conditions (decides_textLoad f s) rfl
  | pathFloor _ _ f => cases hc; exact rowDecided_of_conditions (decides_pathFloor f s) rfl
  | restart _ _ f => cases hc; exact rowDecided_of_conditions (decides_restart f s) rfl
  | definePath _ _ f => cases hc; exact rowDecided_of_conditions (decides_definePath f s) rfl
  | defineSegment _ _ f => cases hc; exact rowDecided_of_conditions (decides_defineSegment f s) rfl
  | defineSign _ _ f => cases hc; exact rowDecided_of_conditions (decides_defineSign f s) rfl
  | defineProfile _ _ f => cases hc; exact rowDecided_of_conditions (decides_defineProfile f s) rfl
  | defineGroup _ _ f => cases hc; exact rowDecided_of_conditions (decides_defineGroup f s) rfl
  | calibrate _ _ f => cases hc; exact rowDecided_of_conditions (decides_calibrate f s) rfl
  | linkSet _ _ f => cases hc; exact rowDecided_of_conditions (decides_linkSet f s) rfl
  | queryStatus _ _ f => cases hc; exact rowDecided_of_conditions (decides_queryStatus f s) rfl
  | queryPath _ _ f => cases hc; exact rowDecided_of_conditions (decides_queryItem f _ _ s) rfl
  | querySegment _ _ f => cases hc; exact rowDecided_of_conditions (decides_queryItem f _ _ s) rfl
  | queryGate _ _ f => cases hc; exact rowDecided_of_conditions (decides_queryItem f _ _ s) rfl
  | querySign _ _ f => cases hc; exact rowDecided_of_conditions (decides_queryItem f _ _ s) rfl
  | queryNotices _ _ f => cases hc; exact rowDecided_of_conditions (decides_queryNotices f s) rfl
  | queryStep _ _ f => cases hc; exact rowDecided_of_conditions (decides_queryStep f s) rfl
  | queryText _ _ f => cases hc; exact rowDecided_of_conditions (decides_queryText f s) rfl
  | removePath m _ f => exact rowDecided_removal hc (decides_removePath f s) (conditions_removePath s _ _ f)
  | removeSegment m _ f => exact rowDecided_removal hc (decides_removeSegment f s) (conditions_removeSegment s _ _ f)
  | removeGate m _ f => exact rowDecided_removal hc (decides_removeGate f s) (conditions_removeGate s _ _ f)
  | removeSign m _ f => exact rowDecided_removal hc (decides_removeSign f s) (conditions_removeSign s _ _ f)
  | removeProfile m _ f => exact rowDecided_removal hc (decides_removeProfile f s) (conditions_removeProfile s _ _ f)
  | removeGroup m _ f => exact rowDecided_removal hc (decides_removeGroup f s) (conditions_removeGroup s _ _ f)
  | defineGate _ _ f =>
    cases hc
    by_cases hw : s.GatesWhole
    · exact rowDecided_of_conditions (decides_defineGate f s (definedInMotion_iff hw _)) rfl
    · exact ⟨_, decides_defineGate f s not_not.symm, fun h => absurd h hw⟩
  | gateRaise _ _ f =>
    cases hc
    by_cases hw : s.GatesWhole
    · exact rowDecided_of_conditions (decides_gateRaise (known_of_whole hw _)) rfl
    · exact ⟨_, decides_gateRaise Iff.rfl, fun h => absurd h hw⟩
  | gateClear _ _ f =>
    cases hc
    by_cases hw : s.GatesWhole
    · exact rowDecided_of_conditions (decides_gateClear (known_of_whole hw _)) rfl
    · exact ⟨_, decides_gateClear Iff.rfl, fun h => absurd h hw⟩
  | saveSettings _ _ f =>
    cases f with
    | nil => cases hc
    | cons b f =>
      cases hc
      exact rowDecided_of_conditions (decides_unmet (c := needs .malformed (b :: f = [])) nofun) rfl
  | unknownKind _ _ body =>
    rw [carriedOut_unknownKind] at hc
    split at hc
    · cases hc
      cases body with
      | nil => exact ⟨_, decides_unmet (c := needs .malformed False) (checks := []) id, fun _ _ h => by cases h⟩
      | cons b body => exact ⟨_, decides_unmet (c := needs .unknownKind False) (checks := []) id, fun _ _ h => by cases h⟩
    · cases hc
  | _ => cases hc

/-- A row with checks that carries nothing out is SAVE SETTINGS with nothing but its tag. -/
theorem conditions_idle {i : Instr} {kind tag : Byte} {f : List Byte} {s : State} {checks : List Condition}
    (hf : i.requestFrame = some (kind, tag :: f)) (hc : carriedOut i = none)
    (h : conditions s i = some checks) : ∃ m tag, i = .saveSettings m tag [] := by
  have row : ∀ {m : Moment} {item : Nat} {f : List Byte} {g : Nat → State → State × Answer} {α : Type} {n : Nat}
      {table : Vector (Option α) n} {more : Nat → List Condition}, removalRow m item f g = none →
      removalConditions item f table more = some checks → False := by
    intro m item f g α n table more hr he
    unfold removalRow at hr
    rw [if_pos (removalConditions_eq_some he).1] at hr
    cases hr
  cases i with
  | removePath _ _ _ => exact (row hc ((conditions_removePath ..).symm.trans h)).elim
  | removeSegment _ _ _ => exact (row hc ((conditions_removeSegment ..).symm.trans h)).elim
  | removeGate _ _ _ => exact (row hc ((conditions_removeGate ..).symm.trans h)).elim
  | removeSign _ _ _ => exact (row hc ((conditions_removeSign ..).symm.trans h)).elim
  | removeProfile _ _ _ => exact (row hc ((conditions_removeProfile ..).symm.trans h)).elim
  | removeGroup _ _ _ => exact (row hc ((conditions_removeGroup ..).symm.trans h)).elim
  | saveSettings m tag f =>
    cases f with
    | nil => exact ⟨m, tag, rfl⟩
    | cons b f => cases hc
  | unknownKind _ _ _ => cases h
  | _ =>
    cases hf
    all_goals cases hc

/-! ## Requests decided by their checks -/

theorem exists_firstUnmet (checks : List Condition) : ∃ o, FirstUnmet checks o := by
  induction checks with
  | nil => exact ⟨none, rfl⟩
  | cons c cs ih =>
    obtain ⟨o, ho⟩ := ih
    by_cases h : c.met
    · exact ⟨o, Or.inr ⟨h, ho⟩⟩
    · exact ⟨_, Or.inl ⟨h, rfl⟩⟩

section
variable {m : Moment} {kind tag : Byte} {f : List Byte} {F : State → State × Answer} {s : State}
  (hr : Ready s kind tag f)
include hr

/-- A request refused by its checks changes nothing. -/
theorem request_refused {code : RefusalCode} {sub : SubReason} (hs : s.Settled)
    (h : F (s.elapse m).popFrame = ((s.elapse m).popFrame, .refused code sub)) :
    ∃ t, request m kind tag f F s = .next t ∧ Answered s t kind tag (.refused code sub) ∧
      Quiet [.inbound, .outbox] s t := by
  obtain ⟨t, he, -, ha, hq⟩ := request_same m kind tag f F s _ hr hs h
  exact ⟨t, he, ha, hq⟩

/-- A request carried out is answered DONE. -/
theorem request_done {u : State} {result : List Byte} (h : F (s.elapse m).popFrame = (u, .done result))
    (hl : LineStays (s.elapse m).popFrame u) :
    ∃ t, request m kind tag f F s = .next t ∧ Answered s t kind tag (.done result) := by
  obtain ⟨t, he, hfol, hout⟩ := request_follows m kind tag f F s hr.1 (takes_of_ready hr)
  rw [h] at hfol hout
  exact ⟨t, he, hfol.line.inbound.trans hl.1, hout.trans (congrArg (· ++ _) hl.2)⟩

/-- A refusal in the reply says that the request was refused, and so changed nothing. -/
theorem quiet_of_refused {t : State} {code : RefusalCode} {sub : SubReason} {checks : List Condition} (hs : s.Settled)
    (hd : Decides (F (s.elapse m).popFrame) (s.elapse m).popFrame checks) (he : request m kind tag f F s = .next t)
    (ho : t.line.outbox = s.line.outbox ++ [⟨tag, kind, .refused code sub⟩]) :
    t.line.inbound = s.line.inbound.tail ∧ Quiet [.inbound, .outbox] s t := by
  obtain ⟨o, hu⟩ := exists_firstUnmet checks
  cases o with
  | some r =>
    obtain ⟨t', he', ⟨hin, -⟩, hq⟩ := request_refused hr hs (hd.1 r.1 r.2 hu)
    cases he.symm.trans he'
    exact ⟨hin, hq⟩
  | none =>
    obtain ⟨u, result, hF, hl⟩ := hd.2 hu
    obtain ⟨t', he', -, hout⟩ := request_done (m := m) hr hF hl
    cases he.symm.trans he'
    have e := List.append_cancel_left (hout.symm.trans ho)
    cases e

end

/-- The checks read nothing that time or the queue changes. -/
theorem conditions_popped (s : State) (m : Moment) (i : Instr) :
    conditions (s.elapse m).popFrame i = conditions s i := by
  cases i <;> rfl

/-- Settles O51: every row is decided by its checks; a row that carries nothing out places no reply. -/
theorem requestsRefusedInOrder : Obligations.RequestsRefusedInOrder := by
  refine ⟨fun i kind tag f s t code sub hf hr hs he ho => ?_, fun i kind tag f s checks hf hr hs hw hcond => ?_⟩
  · cases hc : carriedOut i with
    | some row =>
      obtain ⟨m, F⟩ := row
      rw [exec_carriedOut hf hc] at he
      obtain ⟨checks, hd, -⟩ := rowDecided hc (s.elapse m).popFrame
      exact quiet_of_refused hr hs hd he ho
    | none =>
      obtain ⟨m, g, hg, hout⟩ := exec_idle hf hc s
      obtain ⟨t', he', -, hsame⟩ := event_reacts m g s hr.1
      cases he.symm.trans (hg.trans he')
      have none_added : s.line.outbox ++ [⟨tag, kind, .refused code sub⟩] = s.line.outbox :=
        ho.symm.trans (hsame.trans (hout _))
      exact absurd none_added (by simp)
  · cases hc : carriedOut i with
    | some row =>
      obtain ⟨m, F⟩ := row
      obtain ⟨cs, hd, same⟩ := rowDecided hc (s.elapse m).popFrame
      obtain rfl := same hw checks ((conditions_popped s m i).trans hcond)
      rw [exec_carriedOut hf hc]
      refine ⟨fun code sub hu => request_refused hr hs (hd.1 code sub hu), fun hu _ => ?_⟩
      obtain ⟨u, result, hF, hl⟩ := hd.2 hu
      obtain ⟨t, he, ha⟩ := request_done hr hF hl
      exact ⟨t, result, he, ha⟩
    | none =>
      obtain ⟨m, tag', rfl⟩ := conditions_idle hf hc hcond
      cases hf
      cases hcond
      refine ⟨fun code sub hu => ?_, fun _ hk => absurd rfl hk⟩
      rcases hu with ⟨hn, -⟩ | ⟨-, e⟩
      · exact absurd rfl hn
      · cases e

end Sys2Proof.Proofs
end

section
/-! The blocks are settled after every step: an arbiter that begins a delivery fills a FREE string, of which there are
two, so three rounds of settling leave no choice to take and no tell to give (O52). -/

namespace Sys2Proof.Proofs

open Sys2Proof Sys2Proof.Machine Sys2Proof.Laws

/-! ## FREE strings and tells -/

/-- How many strings are FREE. -/
def freeStrings (s : State) : Nat := (s.transfer .a).isNone.toNat + (s.transfer .b).isNone.toNat

/-- No string becomes FREE, and whoever gives the gates a panel's change to be told takes a FREE string. -/
def TellsPaid (s t : State) : Prop :=
  freeStrings t ≤ freeStrings s ∧ (freeStrings t = freeStrings s → t.strings.tells = s.strings.tells)

theorem TellsPaid.trans {s t u : State} (h : TellsPaid s t) (k : TellsPaid t u) : TellsPaid s u := by
  obtain ⟨h1, h2⟩ := h
  obtain ⟨k1, k2⟩ := k
  exact ⟨k1.trans h1, fun e => (k2 (by omega)).trans (h2 (by omega))⟩

/-- Strings and tells as they were. -/
theorem TellsPaid.of_eq {s t : State} (ha : t.strings.transferA = s.strings.transferA)
    (hb : t.strings.transferB = s.strings.transferB) (ht : t.strings.tells = s.strings.tells) : TellsPaid s t := by
  have h : freeStrings t = freeStrings s := by
    unfold freeStrings State.transfer
    rw [ha, hb]
  exact ⟨h.le, fun _ => ht⟩

theorem TellsPaid.refl (s : State) : TellsPaid s s := .of_eq rfl rfl rfl

theorem TellsPaid.foldl {α : Type} {f : State → α → State} (hf : ∀ s x, TellsPaid s (f s x)) (xs : List α) (s : State) :
    TellsPaid s (xs.foldl f s) :=
  keep_foldl (P := TellsPaid s) (fun u x h => h.trans (hf u x)) xs s (.refl s)

/-! ## Arbiters -/

theorem freeStrings_withTransfer {s : State} {x : StringId} (a : Attempt) (h : s.transfer x = none) :
    freeStrings (s.withTransfer x (some a)) < freeStrings s := by
  cases x with
  | a =>
    have hb : (s.withTransfer .a (some a)).transfer .b = s.transfer .b := rfl
    have ha : (s.withTransfer .a (some a)).transfer .a = some a := rfl
    simp [freeStrings, ha, hb, h]
  | b =>
    have hb : (s.withTransfer .b (some a)).transfer .b = some a := rfl
    have ha : (s.withTransfer .b (some a)).transfer .a = s.transfer .a := rfl
    simp [freeStrings, ha, hb, h]

theorem firstRanked_mem {l : List ((Nat × Moment) × Nat)} {d : (Nat × Moment) × Nat} (h : firstRanked l = some d) :
    d ∈ l := by
  induction l generalizing d with
  | nil => cases h
  | cons c rest ih =>
    unfold firstRanked at h
    split at h
    · cases h
      exact List.mem_cons_self ..
    · split at h
      · cases h
        exact List.mem_cons_of_mem _ (ih ‹_›)
      · cases h
        exact List.mem_cons_self ..

/-- An arbiter chooses only a sign that has its record and its pages (R171). -/
theorem choice_defined {s : State} {x : StringId} {k : Nat} (h : s.choice x = some k) :
    ∃ r c, lookup s.settings.signs k = some r ∧ s.sign k = some c := by
  obtain ⟨d, hd, rfl⟩ := Option.map_eq_some_iff.mp h
  obtain ⟨j, -, hj⟩ := List.mem_filterMap.mp (firstRanked_mem hd)
  split at hj
  · rename_i r c p hr hc hp
    split at hj
    · obtain ⟨rank, -, rfl⟩ := Option.map_eq_some_iff.mp hj
      exact ⟨r, c, hr, hc⟩
    · cases hj
  · cases hj

/-- An attempt on a defined sign takes its string. -/
theorem freeStrings_beginAttempt {s : State} {x : StringId} {k : Nat} {r : SignRecord} {c : SignState} (n : Nat)
    (hx : s.transfer x = none) (hr : lookup s.settings.signs k = some r) (hc : s.sign k = some c) :
    freeStrings (s.beginAttempt x k n) < freeStrings s := by
  unfold State.beginAttempt
  rw [hr, hc]
  exact freeStrings_withTransfer _ hx

theorem TellsPaid.of_lt {s t : State} (h : freeStrings t < freeStrings s) : TellsPaid s t :=
  ⟨h.le, fun e => absurd e h.ne⟩

theorem paid_grant {s : State} {x : StringId} {k : Nat} {r : SignRecord} {c : SignState}
    (hx : s.transfer x = none) (hr : lookup s.settings.signs k = some r) (hc : s.sign k = some c) :
    TellsPaid s (s.grant x k) := by
  have delivered : ∀ p, TellsPaid s ((s.beginDelivery k p).beginAttempt x k 1) := fun p =>
    .of_lt (freeStrings_beginAttempt (s := s.beginDelivery k p) 1 ((transfer_beginDelivery s k p x).trans hx) hr hc)
  unfold State.grant
  split
  · exact .refl s
  · split
    · exact .of_lt (freeStrings_beginAttempt 1 hx hr hc)
    · exact delivered _
    · exact delivered _
    · exact .refl s

theorem paid_arbitrate (s : State) (x : StringId) : TellsPaid s (s.arbitrate x) := by
  unfold State.arbitrate
  split
  · exact .refl s
  · split
    · exact .refl s
    · obtain ⟨r, c, hr, hc⟩ := choice_defined ‹_›
      exact paid_grant ‹_› hr hc

theorem paid_chooseNow (s : State) (x : StringId) : TellsPaid s (s.chooseNow x) :=
  TellsPaid.trans (t := s.withStrings { s.strings with due := s.strings.due.filter fun y => y != x })
    (.of_eq rfl rfl rfl) (paid_arbitrate _ x)

theorem paid_mayChoose (s : State) (x : StringId) : TellsPaid s (s.mayChoose x) := by
  have taken : TellsPaid s s.choiceTaken := .of_eq rfl rfl rfl
  unfold State.mayChoose
  split
  · split
    · exact taken
    · exact taken.trans (paid_chooseNow _ x)
  · exact .refl s

/-! ## Composing, segments and gates -/

theorem paid_handMarks (s : State) (ks : List Nat) : TellsPaid s (s.handMarks ks) := by
  unfold State.handMarks
  split
  · exact .refl s
  · have called := TellsPaid.foldl (f := fun s x => s.callArbiter x) (fun s x => .of_eq rfl rfl rfl)
      (s.settings.stringsOf ks) s
    exact (called.trans (paid_mayChoose _ .a)).trans (paid_mayChoose _ .b)

theorem recomposeSign_strings (s : State) (k : Nat) : (s.recomposeSign k).1.strings = s.strings := by
  unfold State.recomposeSign
  split
  · dsimp only
    split <;> rfl
  · rfl

theorem recomposeAll_strings (ks marked : List Nat) (s : State) :
    (State.recomposeAll ks marked s).1.strings = s.strings := by
  induction ks generalizing s marked with
  | nil => rfl
  | cons k ks ih =>
    unfold State.recomposeAll
    exact (ih _ _).trans (recomposeSign_strings s k)

theorem TellsPaid.of_strings {s t : State} (h : t.strings = s.strings) : TellsPaid s t :=
  .of_eq (congrArg _ h) (congrArg _ h) (congrArg _ h)

theorem paid_recompose (s : State) (ks : List Nat) : TellsPaid s (s.recompose ks) :=
  (TellsPaid.of_strings (recomposeAll_strings ks [] s)).trans (paid_handMarks _ _)

theorem paid_reports (s : State) (bs : List ReportBody) : TellsPaid s (s.reports bs) := by
  rw [reports_eq_withLine]
  exact .of_strings rfl

theorem paid_evaluate (s : State) (ks : List Nat) : TellsPaid s (s.evaluate ks).1 := by
  have derived : ∀ v bs, TellsPaid s ((s.withSegments v).reports bs) := fun v bs =>
    TellsPaid.trans (t := s.withSegments v) (.of_strings rfl) (paid_reports _ bs)
  unfold State.evaluate
  dsimp only
  split
  · exact derived _ _
  · exact (derived _ _).trans (paid_recompose _ _)

theorem paid_changeGateWith {f : GateRecord → State → State} (hf : ∀ r s, TellsPaid s (f r s)) (k : Nat)
    (c : GateCause) (g : GateState) (s : State) : TellsPaid s (s.changeGateWith f k c g) := by
  unfold State.changeGateWith
  split
  · rename_i r old _ _
    have told : TellsPaid s (if old.position = g.position then s.withGate k (some g)
        else (s.withGate k (some g)).report (.gate k (some old.position) (some g.position) g.reversals c)) := by
      split <;> exact .of_strings rfl
    dsimp only
    split
    · exact told
    · exact (told.trans (.of_strings rfl)).trans (hf r _)
  · exact .refl s

theorem paid_handOnQuiet (r : GateRecord) (s : State) : TellsPaid s (handOnQuiet r s) :=
  (paid_evaluate s _).trans (paid_recompose _ _)

theorem paid_answerTell (s : State) (x : Nat × Bool) : TellsPaid s (s.answerTell x) := by
  unfold State.answerTell
  split
  · split
    · exact paid_changeGateWith paid_handOnQuiet _ _ _ s
    · exact paid_changeGateWith paid_handOnQuiet _ _ _ s
    · exact .refl s
  · exact .refl s

theorem paid_handOver (s : State) (ks signs : List Nat) : TellsPaid s (s.handOver ks signs) := by
  have answered : ∀ (u : State) xs, TellsPaid u (u.answerTells xs) := fun u xs => TellsPaid.foldl paid_answerTell xs u
  unfold State.handOver
  dsimp only
  split
  · exact (paid_evaluate s ks).trans (answered _ _)
  · exact ((paid_evaluate s ks).trans (paid_recompose _ _)).trans (answered _ _)

theorem paid_loweringTest (s : State) (k : Nat) : TellsPaid s (s.loweringTest k) := by
  unfold State.loweringTest
  split
  · split
    · exact paid_changeGateWith (fun _ u => paid_handOver u _ _) _ _ _ s
    · exact .refl s
  · exact .refl s

theorem paid_reviewHold (s : State) (k : Nat) : TellsPaid s (s.reviewHold k) := by
  unfold State.reviewHold
  split
  · split
    · exact TellsPaid.trans (t := s.withGate k _) (.of_strings rfl) (paid_loweringTest _ _)
    · exact .refl s
  · exact .refl s

theorem paid_tellSign (s : State) (k : Nat) : TellsPaid s (s.tellSign k) := TellsPaid.foldl paid_reviewHold _ s

/-! ## Rounds of settling -/

theorem grant_due (s : State) (x : StringId) (k : Nat) : (s.grant x k).strings.due = s.strings.due := by
  have attempted : ∀ (u : State) n, (u.beginAttempt x k n).strings.due = u.strings.due := by
    intro u n
    unfold State.beginAttempt
    split
    · cases x <;> rfl
    · rfl
  unfold State.grant
  split
  · rfl
  · split
    · exact attempted _ _
    · exact attempted _ _
    · exact attempted _ _
    · rfl

theorem arbitrate_due (s : State) (x : StringId) : (s.arbitrate x).strings.due = s.strings.due := by
  unfold State.arbitrate
  split
  · rfl
  · split
    · rfl
    · exact grant_due s x _

/-- The arbiters that have a choice to take take it, and pay for the deliveries they begin. -/
theorem runArbiters_spec (s : State) : TellsPaid s s.runArbiters ∧ s.runArbiters.strings.due = [] := by
  have arbiter : ∀ (u : State) (x : StringId) (c : Bool), TellsPaid s u ∧ u.strings.due = [] →
      TellsPaid s (if c then u.arbitrate x else u) ∧ (if c then u.arbitrate x else u).strings.due = [] := by
    rintro u x c ⟨hu, hd⟩
    split
    · exact ⟨hu.trans (paid_arbitrate u x), (arbitrate_due u x).trans hd⟩
    · exact ⟨hu, hd⟩
  exact arbiter _ .b _ (arbiter _ .a _ ⟨.of_eq rfl rfl rfl, rfl⟩)

/-- After a round no arbiter has a choice to take, and there is a tell to give only if a string was FREE before the round
and no longer is. -/
theorem settleRound_spec (s : State) : s.settleRound.strings.due = [] ∧
    (s.settleRound.strings.tells = [] ∨ freeStrings s.settleRound < freeStrings s) := by
  obtain ⟨hpaid, hdue⟩ := runArbiters_spec s.giveTells
  refine ⟨hdue, ?_⟩
  have given : TellsPaid (s.withStrings { s.strings with tells := [] }) s.settleRound :=
    (TellsPaid.foldl paid_tellSign s.strings.tells _).trans hpaid
  have same : freeStrings (s.withStrings { s.strings with tells := [] }) = freeStrings s := rfl
  obtain ⟨hle, htells⟩ := given
  rcases hle.lt_or_eq with hlt | heq
  · exact Or.inr (same ▸ hlt)
  · exact Or.inl (htells heq)

theorem settleRound_of_settled {s : State} (h : s.Settled) : s.settleRound = s := by
  unfold State.settleRound
  rw [giveTells_of_empty s h.2, runArbiters_of_empty s h.1]

theorem freeStrings_le (s : State) : freeStrings s ≤ 2 :=
  Nat.add_le_add (Bool.toNat_le _) (Bool.toNat_le _)

/-- Three rounds are enough: each of them settles the blocks or takes one of the two strings. -/
theorem settle_settled (s : State) : s.settle.Settled := by
  have round : ∀ u : State, u.settleRound.Settled ∨ freeStrings u.settleRound < freeStrings u := fun u =>
    (settleRound_spec u).2.imp (fun ht => ⟨(settleRound_spec u).1, ht⟩) id
  have stays : ∀ u : State, u.Settled → u.settleRound.Settled := fun u h => (settleRound_of_settled h).symm ▸ h
  have free := freeStrings_le s
  show s.settleRound.settleRound.settleRound.Settled
  rcases round s with h | h1
  · exact stays _ (stays _ h)
  rcases round s.settleRound with h | h2
  · exact stays _ h
  rcases round s.settleRound.settleRound with h | h3
  · exact h
  · omega

/-! ## Steps -/

theorem settled_of_strings {s t : State} (h : t.strings = s.strings) (hs : s.Settled) : t.Settled :=
  ⟨(congrArg StringController.due h).trans hs.1, (congrArg StringController.tells h).trans hs.2⟩

theorem kick_strings (s : State) : s.kick.strings = s.strings := by
  obtain ⟨tr, buf, e, -⟩ := kick_transmits s
  rw [e]
  rfl

theorem goOn_strings (s : State) : s.goOn.strings = s.strings := by
  unfold State.goOn
  split
  · split
    · rfl
    · exact kick_strings _
  · exact kick_strings s

theorem settled_event {m : Moment} {f : State → State} {s t : State} (h : s.Settled) (e : event m f s = .next t) :
    t.Settled := by
  cases e
  split
  · exact settled_of_strings (kick_strings _) (settle_settled _)
  · exact h

theorem settled_removal {m : Moment} {item : Nat} {tag : Byte} {f : List Byte} {g : Nat → State → State × Answer}
    {s t : State} (h : s.Settled) (e : removal m item tag f g s = .next t) : t.Settled := by
  unfold removal at e
  split at e
  · exact settled_event h e
  · exact settled_event h e

/-- A line change of a part held in reset moves the pin alone. -/
theorem settled_pinOr {m : Moment} {f : State → State} {line : Nat} {high : Bool} {s t : State} (h : s.Settled)
    (e : (if s.powered then event m f s else .next (s.withPin line high)) = .next t) : t.Settled := by
  split at e
  · exact settled_event h e
  · cases e
    exact h

theorem settled_start {kept : Bool} {phase : Moment} {s t : State} (e : execStart kept phase s = .next t) :
    t.Settled := by
  unfold execStart at e
  injection e with e
  rw [← e]
  exact settled_of_strings (kick_strings _) (settle_settled _)

theorem settled_exec {i : Instr} {s t : State} (h : s.Settled) (e : exec i s = .next t) : t.Settled := by
  cases i with
  | replySent m =>
    cases e
    split
    · exact settled_of_strings (goOn_strings _) (settle_settled _)
    · exact h
  | start kept phase => exact settled_start e
  | supplyLoss m cut =>
    cases e
    split
    · exact ⟨rfl, rfl⟩
    · exact h
  | fieldLineChange m line high => exact settled_pinOr h e
  | widthEdge m line high => exact settled_pinOr h e
  | clockTick m =>
    change execClockTick m s = _ at e
    unfold execClockTick at e
    split at e
    · exact settled_event h e
    · cases e
      exact h
  | removePath m tag f => exact settled_removal h e
  | removeSegment m tag f => exact settled_removal h e
  | removeGate m tag f => exact settled_removal h e
  | removeSign m tag f => exact settled_removal h e
  | removeProfile m tag f => exact settled_removal h e
  | removeGroup m tag f => exact settled_removal h e
  | _ => exact settled_event h e

end Sys2Proof.Proofs
end

section
/-! What the effects of the commands leave of the part's stores: they queue report records, and leave inbound queue,
outbox, what is being carried out and the step history to the blocks that own them (O52). -/

namespace Sys2Proof.Proofs

open Sys2Proof Sys2Proof.Machine Sys2Proof.Laws

/-! ## Logging -/

/-- From one state to another nothing happens to the stores but that reports are queued. -/
structure Logs (a s : State) : Prop where
  buffer : a.line.buffer.length ≤ 32 → s.line.buffer.length ≤ 32
  inbound : s.line.inbound = a.line.inbound
  outbox : s.line.outbox = a.line.outbox
  carrying : s.line.carrying = a.line.carrying
  history : s.weather.history = a.weather.history

theorem Logs.refl (s : State) : Logs s s := ⟨id, rfl, rfl, rfl, rfl⟩

section
variable {a s t : State} (h : Logs a s)
include h

theorem Logs.trans (k : Logs s t) : Logs a t :=
  ⟨k.buffer ∘ h.buffer, k.inbound.trans h.inbound, k.outbox.trans h.outbox, k.carrying.trans h.carrying,
    k.history.trans h.history⟩

/-- An update of other blocks. -/
theorem Logs.beside (hl : t.line = s.line) (hh : t.weather.history = s.weather.history) : Logs a t :=
  h.trans ⟨fun hb => hl ▸ hb, congrArg _ hl, congrArg _ hl, congrArg _ hl, hh⟩

/-- An update of the rest of the line. -/
theorem Logs.withLine (l : StationLine) (hb : l.buffer = s.line.buffer) (hi : l.inbound = s.line.inbound)
    (ho : l.outbox = s.line.outbox) (hc : l.carrying = s.line.carrying) : Logs a (s.withLine l) :=
  h.trans ⟨fun h32 => (congrArg List.length hb).trans_le h32, hi, ho, hc, rfl⟩

theorem Logs.reacts (k : Reaction s t) : Logs a t :=
  h.trans ⟨k.buffer_le, k.inbound, k.outbox, k.carrying, congrArg WeatherUnit.history k.weather⟩

theorem Logs.loose (k : LooseReaction s t) : Logs a t :=
  Logs.reacts (s := s.withNotices t.retained.notices) (h.beside rfl rfl) k

theorem Logs.report (b : ReportBody) : Logs a (s.report b) := h.reacts (reaction_report s b)

theorem Logs.reports (bs : List ReportBody) : Logs a (s.reports bs) := h.reacts (reaction_reports s bs)

theorem Logs.handOver (ks signs : List Nat) : Logs a (s.handOver ks signs) := h.reacts (reaction_handOver s ks signs)

theorem Logs.changeGate (k : Nat) (c : GateCause) (g : GateState) : Logs a (s.changeGate k c g) :=
  h.reacts (reaction_changeGate s k c g)

theorem Logs.kick : Logs a s.kick := by
  obtain ⟨tr, buf, e, hb⟩ := kick_transmits s
  have same : buf.length = s.line.buffer.length := by simpa using congrArg List.length hb
  rw [e]
  exact h.trans ⟨fun h32 => same.trans_le h32, rfl, rfl, rfl, rfl⟩

theorem Logs.change (f : Settings → Settings) : Logs a (s.change f) := h.beside rfl rfl

theorem Logs.withPanel (k : Nat) (p : Option PanelRecord) : Logs a (s.withPanel k p) := h.beside rfl rfl

theorem Logs.withSign (k : Nat) (c : Option SignState) : Logs a (s.withSign k c) := h.beside rfl rfl

/-! ## The Field Interface -/

theorem Logs.widthEdgeOn (line : Nat) (high : Bool) : Logs a (s.widthEdgeOn line high) := by
  refine keep_foldl (P := Logs a) (fun u x hu => ?_) _ s h
  split
  · exact hu.beside rfl rfl
  · exact hu

theorem Logs.lineTransition (line : Nat) (high : Bool) : Logs a (s.lineTransition line high) := by
  unfold State.lineTransition
  split
  · split
    · exact h
    · dsimp only
      split
      · refine Logs.widthEdgeOn ?_ line high
        exact h.beside rfl rfl
      · exact h.beside rfl rfl
  · exact h

theorem Logs.presenceChanged (k : Nat) (high : Bool) : Logs a (s.presenceChanged k high) := by
  have zoned : Logs a (match lookup s.settings.gates k, itemAt s.field.clearZones k with
      | some r, some z => s.withZone k (z.presence s.now r.clearHold high)
      | _, _ => s) := by
    split
    · exact h.beside rfl rfl
    · exact h
  unfold State.presenceChanged
  dsimp only
  split
  · exact zoned.reacts (reaction_presenceRose _ _)
  · exact zoned

theorem Logs.deliverChange (f : InputFunction) (high : Bool) : Logs a (s.deliverChange f high) := by
  cases f with
  | unused => exact h
  | vaneLine _ => exact h
  | vaneOk _ => exact h
  | presence k => exact h.presenceChanged k high
  | upSwitch k =>
    cases high with
    | false => exact h
    | true => exact h.reacts (reaction_upSwitchRose s k)
  | downSwitch k =>
    cases high with
    | false => exact h
    | true => exact h.reacts (reaction_downSwitchRose s k)
  | key k =>
    cases high with
    | false => exact h.reacts (reaction_keyFell s k)
    | true => exact h.reacts (reaction_keyRose s k)
  | counter k =>
    unfold State.deliverChange
    dsimp only
    split
    · split
      · exact h.beside rfl rfl
      · exact h
    · exact h

/-! ## Clock, notices and paths -/

theorem Logs.withNotices (l : List Notice) : Logs a (s.withNotices l) := h.beside rfl rfl

theorem Logs.walkList (now : Nat) : Logs a (s.walkList now).1 := (h.withNotices _).reports _

theorem Logs.handTouched (ks : List Nat) : Logs a (s.handTouched ks) := h.reacts (reaction_handTouched s ks)

theorem Logs.clockWalk (now : Nat) : Logs a (s.clockWalk now) := (h.walkList now).handTouched _

theorem Logs.setClock (new : Nat) : Logs a (s.setClock new) := by
  have set : Logs a { s.withClock (some new) with clockNext := s.now + usPerSecond } := h.beside rfl rfl
  unfold State.setClock
  dsimp only
  split
  · exact set.clockWalk _
  · exact set

theorem Logs.tick : Logs a s.tick := by
  unfold State.tick
  split
  · exact h
  · dsimp only
    split
    · refine Logs.clockWalk ?_ _
      exact h.beside rfl rfl
    · exact h.beside rfl rfl

theorem Logs.post (n : Notice) : Logs a (s.post n) :=
  ((h.withNotices _).reports _).handTouched _

theorem Logs.withdraw (n : Notice) : Logs a (s.withdraw n) :=
  ((h.withNotices _).report _).handTouched _

theorem Logs.handSegments (ks : List Nat) : Logs a (s.handSegments ks) := by
  unfold State.handSegments
  split
  · exact h
  · exact h.handOver _ _

theorem Logs.putPath (k : Nat) (r : PathRecord) : Logs a (s.putPath k r) := by
  refine Logs.handSegments ?_ _
  split <;> exact h.beside rfl rfl

theorem Logs.dropPath (k : Nat) (r : PathRecord) : Logs a (s.dropPath k r) :=
  Logs.handSegments (s := (s.change _).withFigures k _) (h.beside rfl rfl) _

theorem Logs.postFloor (k level duration : Nat) : Logs a (s.postFloor k level duration) :=
  Logs.loose (s := s.withFigures k _) (h.beside rfl rfl) (loose_handLevels _ _)

/-! ## Segments and gates -/

theorem Logs.putSegment (k : Nat) (r : SegmentRecord) : Logs a (s.putSegment k r) := by
  unfold State.putSegment
  split
  · exact Logs.report (s := (s.change _).withSegments _) (h.beside rfl rfl) _
  · exact (h.change _).handOver _ _

theorem Logs.dropSegment (k : Nat) : Logs a (s.dropSegment k) :=
  Logs.report (s := (s.change _).withSegments _) (h.beside rfl rfl) _

theorem Logs.handGateRecord (old : Option GateRecord) (new : GateRecord) : Logs a (handGateRecord old new s) := by
  cases old with
  | none => exact h.handOver _ _
  | some r => exact h.handOver _ _

theorem Logs.putGate (k : Nat) (r : GateRecord) : Logs a (s.putGate k r) :=
  (Logs.reports (s := gatePlaced k r s) (h.beside rfl rfl) _).handGateRecord _ _

theorem Logs.dropGate (k : Nat) (r : GateRecord) : Logs a (s.dropGate k r) :=
  (Logs.report (s := gateTaken k r s) (h.beside rfl rfl) _).handOver _ _

/-! ## Signs, profiles, pages and texts -/

theorem Logs.reportSign (k : Nat) (e : SignEvent) : Logs a (s.reportSign k e) := by
  unfold State.reportSign
  split
  · exact h.report _
  · exact h

theorem Logs.withTransfer (x : StringId) (t : Option Attempt) : Logs a (s.withTransfer x t) :=
  h.reacts (reaction_withTransfer s x t)

theorem Logs.orphanOn (x : StringId) (k : Nat) : Logs a (s.orphanOn x k) := by
  unfold State.orphanOn
  split
  · exact h
  · split
    · exact h.withTransfer _ _
    · exact h

theorem Logs.orphan (k : Nat) : Logs a (s.orphan k) := (h.orphanOn .a k).orphanOn .b k

theorem Logs.movePanel (k : Nat) : Logs a (s.movePanel k) := by
  have fresh : Logs a ((s.orphan k).withPanel k (some PanelRecord.fresh)) := (h.orphan k).withPanel k _
  refine Logs.reacts ?_ (reaction_tellSign _ _)
  split
  · exact fresh.reportSign _ _
  · exact fresh

theorem Logs.putSign (k : Nat) (r : SignRecord) : Logs a (s.putSign k r) := by
  unfold State.putSign
  split
  · have recomposed : ∀ c, Logs a (((s.change (Settings.setSign k (some r))).withSign k c).recomposeSign k).1 :=
      fun c => ((h.change _).withSign k c).reacts (reaction_recomposeSign _ _)
    refine Logs.reacts ?_ (reaction_handMarks _ _)
    dsimp only
    split
    · exact (recomposed _).movePanel _
    · exact recomposed _
  · refine Logs.reacts ?_ (reaction_handMarks _ [k])
    exact ((h.change _).withSign k _).withPanel k _

theorem Logs.dropSign (k : Nat) : Logs a (s.dropSign k) := by
  have told : Logs a (if s.inFault k then s.reportSign k .removed else s) := by
    split
    · exact h.reportSign _ _
    · exact h
  exact (((told.orphan k).change _).withSign k none).withPanel k none

theorem Logs.putProfile (k : Nat) (r : ProfileRecord) : Logs a (s.putProfile k r) :=
  (h.change _).reacts (reaction_recompose _ _)

theorem Logs.changePages (f : SignRecord → SignState → SignState) (ks : List Nat) :
    Logs a (ks.foldl (State.changePages f) s) := by
  refine keep_foldl (P := Logs a) (fun u k hu => ?_) ks s h
  unfold State.changePages
  split
  · exact hu.beside rfl rfl
  · exact hu

theorem Logs.loadTexts (entry : Nat) (ts : List (List Code)) : Logs a (s.loadTexts entry ts) :=
  (h.change _).reacts (reaction_recompose _ _)

/-! ## Strings -/

theorem Logs.endTransfer (x : StringId) : Logs a (s.endTransfer x) :=
  (h.withTransfer x none).reacts (reaction_arbitrate _ x)

theorem Logs.succeed (x : StringId) (t : Attempt) : Logs a (s.succeed x t) := by
  unfold State.succeed
  split
  · exact h.endTransfer x
  · split
    · rename_i p c _ _
      have confirmed : Logs a ((s.withPanel t.sign (some (p.confirm t.sent s.now))).withSign t.sign
          (some (c.confirm t.sent))) := (h.withPanel _ _).withSign _ _
      refine Logs.endTransfer (Logs.reacts ?_ (reaction_tellSign _ _)) x
      split
      · exact confirmed.reportSign _ _
      · exact confirmed
    · exact h.endTransfer x

theorem Logs.failAttempt (x : StringId) (t : Attempt) (c : Failure) : Logs a (s.failAttempt x t c) := by
  unfold State.failAttempt
  split
  · exact h.endTransfer x
  · split
    · exact h.endTransfer x
    · rename_i p _
      have failed : Logs a (s.withPanel t.sign (some (p.fail c s.now))) := h.withPanel _ _
      dsimp only
      split
      · exact failed.endTransfer x
      · split
        · exact failed.reacts (reaction_beginAttempt _ _ _ _)
        · exact ((failed.reportSign _ _).reacts (reaction_tellSign _ _)).endTransfer x

theorem Logs.stringByte (x : StringId) (b : Option Byte) : Logs a (s.stringByte x b) := by
  unfold State.stringByte
  split
  · exact h
  · split
    · exact h
    · split
      · exact h
      · unfold State.takeVerdict
        split
        · exact h.withTransfer _ _
        · exact h.succeed _ _
        · exact h.failAttempt _ _ _

theorem Logs.imageSent (x : StringId) : Logs a (s.imageSent x) := by
  unfold State.imageSent
  split
  · exact h
  · split
    · exact h.withTransfer _ _
    · exact h

theorem Logs.windowEnds (x : StringId) : Logs a (s.windowEnds x) := by
  unfold State.windowEnds
  split
  · exact h
  · split
    · exact h
    · split
      · exact h.failAttempt _ _ _
      · exact h

theorem Logs.chooseFor (k : Nat) (ready : PanelRecord → Bool) : Logs a (s.chooseFor k ready) := by
  unfold State.chooseFor
  split
  · split
    · exact h.reacts (reaction_arbitrate _ _)
    · exact h
  · exact h

/-! ## The attended state -/

theorem Logs.checkSilence : Logs a s.checkSilence := by
  unfold State.checkSilence
  split
  · exact (h.withLine { s.line with attended := false } rfl rfl rfl rfl).report _
  · exact h

theorem Logs.heard : Logs a s.heard := by
  have told : Logs a (if s.line.attended then s
      else (s.withLine { s.line with attended := true }).report (.linkAttended s.silence)) := by
    split
    · exact h
    · exact (h.withLine { s.line with attended := true } rfl rfl rfl rfl).report _
  exact told.withLine _ rfl rfl rfl rfl

/-! ## Starts -/

theorem Logs.startNotices (kind : StartKind) : Logs a (s.startNotices kind) := by
  cases kind with
  | cold => exact keep_foldl (P := Logs a) (fun u k hu => (hu.withNotices _).report _) _ s h
  | warm =>
    unfold State.startNotices
    dsimp only
    split
    · exact h.walkList _
    · exact h

theorem Logs.startSegments : Logs a s.startSegments := by
  refine Logs.beside (s := (entries s.settings.gates).foldl State.startWarning s.deriveSegments) ?_ rfl rfl
  refine keep_foldl (P := Logs a) (fun u x hu => ?_) _ _ (h.beside rfl rfl)
  unfold State.startWarning
  split
  · split
    · exact hu.beside rfl rfl
    · exact hu
  · exact hu

theorem Logs.startStrings : Logs a s.startStrings := by
  refine Logs.reacts ?_ (reaction_runArbiters _)
  exact h.beside rfl rfl

end

theorem startGates_logs (s : State) : Logs s s.startGates := by
  unfold State.startGates
  refine keep_foldl (P := Logs s) (fun u x hu => ?_) _ _ ((Logs.refl s).beside rfl rfl)
  split
  · exact hu.beside rfl rfl
  · exact hu

/-- A start queues reports in a buffer that begins empty. -/
theorem startPart_logs (s : State) (cause : StartCause) (requested : Bool) :
    Logs s.loaded (s.startPart cause requested) := by
  have composed : Logs s.loaded
      ((s.loaded.startGates.startNotices (startKind s.retained.checkHolds)).startSegments).startSigns :=
    ((startGates_logs s.loaded).startNotices _).startSegments.beside rfl rfl
  exact (composed.startStrings.report _).beside rfl rfl

end Sys2Proof.Proofs
end

section
/-! Every step keeps the stores within their sizes and the outbox in order: a request is answered only where no carried-out
request waits, and only a queue that is full refuses BUSY (O52). -/

namespace Sys2Proof.Proofs

open Sys2Proof Sys2Proof.Machine Sys2Proof.Laws

/-! ## The answers of the requests -/

/-- A request carried out: it logs, and its answer is no BUSY, which is the queue's own refusal (R182, R184). -/
def Answers (s : State) (x : State × Answer) : Prop := Logs s x.1 ∧ ∀ sub, x.2 ≠ .refused .busy sub

theorem answers_refuse {s : State} {code : RefusalCode} (h : code ≠ .busy) : Answers s (refuse code s) :=
  ⟨.refl s, fun _ e => h (Answer.refused.inj e).1⟩

theorem answers_accept {s u : State} (result : List Byte) (h : Logs s u) : Answers s (accept result u) :=
  ⟨h, nofun⟩

/-- A refusal that checks made one after the other have found. -/
theorem answers_found {s : State} {o : Option RefusalCode} {code : RefusalCode} (ho : o ≠ some .busy)
    (h : o = some code) : Answers s (refuse code s) :=
  answers_refuse fun e => ho (h.trans (congrArg some e))

theorem answers_removal {s : State} {fields : List Byte} {f : Nat → State → State × Answer}
    (hf : ∀ k, Answers s (f k s)) : Answers s (carryRemoval fields f s) := by
  unfold carryRemoval
  split
  · exact answers_refuse nofun
  · split
    · exact answers_refuse nofun
    · exact hf _

theorem answers_removeItem {α : Type} {n k : Nat} {table : Vector (Option α) n} {f : α → State → State × Answer}
    {s : State} (hf : ∀ r, Answers s (f r s)) : Answers s (removeItem k table f s) := by
  unfold removeItem
  split
  · exact answers_refuse nofun
  · split
    · exact answers_refuse nofun
    · exact hf _

theorem answers_queryItem {α : Type} {n : Nat} {fields : List Byte} {table : Vector (Option α) n}
    {reply : Nat → α → List Byte} {s : State} : Answers s (queryItem fields table reply s) := by
  unfold queryItem
  split
  · exact answers_refuse nofun
  · split
    · exact answers_refuse nofun
    · split
      · exact answers_refuse nofun
      · exact answers_accept _ (.refl s)

theorem answers_gateRequest {f : List Byte} {act : Nat → GateRecord → GateState → State → State × Answer} {s : State}
    (ha : ∀ k r g, Answers s (act k r g s)) : Answers s (gateRequest f act s) := by
  unfold gateRequest
  split
  · exact answers_refuse nofun
  · split
    · exact answers_refuse nofun
    · split
      · exact ha _ _ _
      · exact answers_refuse nofun

/-- A check that refuses with a code of its own, and what follows. -/
theorem answers_if {s : State} {p : Prop} [Decidable p] {code : RefusalCode} {x : State × Answer}
    (hc : code ≠ .busy) (hx : Answers s x) : Answers s (if p then refuse code s else x) := by
  split
  · exact answers_refuse hc
  · exact hx

section
variable (f : List Byte) (s : State)

/-! ## Clock, notices, paths and segments -/

theorem answers_timeSet : Answers s (carryTimeSet f s) :=
  answers_if nofun (answers_if nofun (answers_accept _ ((Logs.refl s).setClock _)))

theorem postRefusal_ne_busy (p : PostedNotice) : s.postRefusal p ≠ some .busy := by
  unfold State.postRefusal
  split_ifs <;> nofun

theorem answers_noticePost : Answers s (carryNoticePost f s) := by
  unfold carryNoticePost
  split
  · exact answers_refuse nofun
  · split
    · exact answers_found (postRefusal_ne_busy s _) ‹_›
    · exact answers_accept _ ((Logs.refl s).post _)

theorem answers_noticeWithdraw : Answers s (carryNoticeWithdraw f s) := by
  refine answers_if nofun ?_
  split
  · exact answers_refuse nofun
  · exact answers_accept _ ((Logs.refl s).withdraw _)

theorem answers_queryNotices : Answers s (carryQueryNotices f s) :=
  answers_if nofun (answers_if nofun (answers_accept _ (.refl s)))

theorem pathRefusal_ne_busy (c : Settings) : pathRefusal c f ≠ some .busy := by
  unfold pathRefusal
  split_ifs <;> nofun

theorem answers_definePath : Answers s (carryDefinePath f s) := by
  unfold carryDefinePath
  split
  · exact answers_found (pathRefusal_ne_busy f _) ‹_›
  · exact answers_accept _ ((Logs.refl s).putPath _ _)

theorem answers_removePath (k : Nat) : Answers s (carryRemovePath k s) :=
  answers_removeItem fun _ => answers_accept _ ((Logs.refl s).dropPath _ _)

theorem floorRefusal_ne_busy (c : Settings) : floorRefusal c f ≠ some .busy := by
  unfold floorRefusal
  split_ifs <;> nofun

theorem answers_pathFloor : Answers s (carryPathFloor f s) := by
  unfold carryPathFloor
  split
  · exact answers_found (floorRefusal_ne_busy f _) ‹_›
  · exact answers_accept _ ((Logs.refl s).postFloor _ _ _)

theorem segmentRefusal_ne_busy : segmentRefusal f ≠ some .busy := by
  unfold segmentRefusal
  split_ifs <;> nofun

theorem answers_defineSegment : Answers s (carryDefineSegment f s) := by
  unfold carryDefineSegment
  split
  · exact answers_found (segmentRefusal_ne_busy f) ‹_›
  · exact answers_accept _ ((Logs.refl s).putSegment _ _)

theorem answers_removeSegment (k : Nat) : Answers s (carryRemoveSegment k s) :=
  answers_removeItem fun _ => answers_if nofun (answers_accept _ ((Logs.refl s).dropSegment _))

/-! ## Gates -/

theorem gateRefusal_ne_busy : s.gateRefusal f ≠ some .busy := by
  unfold State.gateRefusal
  dsimp only
  split_ifs <;> nofun

theorem answers_defineGate : Answers s (carryDefineGate f s) := by
  unfold carryDefineGate
  split
  · exact answers_found (gateRefusal_ne_busy f s) ‹_›
  · exact answers_accept _ ((Logs.refl s).putGate _ _)

theorem answers_removeGate (k : Nat) : Answers s (carryRemoveGate k s) :=
  answers_removeItem fun _ => answers_if nofun (answers_accept _ ((Logs.refl s).dropGate _ _))

theorem answers_gateRaise : Answers s (carryGateRaise f s) := by
  refine answers_gateRequest fun k r g => answers_if nofun ?_
  split
  · exact ⟨.refl s, nofun⟩
  · split
    · exact ⟨.refl s, nofun⟩
    · exact answers_accept _ ((Logs.refl s).changeGate _ _ _)

theorem answers_gateClear : Answers s (carryGateClear f s) :=
  answers_gateRequest fun _ _ _ => answers_if nofun (answers_accept _ ((Logs.refl s).changeGate _ _ _))

/-! ## Signs, profiles, groups, pages and texts -/

theorem checkSign_ne_busy (c : Settings) : checkSign c f ≠ .error .busy := by
  unfold checkSign
  split
  · nofun
  · split
    · nofun
    · split_ifs <;> nofun

theorem answers_defineSign : Answers s (carryDefineSign f s) := by
  have answers := checkSign_ne_busy f s.settings
  unfold carryDefineSign
  split
  · rename_i code hc
    exact answers_refuse fun e => answers (hc.trans (congrArg Except.error e))
  · exact answers_accept _ ((Logs.refl s).putSign _ _)

theorem answers_removeSign (k : Nat) : Answers s (carryRemoveSign k s) := by
  refine answers_removeItem fun _ => ?_
  split
  · exact answers_accept _ ((Logs.refl s).dropSign _)
  · exact answers_refuse nofun

theorem answers_defineProfile : Answers s (carryDefineProfile f s) := by
  refine answers_if nofun (answers_if nofun ?_)
  split
  · exact answers_refuse nofun
  · exact answers_accept _ ((Logs.refl s).putProfile _ _)

theorem answers_removeProfile (k : Nat) : Answers s (carryRemoveProfile k s) := by
  refine answers_removeItem fun _ => ?_
  split
  · exact answers_accept _ ((Logs.refl s).beside rfl rfl)
  · exact answers_refuse nofun

theorem groupRefusal_ne_busy (c : Settings) : groupRefusal c f ≠ some .busy := by
  unfold groupRefusal
  dsimp only
  split_ifs <;> nofun

theorem answers_defineGroup : Answers s (carryDefineGroup f s) := by
  unfold carryDefineGroup
  split
  · exact answers_found (groupRefusal_ne_busy f _) ‹_›
  · exact answers_accept _ ((Logs.refl s).beside rfl rfl)

theorem answers_removeGroup (k : Nat) : Answers s (carryRemoveGroup k s) :=
  answers_removeItem fun _ => answers_accept _ ((Logs.refl s).beside rfl rfl)

theorem answers_pageWrite : Answers s (carryPageWrite f s) := by
  refine answers_if nofun ?_
  split
  · split
    · exact answers_refuse nofun
    · exact answers_accept _ ((Logs.refl s).changePages _ _)
  · exact answers_refuse nofun

theorem answers_pageSwap : Answers s (carryPageSwap f s) := by
  refine answers_if nofun ?_
  split
  · exact answers_refuse nofun
  · split
    · exact answers_refuse nofun
    · exact answers_accept _ (((Logs.refl s).changePages _ _).reacts (reaction_recompose _ _))

theorem answers_textLoad : Answers s (carryTextLoad f s) := by
  unfold carryTextLoad
  split
  · exact answers_refuse nofun
  · exact answers_if nofun (answers_accept _ ((Logs.refl s).loadTexts _ _))

theorem answers_queryText : Answers s (carryQueryText f s) :=
  answers_if nofun (answers_if nofun (answers_accept _ (.refl s)))

/-! ## The part as a whole -/

theorem checkCalibration_ne_busy (c : Settings) : checkCalibration c f ≠ .error .busy := by
  unfold checkCalibration
  split
  · nofun
  · split
    · nofun
    · split_ifs <;> nofun

theorem answers_calibrate : Answers s (carryCalibrate f s) := by
  have answers := checkCalibration_ne_busy f s.settings
  unfold carryCalibrate
  split
  · rename_i code hc
    exact answers_refuse fun e => answers (hc.trans (congrArg Except.error e))
  · exact answers_accept _ ((Logs.refl s).beside rfl rfl)

theorem answers_linkSet : Answers s (carryLinkSet f s) := by
  refine answers_if nofun (answers_if nofun ?_)
  split
  · exact answers_refuse nofun
  · refine answers_accept _ (Logs.checkSilence ?_)
    exact (Logs.refl s).beside rfl rfl

theorem answers_restart : Answers s (carryRestart f s) := by
  refine answers_if nofun ?_
  split
  · exact answers_refuse nofun
  · exact answers_accept _ ((Logs.refl s).withLine _ rfl rfl rfl rfl)

theorem answers_queryStatus : Answers s (carryQueryStatus f s) :=
  answers_if nofun (answers_accept _ (.refl s))

theorem answers_queryStep : Answers s (carryQueryStep f s) := by
  refine answers_if nofun ?_
  dsimp only
  split
  · exact answers_refuse nofun
  · exact answers_refuse nofun
  · exact answers_accept _ (.refl s)

theorem answers_unknown (body : List Byte) : Answers s (s, unknownAnswer body) := by
  cases body with
  | nil => exact answers_refuse (code := .malformed) nofun
  | cons b body => exact answers_refuse (code := .unknownKind) nofun

end

end Sys2Proof.Proofs
end

section
/-! The stores and the outbox at every command, and the statement that every step keeps them (O52). -/

namespace Sys2Proof.Proofs

open Sys2Proof Sys2Proof.Machine Sys2Proof.Laws

/-! ## Stores and outbox from one state to the next -/

/-- The stores stay within their sizes and the outbox in order. -/
def Orderly (s t : State) : Prop := (s.Bounded → t.Bounded) ∧ (s.OutboxInOrder → t.OutboxInOrder)

theorem Orderly.refl (s : State) : Orderly s s := ⟨id, id⟩

theorem Orderly.trans {s t u : State} (h : Orderly s t) (k : Orderly t u) : Orderly s u :=
  ⟨k.1 ∘ h.1, k.2 ∘ h.2⟩

theorem outboxInOrder_congr {s t : State} (ho : t.line.outbox = s.line.outbox)
    (hc : t.line.carrying = s.line.carrying) (h : s.OutboxInOrder) : t.OutboxInOrder := by
  unfold State.OutboxInOrder StationLine.carriedReplies at h ⊢
  rwa [ho, hc]

theorem Logs.bounded {s t : State} (h : Logs s t) : s.Bounded → t.Bounded := fun ⟨hb, hi, hh⟩ =>
  ⟨h.buffer hb, (congrArg List.length h.inbound).trans_le hi, (congrArg List.length h.history).trans_le hh⟩

theorem Logs.orderly {s t : State} (h : Logs s t) : Orderly s t :=
  ⟨h.bounded, outboxInOrder_congr h.outbox h.carrying⟩

/-- Where both hold of what a state comes to, they are kept from any state. -/
theorem Orderly.of_logs {s u t : State} (hb : u.Bounded) (ho : u.OutboxInOrder) (h : Logs u t) : Orderly s t :=
  ⟨fun _ => h.orderly.1 hb, fun _ => h.orderly.2 ho⟩

/-! ## Placing replies -/

/-- A reply placed changes no store. -/
theorem placeReply_bounded (s : State) (r : Reply) (h : s.Bounded) : (s.placeReply r).Bounded := by
  obtain ⟨tr, buf, sch, e, hb⟩ := placeReply_eq s r
  obtain ⟨h32, hi, hh⟩ := h
  have same : buf.length = s.line.buffer.length := by simpa using congrArg List.length hb
  rw [e]
  exact ⟨same.trans_le h32, hi, hh⟩

theorem placeReply_outbox (s : State) (r : Reply) : (s.placeReply r).line.outbox = s.line.outbox ++ [r] := by
  obtain ⟨tr, buf, sch, e, -⟩ := placeReply_eq s r
  rw [e]
  rfl

theorem placeReply_carrying (s : State) (r : Reply) : (s.placeReply r).line.carrying = s.line.carrying := by
  obtain ⟨tr, buf, sch, e, -⟩ := placeReply_eq s r
  rw [e]
  rfl

theorem isBusy_answered {tag kind : Byte} {a : Answer} (h : ∀ sub, a ≠ .refused .busy sub) :
    Reply.isBusy ⟨tag, kind, a⟩ = false := by
  unfold Reply.isBusy
  split
  · exact absurd ‹_› (h _)
  · rfl

/-- The reply to a carried-out request is placed where none waits and nothing is being carried out. -/
theorem placeReply_answered {s : State} {r : Reply} (hr : r.isBusy = false) (hc : s.line.carrying = none)
    (hw : s.line.carriedReplies = []) (hb : (s.line.outbox.filter Reply.isBusy).length ≤ 4) :
    (s.placeReply r).OutboxInOrder := by
  unfold StationLine.carriedReplies at hw
  unfold State.OutboxInOrder StationLine.carriedReplies
  rw [placeReply_outbox, placeReply_carrying, hc, List.filter_append, List.filter_append, hw]
  simpa [hr] using hb

/-- A BUSY reply is placed where fewer than four wait. -/
theorem placeReply_busy {s : State} {r : Reply} (hr : r.isBusy = true)
    (hb : (s.line.outbox.filter Reply.isBusy).length < 4) (h : s.OutboxInOrder) : (s.placeReply r).OutboxInOrder := by
  unfold State.OutboxInOrder StationLine.carriedReplies at h ⊢
  rw [placeReply_outbox, placeReply_carrying, List.filter_append, List.filter_append]
  simpa [hr] using ⟨h.1, Nat.succ_le_of_lt hb⟩

/-! ## Events -/

theorem orderly_react {f : State → State} (hf : ∀ s, Orderly s (f s)) (s : State) : Orderly s (s.react f) :=
  (hf s).trans ((Logs.refl (f s)).reacts (reaction_settle (f s))).kick.orderly

theorem orderly_event {m : Moment} {f : State → State} {s t : State} (hf : ∀ s, Orderly s (f s))
    (e : event m f s = .next t) : Orderly s t := by
  cases e
  split
  · exact ((Logs.refl s).beside (t := s.elapse m) rfl rfl).orderly.trans (orderly_react hf _)
  · exact .refl s

/-- An event whose effect only logs. -/
theorem logged_event {m : Moment} {f : State → State} {s t : State} (hf : ∀ s, Logs s (f s))
    (e : event m f s = .next t) : Orderly s t := orderly_event (fun s => (hf s).orderly) e

theorem orderly_if {c : State → Prop} [DecidablePred c] {f : State → State} (hf : ∀ s, Orderly s (f s)) (s : State) :
    Orderly s (if c s then f s else s) := keep_if (P := Orderly s) (fun _ h => h.trans (hf _)) s (.refl s)

theorem logged_if {c : State → Prop} [DecidablePred c] {f : State → State} (hf : ∀ s, Logs s (f s)) (s : State) :
    Logs s (if c s then f s else s) := keep_if (P := Logs s) (fun _ h => h.trans (hf _)) s (.refl s)

/-! ## Requests (R184) -/

/-- What a request that can be taken finds: nothing carried out, and no reply but BUSY replies. -/
theorem waiting_of_takes {s : State} {f : Frame} (h : s.takes f = true) :
    s.line.carrying = none ∧ s.line.carriedReplies = [] := by
  obtain ⟨⟨hc, ho⟩, -⟩ : (s.line.carrying.isNone = true ∧ s.line.outbox.all Reply.isBusy = true) ∧ _ := by
    simpa only [State.takes, State.canTake, Bool.and_eq_true] using h
  refine ⟨Option.isNone_iff_eq_none.mp hc, List.filter_eq_nil_iff.mpr fun r hr => ?_⟩
  simp [List.all_eq_true.mp ho r hr]

theorem popFrame_bounded (s : State) (h : s.Bounded) : s.popFrame.Bounded := by
  obtain ⟨hb, hi, hh⟩ := h
  have shorter : s.line.inbound.tail.length ≤ 4 := by
    rw [List.length_tail]
    omega
  exact ⟨hb, shorter, hh⟩

theorem orderly_carryOut {s : State} {frame : Frame} {kind tag : Byte} {F : State → State × Answer}
    (ht : s.takes frame = true) (hF : ∀ s, Answers s (F s)) : Orderly s (s.carryOut kind tag F) := by
  obtain ⟨hl, hbusy⟩ := hF s.popFrame
  obtain ⟨hc, hw⟩ := waiting_of_takes ht
  have settled : Logs s.popFrame (F s.popFrame).1.settle := hl.reacts (reaction_settle _)
  have outbox : (F s.popFrame).1.settle.line.outbox = s.line.outbox := settled.outbox
  refine ⟨fun h => placeReply_bounded _ _ (settled.bounded (popFrame_bounded s h)), fun h => ?_⟩
  refine placeReply_answered (isBusy_answered hbusy) (settled.carrying.trans hc) ?_ ?_
  · exact (congrArg (List.filter _) outbox).trans hw
  · exact (congrArg (fun l => (List.filter Reply.isBusy l).length) outbox).trans_le h.2

theorem orderly_request {m : Moment} {kind tag : Byte} {f : List Byte} {F : State → State × Answer} {s t : State}
    (hF : ∀ s, Answers s (F s)) (e : request m kind tag f F s = .next t) : Orderly s t := by
  refine orderly_event (fun s => ?_) e
  split
  · exact orderly_carryOut ‹_› hF
  · exact .refl s

theorem orderly_removal {m : Moment} {item : Nat} {tag : Byte} {f : List Byte} {g : Nat → State → State × Answer}
    {s t : State} (hg : ∀ s k, Answers s (g k s)) (e : removal m item tag f g s = .next t) : Orderly s t := by
  unfold removal at e
  split at e
  · exact orderly_request (fun s => answers_removal (hg s)) e
  · exact orderly_event .refl e

theorem orderly_unknownKind {m : Moment} {kind : Byte} {body : List Byte} {s t : State}
    (e : execUnknownKind m kind body s = .next t) : Orderly s t := by
  refine orderly_event (fun s => ?_) e
  split
  · exact orderly_carryOut (Bool.and_eq_true_iff.mp ‹_›).2 fun s => answers_unknown s body
  · exact .refl s

/-! ## The Settings Store (R184, R196, R197) -/

/-- A write that begins is carried out where no reply to a carried-out request waits. -/
theorem orderly_beginSave {s : State} {frame : Frame} (tag : Byte) (ht : s.takes frame = true) :
    Orderly s (s.popFrame.beginSave tag) := by
  obtain ⟨-, hw⟩ := waiting_of_takes ht
  refine ⟨popFrame_bounded s, fun h => ⟨?_, h.2⟩⟩
  show s.line.carriedReplies.length + 1 ≤ 1
  simp [hw]

theorem orderly_saveSettings {m : Moment} {tag : Byte} {f : List Byte} {s t : State}
    (e : execSaveSettings m tag f s = .next t) : Orderly s t := by
  refine orderly_event (fun s => ?_) e
  split
  · split
    · exact orderly_beginSave tag ‹_›
    · exact orderly_carryOut ‹_› fun s => answers_refuse nofun
  · exact .refl s

/-- The reply to SAVE SETTINGS takes the place of the request that was being carried out. -/
theorem orderly_answerSave {a : Answer} (ha : ∀ sub, a ≠ .refused .busy sub) (s : State) :
    Orderly s (s.answerSave a) := by
  unfold State.answerSave
  split
  · exact .refl s
  · rename_i tag hc
    refine ⟨fun h => placeReply_bounded _ _ h, fun h => ?_⟩
    have carried : s.line.carriedReplies.length + 1 ≤ 1 := by simpa [hc] using h.1
    have none_waits : s.line.carriedReplies = [] :=
      List.eq_nil_of_length_eq_zero (Nat.le_zero.mp (Nat.le_of_succ_le_succ carried))
    exact placeReply_answered (isBusy_answered ha) rfl none_waits h.2

theorem orderly_saveDone (w : StoreWrite) (s : State) : Orderly s (s.saveDone w) := by
  refine Orderly.trans ?_ (orderly_answerSave ?_ _)
  · exact ((Logs.refl s).beside rfl rfl).orderly
  · nofun

theorem orderly_saveFailed (s : State) : Orderly s s.saveFailed := by
  refine Orderly.trans ?_ (orderly_answerSave ?_ _)
  · exact ((Logs.refl s).beside rfl rfl).orderly
  · nofun

theorem orderly_storeWriteEnd {m : Moment} {accepted : Bool} {s t : State}
    (e : execStoreWriteEnd m accepted s = .next t) : Orderly s t := by
  refine orderly_event (fun s => ?_) e
  split
  · exact .refl s
  · split
    · exact orderly_saveDone _ s
    · exact orderly_saveFailed s

theorem orderly_storeWriteTimeout {m : Moment} {s t : State} (e : execStoreWriteTimeout m s = .next t) :
    Orderly s t := by
  refine orderly_event (fun s => ?_) e
  split
  · exact .refl s
  · split
    · exact orderly_saveFailed s
    · exact .refl s

/-! ## The receiver (R180 to R182) -/

theorem orderly_joinQueue (s : State) (f : Frame) : Orderly s (s.joinQueue f) := by
  unfold State.joinQueue
  split
  · rename_i hroom
    refine ⟨fun ⟨hb, hi, hh⟩ => ⟨hb, ?_, hh⟩, id⟩
    have room : s.line.inbound.length < 4 := hroom
    simpa using room
  · split
    · exact ⟨placeReply_bounded s _, placeReply_busy rfl ‹_›⟩
    · exact .refl s

theorem dropFrame_logs (s : State) : Logs s s.dropFrame := (Logs.refl s).withLine _ rfl rfl rfl rfl

theorem orderly_receiveByte (s : State) (b : Byte) : Orderly s (s.receiveByte b) := by
  have taken : Logs s (s.withLine { s.line with receiver := (s.line.receiver.take b).1, lastByte := s.now }) :=
    (Logs.refl s).withLine _ rfl rfl rfl rfl
  unfold State.receiveByte
  dsimp only
  split
  · exact taken.orderly
  · exact taken.heard.orderly.trans (orderly_joinQueue _ _)

theorem orderly_receiveBytes (bs : List Byte) (s : State) : Orderly s (s.receiveBytes bs) := by
  unfold State.receiveBytes
  split
  · exact .refl s
  · exact keep_foldl (P := Orderly s) (fun u b h => h.trans (orderly_receiveByte u b)) _ _
      (logged_if (c := fun s => s.gapPassed = true) dropFrame_logs s).orderly

/-! ## The transmitter (R183, R189) -/

theorem reportsGone_orderly (s : State) : Orderly s s.reportsGone :=
  ⟨fun ⟨hb, hi, hh⟩ => ⟨(List.length_filter_le _ _).trans hb, hi, hh⟩, id⟩

theorem goOn_logs (s : State) : Logs s s.goOn := by
  have taken : Logs s s.choiceTaken := (Logs.refl s).beside rfl rfl
  unfold State.goOn
  split
  · split
    · exact taken
    · exact taken.kick
  · exact (Logs.refl s).kick

/-- The oldest reply leaves the outbox. -/
theorem replySent_orderly {s : State} {r : Reply} {rest : List Reply} (ho : s.line.outbox = r :: rest) :
    Orderly s (s.withLine { s.line with transmitter := .free, outbox := rest }) := by
  have shorter : ∀ p : Reply → Bool, (rest.filter p).length ≤ (s.line.outbox.filter p).length := fun p => by
    rw [ho]
    exact ((List.sublist_cons_self r rest).filter p).length_le
  refine ⟨id, fun h => ⟨(Nat.add_le_add_right (shorter _) _).trans h.1, (shorter _).trans h.2⟩⟩

/-! ## Starts -/

theorem loaded_bounded (s : State) : s.loaded.Bounded := ⟨Nat.zero_le 32, Nat.zero_le 4, Nat.zero_le 36⟩

theorem loaded_inOrder (s : State) : s.loaded.OutboxInOrder := ⟨Nat.zero_le 1, Nat.zero_le 4⟩

theorem orderly_startPart (s t : State) (cause : StartCause) (requested : Bool) :
    Orderly t (s.startPart cause requested) :=
  .of_logs (loaded_bounded s) (loaded_inOrder s) (startPart_logs s cause requested)

theorem orderly_replyGone (s : State) : Orderly s s.replyGone := by
  unfold State.replyGone
  split
  · rename_i r rest _ ho
    dsimp only
    split
    · exact replySent_orderly ho
    · split
      · exact replySent_orderly ho
      · exact orderly_startPart _ _ _ _
  · exact .refl s

theorem orderly_replySent {m : Moment} {s t : State} (e : execReplySent m s = .next t) : Orderly s t := by
  cases e
  split
  · have sent : Orderly s (s.elapse m).replyGone :=
      ((Logs.refl s).beside (t := s.elapse m) rfl rfl).orderly.trans (orderly_replyGone _)
    exact sent.trans (((Logs.refl _).reacts (reaction_settle _)).trans (goOn_logs _)).orderly
  · exact .refl s

theorem orderly_start {kept : Bool} {phase : Moment} {s t : State} (e : execStart kept phase s = .next t) :
    Orderly s t := by
  unfold execStart at e
  injection e with e
  rw [← e]
  exact (orderly_startPart _ s _ _).trans ((Logs.refl _).reacts (reaction_settle _)).kick.orderly

theorem orderly_supplyLoss {m : Moment} {cut : Bool} {s t : State} (e : execSupplyLoss m cut s = .next t) :
    Orderly s t := by
  cases e
  split
  · exact ⟨fun _ => ⟨Nat.zero_le 32, Nat.zero_le 4, Nat.zero_le 36⟩, fun _ => ⟨Nat.zero_le 1, Nat.zero_le 4⟩⟩
  · exact .refl s

/-! ## The step end (R45) -/

theorem addToHistory_length_le (l : List StepRecord) (r : StepRecord) (h : l.length ≤ 36) :
    (addToHistory l r).length ≤ 36 := by
  rw [addToHistory_eq r h, List.length_drop, List.length_append, List.length_singleton]
  omega

theorem orderly_endStep (s : State) : Orderly s s.endStep := by
  have closed : Orderly s (s.closeStep s.stepRecord).emptyChannels :=
    ⟨fun ⟨hb, hi, hh⟩ => ⟨hb, hi, addToHistory_length_le _ _ hh⟩, id⟩
  have indices : ∀ (u : State) es, Logs u (u.takeIndices es) := fun u es => by
    unfold State.takeIndices
    dsimp only
    refine Logs.loose ?_ (loose_handLevels _ _)
    rw [foldl_withFigures_eq]
    exact (Logs.refl u).beside rfl rfl
  have readouts : ∀ (u : State) r, Logs u (u.takeReadouts r) := fun u r => by
    refine Logs.reacts ?_ (reaction_recompose _ _)
    exact (Logs.refl u).beside rfl rfl
  exact closed.trans ((((Logs.refl _).report _).trans (indices _ _)).trans (readouts _ _)).orderly

/-! ## The field, the clock and the strings -/

/-- A line change of a part held in reset moves the pin alone. -/
theorem orderly_pinOr {m : Moment} {f : State → State} {line : Nat} {high : Bool} {s t : State}
    (hf : ∀ s, Logs s (f s)) (e : (if s.powered then event m f s else .next (s.withPin line high)) = .next t) :
    Orderly s t := by
  split at e
  · exact logged_event hf e
  · cases e
    exact .refl s

theorem orderly_clockTick {m : Moment} {s t : State} (e : execClockTick m s = .next t) : Orderly s t := by
  unfold execClockTick at e
  split at e
  · exact logged_event (logged_if fun s => (Logs.refl s).tick) e
  · cases e
    exact .refl s

theorem orderly_changeEvent {m : Moment} {line : Nat} {s t : State} (e : execChangeEvent m line s = .next t) :
    Orderly s t := by
  refine logged_event (fun s => ?_) e
  split
  · refine Logs.deliverChange ?_ _ _
    exact (Logs.refl s).beside rfl rfl
  · exact .refl s

theorem zoneEnded_logs (k : Nat) (s : State) : Logs s ((s.withZone k .idle).loweringTest k) :=
  Logs.reacts (s := s.withZone k .idle) ((Logs.refl s).beside rfl rfl) (reaction_loweringTest _ _)

theorem sampledOnce_logs (s : State) : Logs s (sampledOnce s) := (Logs.refl s).beside rfl rfl

/-- Every command keeps the stores within their sizes and the outbox in order. -/
theorem orderly_exec {i : Instr} {s t : State} (e : exec i s = .next t) : Orderly s t := by
  cases i with
  | timeSet m tag f => exact orderly_request (answers_timeSet f) e
  | noticePost m tag f => exact orderly_request (answers_noticePost f) e
  | noticeWithdraw m tag f => exact orderly_request (answers_noticeWithdraw f) e
  | pageWrite m tag f => exact orderly_request (answers_pageWrite f) e
  | pageSwap m tag f => exact orderly_request (answers_pageSwap f) e
  | textLoad m tag f => exact orderly_request (answers_textLoad f) e
  | gateRaise m tag f => exact orderly_request (answers_gateRaise f) e
  | gateClear m tag f => exact orderly_request (answers_gateClear f) e
  | pathFloor m tag f => exact orderly_request (answers_pathFloor f) e
  | restart m tag f => exact orderly_request (answers_restart f) e
  | definePath m tag f => exact orderly_request (answers_definePath f) e
  | defineSegment m tag f => exact orderly_request (answers_defineSegment f) e
  | defineGate m tag f => exact orderly_request (answers_defineGate f) e
  | defineSign m tag f => exact orderly_request (answers_defineSign f) e
  | defineProfile m tag f => exact orderly_request (answers_defineProfile f) e
  | defineGroup m tag f => exact orderly_request (answers_defineGroup f) e
  | removePath m tag f => exact orderly_removal answers_removePath e
  | removeSegment m tag f => exact orderly_removal answers_removeSegment e
  | removeGate m tag f => exact orderly_removal answers_removeGate e
  | removeSign m tag f => exact orderly_removal answers_removeSign e
  | removeProfile m tag f => exact orderly_removal answers_removeProfile e
  | removeGroup m tag f => exact orderly_removal answers_removeGroup e
  | calibrate m tag f => exact orderly_request (answers_calibrate f) e
  | linkSet m tag f => exact orderly_request (answers_linkSet f) e
  | saveSettings m tag f => exact orderly_saveSettings e
  | queryStatus m tag f => exact orderly_request (answers_queryStatus f) e
  | queryPath m tag f => exact orderly_request (fun _ => answers_queryItem) e
  | querySegment m tag f => exact orderly_request (fun _ => answers_queryItem) e
  | queryGate m tag f => exact orderly_request (fun _ => answers_queryItem) e
  | querySign m tag f => exact orderly_request (fun _ => answers_queryItem) e
  | queryNotices m tag f => exact orderly_request (answers_queryNotices f) e
  | queryStep m tag f => exact orderly_request (answers_queryStep f) e
  | queryText m tag f => exact orderly_request (answers_queryText f) e
  | unknownKind m kind body => exact orderly_unknownKind e
  | stationFrameReceived m bytes => exact orderly_event (orderly_receiveBytes bytes) e
  | badLength m length => exact orderly_event (orderly_if (orderly_receiveBytes [length])) e
  | missingStopBit m => exact logged_event dropFrame_logs e
  | gapExpiry m => exact logged_event (logged_if dropFrame_logs) e
  | replySent m => exact orderly_replySent e
  | reportAgeExpiry m => exact logged_event .refl e
  | reportFrameSent m => exact orderly_event (orderly_if reportsGone_orderly) e
  | silenceLimitReached m => exact logged_event (fun s => (Logs.refl s).checkSilence) e
  | storeWriteEnd m accepted => exact orderly_storeWriteEnd e
  | storeWriteTimeout m => exact orderly_storeWriteTimeout e
  | start kept phase => exact orderly_start e
  | supplyLoss m cut => exact orderly_supplyLoss e
  | fieldLineChange m line high => exact orderly_pinOr (fun s => (Logs.refl s).lineTransition line high) e
  | widthEdge m line high => exact orderly_pinOr (logged_if fun s => (Logs.refl s).lineTransition line high) e
  | changeEvent m line => exact orderly_changeEvent e
  | vaneSample m => exact logged_event (logged_if sampledOnce_logs) e
  | stepEnd m => exact orderly_event (orderly_if orderly_endStep) e
  | clockTick m => exact orderly_clockTick e
  | holdDeadline m k => exact logged_event (fun s => (Logs.refl s).reacts (reaction_loweringTest s k)) e
  | clearZoneExpiry m k => exact logged_event (logged_if (zoneEnded_logs k)) e
  | travelTimeout m k => exact logged_event (logged_if fun s => (Logs.refl s).reacts (reaction_travelExpired s k)) e
  | refreshDue m k => exact logged_event (fun s => (Logs.refl s).chooseFor k _) e
  | retryDue m k => exact logged_event (fun s => (Logs.refl s).chooseFor k _) e
  | imageFrameSent m x => exact logged_event (fun s => (Logs.refl s).imageSent x) e
  | shownFrameReceived m x bytes =>
    exact logged_event (fun s => keep_foldl (P := Logs s) (fun _ b h => h.stringByte x b) bytes s (.refl s)) e
  | replyWindowEnd m x => exact logged_event (fun s => (Logs.refl s).windowEnds x) e

/-! ## Steps -/

/-- A step is a command on the state without it in the queue, or nothing. -/
theorem step_cases {s t : State} (e : step s = .next t) :
    t = s ∨ ∃ c rest, s.pending = c :: rest ∧ exec c { s with pending := rest } = .next t := by
  unfold step at e
  split at e
  · cases e
    exact Or.inl rfl
  · exact Or.inr ⟨_, _, ‹_›, e⟩

theorem orderly_step {s t : State} (e : step s = .next t) : Orderly s t := by
  obtain rfl | ⟨c, rest, -, hx⟩ := step_cases e
  · exact .refl _
  · have queued : Orderly s { s with pending := rest } := ⟨id, id⟩
    exact queued.trans (orderly_exec hx)

theorem settled_step {s t : State} (h : s.Settled) (e : step s = .next t) : t.Settled := by
  obtain rfl | ⟨c, rest, -, hx⟩ := step_cases e
  · exact h
  · have queued : State.Settled { s with pending := rest } := h
    exact settled_exec queued hx

/-- Settles O52: every command keeps the stores and the outbox, and settles the blocks. -/
theorem storesStayBounded : Obligations.StoresStayBounded :=
  ⟨fun _ _ h e => (orderly_step e).1 h, fun _ _ h e => (orderly_step e).2 h, fun _ _ => settled_step⟩

end Sys2Proof.Proofs
end

section
/-! The weather step in the statements' words: the record of a step from the totals of its channels (O6), and index and
level of a path (O7). -/

namespace Sys2Proof.Proofs

open Sys2Proof Sys2Proof.Machine Sys2Proof.Laws Sys2Proof.Claims

/-! ## Index and level of a path (R36 to R39, R55, R56) -/

/-- The candidate level is the highest level whose threshold the index reaches (R55). -/
theorem threshold_le_iff {r : PathRecord} (h12 : r.t1 < r.t2) (h23 : r.t2 < r.t3) (h34 : r.t3 < r.t4) (h : Nat)
    {k : Nat} (hk : 1 ≤ k ∧ k ≤ 4) : r.threshold k ≤ h ↔ k ≤ r.candidate h := by
  obtain ⟨h1, h4⟩ := hk
  unfold PathRecord.candidate
  interval_cases k
  all_goals
    simp only [PathRecord.threshold]
    split_ifs <;> omega

/-- Settles O7: the raw index is the statement's own, and the candidate is the highest threshold reached. -/
theorem indexAndLevelOfPath : Obligations.IndexAndLevelOfPath := by
  refine ⟨fun r w h => ?_, fun r level h h12 h23 h34 _ _ => ?_⟩
  · unfold hazardUpdate
    rw [rawIndex_eq]
  · refine ⟨r.candidate h, candidate_le r h, fun k h1 h4 => threshold_le_iff h12 h23 h34 h ⟨h1, h4⟩, ?_, ?_, ?_⟩
    · intro rises
      exact if_pos rises
    · intro stays
      simp [PathRecord.levelAfter, stays]
    · intro falls
      unfold PathRecord.levelAfter
      rw [if_neg (by omega)]
      exact if_congr (by simp only [falls, decide_true, Bool.true_and, decide_eq_true_eq]; omega) rfl rfl

/-! ## Precipitation and wind (R28, R32) -/

theorem precipitation_eq (tips size : Nat) :
    precipitation tips size = (min (tips * size / 10) 500, decide (500 < tips * size / 10)) := by
  unfold precipitation
  dsimp only
  split
  · exact Prod.ext (by simp only; omega) (by simp [*])
  · exact Prod.ext (by simp only; omega) (by simp [*])

theorem windSpeed_eq (pulses run : Nat) :
    windSpeed pulses run = (min (pulses * run / 60000) 600, decide (600 < pulses * run / 60000)) := by
  unfold windSpeed
  dsimp only
  split
  · exact Prod.ext (by simp only; omega) (by simp [*])
  · exact Prod.ext (by simp only; omega) (by simp [*])

/-- The precipitation of a step's record from its tips. -/
theorem stepRecord_precipitation (s : State) :
    (s.stepRecord.p, s.stepRecord.flags.pClamp) = precipitation s.stepRecord.tips s.settings.calibration.tipSize := rfl

/-- The wind speed of a step's record from its pulses. -/
theorem stepRecord_wind (s : State) :
    (s.stepRecord.u, s.stepRecord.flags.uClamp) = windSpeed s.stepRecord.pulses s.settings.calibration.airRun := rfl

theorem stepRecord_tips (s : State) : s.stepRecord.tips = eventCount (s.roleTotals .precip) := rfl

theorem stepRecord_noPrecip (s : State) : s.stepRecord.flags.noPrecip = (s.roleTotals .precip).isNone := rfl

theorem stepRecord_pulses (s : State) : s.stepRecord.pulses = eventCount (s.roleTotals .wind) := rfl

/-- What a step's record says of precipitation and wind. -/
theorem stepRecord_gauges (s : State) :
    (s.stepRecord.p = min (s.stepRecord.tips * s.settings.calibration.tipSize / 10) 500 ∧
      (s.stepRecord.flags.pClamp = true ↔ 500 < s.stepRecord.tips * s.settings.calibration.tipSize / 10)) ∧
    s.stepRecord.u = min (s.stepRecord.pulses * s.settings.calibration.airRun / 60000) 600 ∧
    (s.stepRecord.flags.uClamp = true ↔ 600 < s.stepRecord.pulses * s.settings.calibration.airRun / 60000) := by
  obtain ⟨hp, hpc⟩ := Prod.mk.inj ((stepRecord_precipitation s).trans (precipitation_eq _ _))
  obtain ⟨hu, huc⟩ := Prod.mk.inj ((stepRecord_wind s).trans (windSpeed_eq _ _))
  exact ⟨⟨hp, hpc ▸ decide_eq_true_iff⟩, hu, huc ▸ decide_eq_true_iff⟩

/-! ## Temperature (R29, R30) -/

/-- What a step's record says of temperature, with the memory after it. -/
theorem stepRecord_temperature {s : State} {count sum : Nat} (h : widthTotals (s.roleTotals .temp) = (count, sum))
    {t : Option Int} {state : TempState} {memory : Option TempMemory}
    (ht : temperature s.retained.lastTemp count sum = (t, state, memory)) :
    s.stepRecord.tempPulses = count ∧ s.stepRecord.t = t ∧ s.stepRecord.tState = state ∧ s.memoryAfter = memory ∧
      s.stepRecord.flags.tHeld = state.isHeld ∧ s.stepRecord.flags.tFault = (state == .fault) := by
  have pulses : s.stepRecord.tempPulses = (widthTotals (s.roleTotals .temp)).1 := rfl
  have value : (s.stepRecord.t, s.stepRecord.tState, s.memoryAfter) = temperature s.retained.lastTemp
      (widthTotals (s.roleTotals .temp)).1 (widthTotals (s.roleTotals .temp)).2 := rfl
  have held : s.stepRecord.flags.tHeld = s.stepRecord.tState.isHeld := rfl
  have fault : s.stepRecord.flags.tFault = (s.stepRecord.tState == .fault) := rfl
  rw [h] at pulses value
  obtain ⟨e1, e2⟩ := Prod.mk.inj (value.trans ht)
  obtain ⟨e2, e3⟩ := Prod.mk.inj e2
  rw [e2] at held fault
  exact ⟨pulses, e1, e2, e3, held, fault⟩

theorem temperature_valid {memory : Option TempMemory} {count sum : Nat} (h : 60 ≤ count) :
    temperature memory count sum = (some (stepTemperature count sum), .valid, some ⟨stepTemperature count sum, 0⟩) :=
  if_pos h

theorem temperature_held {v : Int} {n count sum : Nat} (h : count < 60) (hn : n ≤ 2) :
    temperature (some ⟨v, n⟩) count sum = (some v, .held (n + 1), some ⟨v, n + 1⟩) := by
  unfold temperature
  rw [if_neg (by omega)]
  exact if_pos (show n < 3 by omega)

theorem temperature_fault {memory : Option TempMemory} {count sum : Nat} (h : count < 60)
    (hm : memory = none ∨ ∃ v, memory = some ⟨v, 3⟩) : temperature memory count sum = (none, .fault, memory) := by
  unfold temperature
  rw [if_neg (by omega)]
  obtain rfl | ⟨v, rfl⟩ := hm
  · rfl
  · rfl

theorem widthTotals_of_role {o : Option ChannelTotals} {count sum : Nat}
    (h : (∃ m, o = some (.width count sum m)) ∨ (o = none ∧ count = 0 ∧ sum = 0)) : widthTotals o = (count, sum) := by
  obtain ⟨m, rfl⟩ | ⟨rfl, rfl, rfl⟩ := h
  · rfl
  · rfl

/-! ## Prevailing sector (R33, R34) -/

/-- The count of a sector's bin. -/
def binAt (bins : Vector Nat 8) (k : Nat) : Nat := bins.toList.getD k 0

theorem binAt_empty (k : Nat) : binAt (Vector.replicate 8 0) k = 0 := by
  rw [binAt, Vector.toList_replicate]
  by_cases h : k < 8
  · exact List.getD_replicate _ h
  · exact List.getD_eq_default _ _ (by simpa using h)

theorem le_foldl_max (l : List Nat) (a : Nat) : a ≤ l.foldl max a ∧ ∀ x ∈ l, x ≤ l.foldl max a := by
  induction l generalizing a with
  | nil => simp
  | cons y l ih =>
    obtain ⟨hle, hmem⟩ := ih (max a y)
    refine ⟨(le_max_left a y).trans hle, fun x hx => ?_⟩
    obtain rfl | hx := List.mem_cons.mp hx
    · exact (le_max_right a x).trans hle
    · exact hmem x hx

theorem foldl_max_mem (l : List Nat) (a : Nat) : l.foldl max a = a ∨ l.foldl max a ∈ l := by
  induction l generalizing a with
  | nil => exact Or.inl rfl
  | cons y l ih =>
    rcases ih (max a y) with h | h
    · rcases max_choice a y with e | e
      · exact Or.inl (h.trans e)
      · exact Or.inr (List.mem_cons.mpr (Or.inl (h.trans e)))
    · exact Or.inr (List.mem_cons_of_mem _ h)

theorem binAt_mem (bins : Vector Nat 8) {k : Nat} (h : k < 8) : binAt bins k ∈ bins.toList := by
  have hk : k < bins.toList.length := by simpa using h
  rw [binAt, List.getD_eq_getElem _ _ hk]
  exact List.getElem_mem hk

theorem binAt_le_largest (bins : Vector Nat 8) {k : Nat} (h : k < 8) : binAt bins k ≤ largestBin bins :=
  (le_foldl_max bins.toList 0).2 _ (binAt_mem bins h)

/-- Some bin is the largest. -/
theorem exists_largest (bins : Vector Nat 8) : ∃ k, k < 8 ∧ binAt bins k = largestBin bins := by
  rcases foldl_max_mem bins.toList 0 with h | h
  · have zero : binAt bins 0 ≤ 0 := (binAt_le_largest bins (by omega)).trans_eq h
    exact ⟨0, by omega, (Nat.le_zero.mp zero).trans h.symm⟩
  · obtain ⟨k, hk, e⟩ := List.getElem_of_mem h
    refine ⟨k, by simpa using hk, ?_⟩
    rw [binAt, List.getD_eq_getElem _ _ hk]
    exact e

theorem mem_tiedSectors {bins : Vector Nat 8} {k : Nat} :
    k ∈ tiedSectors bins ↔ k < 8 ∧ binAt bins k = largestBin bins := by
  unfold tiedSectors
  rw [List.mem_filter, List.mem_range]
  refine and_congr_right fun hk => ?_
  have hv : bins[k]? = some (binAt bins k) := by
    have hl : k < bins.toList.length := by simpa using hk
    rw [binAt, List.getD_eq_getElem _ _ hl]
    simp [hk]
  rw [hv]
  simp

/-- The first of the tied sectors is tied and the lowest. -/
theorem headD_tiedSectors (bins : Vector Nat 8) :
    (tiedSectors bins).headD 0 ∈ tiedSectors bins ∧ ∀ j ∈ tiedSectors bins, (tiedSectors bins).headD 0 ≤ j := by
  obtain ⟨k, hk⟩ := exists_largest bins
  have sorted : (tiedSectors bins).Pairwise (· < ·) := List.pairwise_lt_range.filter _
  have some_tied : k ∈ tiedSectors bins := mem_tiedSectors.mpr hk
  revert sorted some_tied
  cases tiedSectors bins with
  | nil => exact fun _ h => absurd h List.not_mem_nil
  | cons x l =>
    intro sorted _
    refine ⟨List.mem_cons_self .., fun j hj => ?_⟩
    obtain rfl | hj := List.mem_cons.mp hj
    · exact le_rfl
    · exact ((List.pairwise_cons.mp sorted).1 j hj).le

/-- The sector among the tied ones: one of the largest bins, the previous sector where it is tied, and else the lowest
number (R33, R34). -/
theorem breakTie_spec (bins : Vector Nat 8) (previous : Option Nat) :
    ∃ k, breakTie (tiedSectors bins) previous = k ∧ k ∈ tiedSectors bins ∧
      (∀ p, previous = some p → p ∈ tiedSectors bins → k = p) ∧
      ((∀ p, previous = some p → p ∉ tiedSectors bins) → ∀ j ∈ tiedSectors bins, k ≤ j) := by
  obtain ⟨hmem, hle⟩ := headD_tiedSectors bins
  cases previous with
  | none => exact ⟨_, rfl, hmem, nofun, fun _ => hle⟩
  | some p =>
    by_cases hp : p ∈ tiedSectors bins
    · refine ⟨p, if_pos (List.contains_iff_mem.mpr hp), hp, fun q e _ => Option.some.inj e, fun h => ?_⟩
      exact absurd hp (h p rfl)
    · refine ⟨_, if_neg fun h => hp (List.contains_iff_mem.mp h), hmem, fun q e hq => ?_, fun _ => hle⟩
      cases e
      exact absurd hq hp

theorem stepRecord_vane (s : State) : (s.stepRecord.bins, s.stepRecord.invalid) = vaneTotals (s.roleTotals .vane) := rfl

theorem stepRecord_sector (s : State) :
    s.stepRecord.sector = prevailingSector s.stepRecord.bins s.stepRecord.invalid s.retained.prevSector := rfl

theorem stepRecord_vaneFlag (s : State) : s.stepRecord.flags.vane = s.stepRecord.sector.isNone := rfl

/-- The prevailing sector of a step with at most 300 invalid samples. -/
theorem prevailing_spec {s : State} (h : s.stepRecord.invalid ≤ 300) :
    ∃ k, k < 8 ∧ s.stepRecord.sector = some k ∧ (∀ j, j < 8 → binAt s.stepRecord.bins j ≤ binAt s.stepRecord.bins k) ∧
      (∀ p, s.retained.prevSector = some p → p < 8 → binAt s.stepRecord.bins p = binAt s.stepRecord.bins k → k = p) ∧
      ((∀ p, s.retained.prevSector = some p → ¬ (p < 8 ∧ binAt s.stepRecord.bins p = binAt s.stepRecord.bins k)) →
        ∀ j, j < k → binAt s.stepRecord.bins j < binAt s.stepRecord.bins k) := by
  obtain ⟨k, hb, hk, hprev, hlow⟩ := breakTie_spec s.stepRecord.bins s.retained.prevSector
  obtain ⟨h8, hmax⟩ := mem_tiedSectors.mp hk
  have sector : s.stepRecord.sector = some k := by
    rw [stepRecord_sector, prevailingSector, if_neg (by omega), hb]
  refine ⟨k, h8, sector, fun j hj => hmax ▸ binAt_le_largest _ hj, fun p hp hp8 he => ?_, fun hno j hj => ?_⟩
  · exact hprev p hp (mem_tiedSectors.mpr ⟨hp8, he.trans hmax⟩)
  · have lowest := hlow fun p hp ht => hno p hp (by rw [hmax]; exact mem_tiedSectors.mp ht)
    have bound : binAt s.stepRecord.bins j ≤ binAt s.stepRecord.bins k := hmax ▸ binAt_le_largest _ (hj.trans h8)
    refine lt_of_le_of_ne bound fun e => ?_
    exact absurd (lowest j (mem_tiedSectors.mpr ⟨hj.trans h8, e.trans hmax⟩)) (Nat.not_le.mpr hj)

/-! ## The statement -/

/-- Settles O6: each part of the record by the totals of its channel. -/
theorem stepRecordFromTotals : Obligations.StepRecordFromTotals := by
  refine ⟨fun s => ?_, fun s count sum htemp => ?_, fun s bin hbin => ?_⟩
  · obtain ⟨⟨hp, hpc⟩, hu, huc⟩ := stepRecord_gauges s
    refine ⟨⟨hp, hpc, fun h0 => ?_, fun n hn => ?_⟩, hu, huc, fun h0 => ?_, fun n hn => ?_⟩
    · have tips : s.stepRecord.tips = 0 := by rw [stepRecord_tips, h0]; rfl
      refine ⟨tips, by rw [hp, tips]; simp, by rw [stepRecord_noPrecip, h0]; rfl, Bool.eq_false_iff.mpr fun hc => ?_⟩
      have above := hpc.mp hc
      rw [tips] at above
      omega
    · exact ⟨by rw [stepRecord_tips, hn]; rfl, by rw [stepRecord_noPrecip, hn]; rfl⟩
    · have pulses : s.stepRecord.pulses = 0 := by rw [stepRecord_pulses, h0]; rfl
      exact ⟨pulses, by rw [hu, pulses]; simp⟩
    · rw [stepRecord_pulses, hn]
      rfl
  · have totals := widthTotals_of_role htemp
    refine ⟨congrArg Prod.fst totals, fun hv => ?_, fun hl v n hm hn => ?_, fun hl hm => ?_⟩
    · obtain ⟨-, ht, hst, hmem, hh, hf⟩ := stepRecord_temperature totals (temperature_valid hv)
      exact ⟨_, rfl, ht, hst, hmem, hh, hf⟩
    · obtain ⟨-, hrest⟩ := stepRecord_temperature totals
        ((congrArg (temperature · count sum) hm).trans (temperature_held hl hn))
      exact hrest
    · obtain ⟨-, hrest⟩ := stepRecord_temperature totals (temperature_fault hl hm)
      exact hrest
  · obtain rfl : bin = binAt s.stepRecord.bins := funext hbin
    refine ⟨fun hi => ?_, fun hi => ?_, fun h0 => ?_, fun bins invalid hb => ?_⟩
    · have sector : s.stepRecord.sector = none := by rw [stepRecord_sector, prevailingSector, if_pos hi]
      exact ⟨sector, by rw [stepRecord_vaneFlag, sector]; rfl⟩
    · obtain ⟨k, hk, sector, hrest⟩ := prevailing_spec hi
      exact ⟨by rw [stepRecord_vaneFlag, sector]; rfl, k, hk, sector, hrest⟩
    · have totals : (s.stepRecord.bins, s.stepRecord.invalid) = (Vector.replicate 8 0, 600) :=
        (stepRecord_vane s).trans (congrArg vaneTotals h0)
      obtain ⟨bins, invalid⟩ := Prod.mk.inj totals
      refine ⟨invalid, fun k => ?_, ?_⟩
      · rw [bins]
        exact binAt_empty k
      · rw [stepRecord_sector, prevailingSector, if_pos (by omega)]
    · exact Prod.mk.inj ((stepRecord_vane s).trans (congrArg vaneTotals hb))

end Sys2Proof.Proofs
end

section
/-! The queries, which answer what the part holds and change nothing, and the frames that name no request (O47). -/

namespace Sys2Proof.Proofs

open Sys2Proof Sys2Proof.Machine Sys2Proof.Laws Sys2Proof.Claims

/-! ## Frames that name no request (R184) -/

/-- A frame that is popped and answered by an event, with nothing else done and nothing to settle. -/
theorem event_answers {m : Moment} {kind tag : Byte} {a : Answer} {f : State → State} {s : State}
    (hp : s.powered = true) (hs : s.Settled)
    (hf : f (s.elapse m) = (s.elapse m).carryOut kind tag fun s => (s, a)) :
    ∃ t, event m f s = .next t ∧ Passed m s t ∧ Answered s t kind tag a ∧ Quiet [.inbound, .outbox] s t := by
  obtain ⟨tr, buf, sch, e, hb⟩ := carryOut_eq kind tag (fun s => (s, a)) (s.elapse m)
  dsimp only at e hb
  have nothing : (s.elapse m).popFrame.settle = (s.elapse m).popFrame := settle_of_empty _ hs.1 hs.2
  rw [nothing] at e hb
  obtain ⟨tr', buf', er, hb'⟩ := react_exact f (s.elapse m) (by rw [hf, e]; exact hs.1) (by rw [hf, e]; exact hs.2)
  have reached : (s.elapse m).react f = ((s.elapse m).popFrame.withSchedule sch).withLine
      { (s.elapse m).popFrame.line with
        outbox := (s.elapse m).popFrame.line.outbox ++ [⟨tag, kind, a⟩], transmitter := tr', buffer := buf' } := by
    rw [er, hf, e]
    rfl
  have records : buf'.map Buffered.record = s.line.buffer.map Buffered.record := by
    rw [hb', hf, e]
    exact hb
  refine ⟨_, event_powered m f s hp, ?_⟩
  rw [reached]
  refine ⟨rfl, ⟨rfl, rfl⟩, ?_, records, rfl⟩
  exact Frame.mono (Frame.trans (frame_popped m s) (frame_relined _ _ _ _ _)) (by decide)

/-- UNKNOWN_KIND refuses the oldest frame where it names no request. -/
theorem unknownKind_refuses {m : Moment} {kind : Byte} {body : List Byte} {s : State} (hp : s.powered = true)
    (hs : s.Settled) (hc : s.line.carrying = none) (ho : s.line.outbox.all Reply.isBusy = true)
    (hh : s.line.inbound.head? = some ⟨kind, body⟩) (hk : (body.isEmpty || !isRequestKind kind) = true) :
    ∃ t, Taken (.unknownKind m kind body) m kind (body.headD 0) (unknownAnswer body) s t ∧
      Quiet [.inbound, .outbox] s t := by
  have takes : (s.elapse m).takes ⟨kind, body⟩ = true := by
    simp [State.takes, State.canTake, hc, ho, hh]
  obtain ⟨t, e, hpass, hans, hq⟩ := event_answers (m := m) (kind := kind) (tag := body.headD 0)
    (a := unknownAnswer body)
    (f := fun s => if (body.isEmpty || !isRequestKind kind) && s.takes ⟨kind, body⟩ then
      s.carryOut kind (body.headD 0) (fun s => (s, unknownAnswer body)) else s) hp hs
    (if_pos (Bool.and_eq_true_iff.mpr ⟨hk, takes⟩))
  exact ⟨t, ⟨e, hpass, hans⟩, hq⟩

/-! ## The queries -/

section
variable {i : Instr} {m : Moment} {kind tag : Byte} {f : List Byte} {s : State} (hs : s.Settled)
  (hr : Ready s kind tag f)
include hs hr

/-- A request that changes nothing is taken with its answer. -/
theorem query_answers {F : State → State × Answer} {a : Answer} (hi : exec i s = request m kind tag f F s)
    (hF : F (s.elapse m).popFrame = ((s.elapse m).popFrame, a)) :
    ∃ t, Taken i m kind tag a s t ∧ Quiet [.inbound, .outbox] s t := by
  obtain ⟨t, e, hp, ha, hq⟩ := request_same m kind tag f F s a hr hs hF
  exact ⟨t, ⟨hi.trans e, hp, ha⟩, hq⟩

end

/-- A query of one item answers the reply of the item's record, and UNKNOWN_ITEM where there is none. -/
theorem queryItem_answer {α : Type} {n : Nat} {f : List Byte} {table : Vector (Option α) n}
    {reply : Nat → α → List Byte} {s : State} {a : Answer} (hl : f.length = 1) (h1 : 1 ≤ byteAt f 0)
    (hn : byteAt f 0 ≤ n) (hd : ∀ r, lookup table (byteAt f 0) = some r → a = .done (reply (byteAt f 0) r))
    (hu : lookup table (byteAt f 0) = none → a = .refused .unknownItem .noReason) :
    queryItem f table reply s = (s, a) := by
  rw [queryItem_eq f table reply s hl h1 hn]
  cases h : lookup table (byteAt f 0) with
  | none => rw [hu h]
  | some r => rw [hd r h]

theorem textReply_eq (texts : Vector (List Code) 256) (entry count : Nat) :
    textReply texts entry count =
      byte (min count (256 - entry)) :: ((texts.toList.drop entry).take count).flatMap textBytes := by
  unfold textReply
  simp

/-- The answer of QUERY STEP: the record that is found, or UNKNOWN_ITEM (R46). -/
def stepAnswer : Option StepRecord → Answer
  | some r => .done (stepBytes r)
  | none => .refused .unknownItem .noReason

theorem carryQueryStep_eq {f : List Byte} {s : State} {found : Option StepRecord} (hl : f.length = 3)
    (hf : (byteAt f 0 = 1 ∧ found = s.weather.history.getLast?) ∨
      (byteAt f 0 = 2 ∧ found = s.weather.history.find? (fun r => r.number == wordAt f 1))) :
    carryQueryStep f s = (s, stepAnswer found) := by
  unfold carryQueryStep
  rw [if_neg (not_not.mpr hl)]
  obtain ⟨form, rfl⟩ | ⟨form, rfl⟩ := hf
  · rw [form]
    dsimp only
    cases s.weather.history.getLast? <;> rfl
  · rw [form]
    dsimp only
    cases s.weather.history.find? fun r => r.number == wordAt f 1 <;> rfl

/-- Settles O47: an unknown frame is popped and refused; a query is a request whose carrying out changes nothing. -/
theorem queriesAnswer : Obligations.QueriesAnswer := by
  refine ⟨fun m s kind body hp hs hc ho hh => ⟨?_, ?_⟩, fun m tag f s hs => ⟨?_, ?_, ?_, ?_, ?_, ?_, ?_, ?_⟩⟩
  · rintro rfl
    exact unknownKind_refuses hp hs hc ho hh rfl
  · rintro tag rest rfl hk
    have unknown : isRequestKind kind = false := by simpa [isRequestKind] using hk
    exact unknownKind_refuses hp hs hc ho hh (by simp [unknown])
  · rintro hr rfl
    exact query_answers hs hr rfl rfl
  · exact fun hr hl h1 hn => query_answers hs hr rfl (queryItem_answer hl h1 hn
      (fun r (e : lookup s.settings.paths _ = _) => by rw [e]; rfl)
      fun (e : lookup s.settings.paths _ = _) => by rw [e])
  · exact fun hr hl h1 hn => query_answers hs hr rfl (queryItem_answer hl h1 hn
      (fun r (e : lookup s.settings.segments _ = _) => by rw [e]; rfl)
      fun (e : lookup s.settings.segments _ = _) => by rw [e])
  · exact fun hr hl h1 hn => query_answers hs hr rfl (queryItem_answer hl h1 hn
      (fun r (e : lookup s.settings.gates _ = _) => by rw [e]; rfl)
      fun (e : lookup s.settings.gates _ = _) => by rw [e])
  · exact fun hr hl h1 hn => query_answers hs hr rfl (queryItem_answer hl h1 hn
      (fun r (e : lookup s.settings.signs _ = _) => by rw [e]; rfl)
      fun (e : lookup s.settings.signs _ = _) => by rw [e])
  · intro hr hl h1 hn
    refine query_answers hs hr rfl ?_
    unfold carryQueryNotices
    rw [if_neg (not_not.mpr hl), if_neg (by simp [within_iff, h1, hn])]
    rfl
  · intro hr hl found hf
    exact query_answers hs hr rfl (carryQueryStep_eq hl hf)
  · intro hr hl h1 hn
    refine query_answers hs hr rfl ?_
    unfold carryQueryText
    rw [if_neg (not_not.mpr hl), if_neg (by simp [within_iff, h1, hn]), textReply_eq]
    rfl

end Sys2Proof.Proofs
end

section
/-! SUPPORT. The report records a reaction queues: those of segments and gates alone (R95, R132). Composing signs and
granting strings queue none; a hand-over and the settling of the blocks queue no other. -/

namespace Sys2Proof.Proofs

open Sys2Proof Sys2Proof.Machine Sys2Proof.Laws Sys2Proof.Claims

/-! ## Composing and granting leave the station line -/

@[simp] theorem withTransfer_line (s : State) (x : StringId) (a : Option Attempt) :
    (s.withTransfer x a).line = s.line := by
  cases x <;> rfl

@[simp] theorem beginAttempt_line (s : State) (x : StringId) (k n : Nat) : (s.beginAttempt x k n).line = s.line := by
  unfold State.beginAttempt
  split
  · exact withTransfer_line s x _
  · rfl

@[simp] theorem grant_line (s : State) (x : StringId) (k : Nat) : (s.grant x k).line = s.line := by
  have delivered : ∀ p, ((s.beginDelivery k p).beginAttempt x k 1).line = s.line := fun p => beginAttempt_line _ x k 1
  unfold State.grant
  split
  · rfl
  · split
    · exact beginAttempt_line s x k 1
    · exact delivered _
    · exact delivered _
    · rfl

@[simp] theorem arbitrate_line (s : State) (x : StringId) : (s.arbitrate x).line = s.line := by
  unfold State.arbitrate
  split
  · rfl
  · split
    · rfl
    · exact grant_line s x _

@[simp] theorem runArbiters_line (s : State) : s.runArbiters.line = s.line := by
  have arbiter : ∀ (u : State) (x : StringId) (c : Bool), (if c then u.arbitrate x else u).line = u.line := by
    intro u x c
    split
    · exact arbitrate_line u x
    · rfl
  exact (arbiter _ .b _).trans (arbiter (s.withStrings _) .a _)

@[simp] theorem mayChoose_line (s : State) (x : StringId) : (s.mayChoose x).line = s.line := by
  unfold State.mayChoose
  split
  · split
    · rfl
    · exact arbitrate_line _ x
  · rfl

@[simp] theorem handMarks_line (s : State) (ks : List Nat) : (s.handMarks ks).line = s.line := by
  unfold State.handMarks
  split
  · rfl
  · have called := keep_foldl (P := fun u : State => u.line = s.line) (f := fun u x => u.callArbiter x)
      (fun _ _ h => h) (s.settings.stringsOf ks) s rfl
    exact ((mayChoose_line _ .b).trans (mayChoose_line _ .a)).trans called

@[simp] theorem recomposeSign_line (s : State) (k : Nat) : (s.recomposeSign k).1.line = s.line := by
  unfold State.recomposeSign
  split
  · dsimp only
    split <;> rfl
  · rfl

@[simp] theorem recomposeAll_line (ks marked : List Nat) (s : State) :
    (State.recomposeAll ks marked s).1.line = s.line := by
  induction ks generalizing s marked with
  | nil => rfl
  | cons k ks ih =>
    unfold State.recomposeAll
    exact (ih _ _).trans (recomposeSign_line s k)

@[simp] theorem recompose_line (s : State) (ks : List Nat) : (s.recompose ks).line = s.line :=
  (handMarks_line _ _).trans (recomposeAll_line ks [] s)

/-! ## Reactions with their reports -/

/-- A record of a segment or of a gate. -/
def OfRoad : ReportBody → Prop
  | .segment .. => True
  | .gate .. => True
  | _ => False

/-- From one state to another the clock stays and records of segments and gates alone are queued. -/
def RoadReports (s t : State) : Prop :=
  t.retained.clock = s.retained.clock ∧
    ∃ bs, (∀ b ∈ bs, OfRoad b) ∧ recordsOf t.line = recordsOf (s.reports bs).line

/-- Clock and records as they were. -/
theorem RoadReports.of_records {s t : State} (hc : t.retained.clock = s.retained.clock)
    (hl : recordsOf t.line = recordsOf s.line) : RoadReports s t :=
  ⟨hc, [], by simp, hl⟩

/-- A reaction that leaves the station line queues nothing. -/
theorem RoadReports.of_line {s t : State} (h : Reaction s t) (hl : t.line = s.line) : RoadReports s t :=
  .of_records (congrArg Retained.clock h.retained) (congrArg recordsOf hl)

theorem RoadReports.refl (s : State) : RoadReports s s := .of_line (.refl s) rfl

theorem RoadReports.trans {s t u : State} (h : RoadReports s t) (k : RoadReports t u) : RoadReports s u := by
  obtain ⟨hclock, bs, hb, hl⟩ := h
  obtain ⟨kclock, cs, hc, kl⟩ := k
  refine ⟨kclock.trans hclock, bs ++ cs, fun b hm => (List.mem_append.mp hm).elim (hb b) (hc b), ?_⟩
  have reported : (s.reports bs).retained.clock = s.retained.clock :=
    congrArg Retained.clock (reaction_reports s bs).retained
  rw [kl, reports_append]
  exact reports_records cs t (s.reports bs) hl (hclock.trans reported.symm)

theorem RoadReports.foldl {α : Type} {f : State → α → State} (hf : ∀ s x, RoadReports s (f s x)) (xs : List α)
    (s : State) : RoadReports s (xs.foldl f s) :=
  keep_foldl (P := RoadReports s) (fun u x h => h.trans (hf u x)) xs s (.refl s)

theorem roadReports_reports (s : State) {bs : List ReportBody} (h : ∀ b ∈ bs, OfRoad b) :
    RoadReports s (s.reports bs) :=
  ⟨congrArg Retained.clock (reaction_reports s bs).retained, bs, h, rfl⟩

theorem roadReports_recompose (s : State) (ks : List Nat) : RoadReports s (s.recompose ks) :=
  .of_line (reaction_recompose s ks) (recompose_line s ks)

/-! ## Segments and gates -/

/-- A re-derivation reports its segment or nothing (R95). -/
theorem ofRoad_rederived (d : Rederived) : ∀ b ∈ d.reports, OfRoad b := by
  intro b hb
  unfold Rederived.reports at hb
  split at hb
  · obtain rfl := List.mem_singleton.mp hb
    trivial
  · cases hb

theorem roadReports_evaluate (s : State) (ks : List Nat) : RoadReports s (s.evaluate ks).1 := by
  have derived : ∀ v (ds : List Rederived),
      RoadReports s ((s.withSegments v).reports (ds.flatMap Rederived.reports)) := fun v ds =>
    RoadReports.trans (t := s.withSegments v) (.of_line (reaction_withSegments s v) rfl)
      (roadReports_reports _ fun b hb => by
        obtain ⟨d, -, hd⟩ := List.mem_flatMap.mp hb
        exact ofRoad_rederived d b hd)
  unfold State.evaluate
  dsimp only
  split
  · exact derived _ _
  · exact (derived _ _).trans (roadReports_recompose _ _)

theorem roadReports_changeGateWith {f : GateRecord → State → State} (hf : ∀ r s, RoadReports s (f r s)) (k : Nat)
    (c : GateCause) (g : GateState) (s : State) : RoadReports s (s.changeGateWith f k c g) := by
  unfold State.changeGateWith
  split
  · rename_i r old _ _
    have replaced : RoadReports s (s.withGate k (some g)) := .of_line (reaction_withGate s k _) rfl
    have told : RoadReports s (if old.position = g.position then s.withGate k (some g)
        else (s.withGate k (some g)).report (.gate k (some old.position) (some g.position) g.reversals c)) := by
      split
      · exact replaced
      · exact replaced.trans (roadReports_reports (s.withGate k (some g)) (bs := [_]) (by simp [OfRoad]))
    dsimp only
    split
    · exact told
    · exact (told.trans (.of_line (reaction_applyOrder _ _) rfl)).trans (hf r _)
  · exact .refl s

theorem roadReports_answerTell (s : State) (x : Nat × Bool) : RoadReports s (s.answerTell x) := by
  have quiet : ∀ r s, RoadReports s (handOnQuiet r s) := fun r s =>
    (roadReports_evaluate s _).trans (roadReports_recompose _ _)
  unfold State.answerTell
  split
  · split
    · exact roadReports_changeGateWith quiet _ _ _ s
    · exact roadReports_changeGateWith quiet _ _ _ s
    · exact .refl s
  · exact .refl s

theorem roadReports_handOver (s : State) (ks signs : List Nat) : RoadReports s (s.handOver ks signs) := by
  have answered : ∀ (u : State) xs, RoadReports u (u.answerTells xs) := fun u xs =>
    RoadReports.foldl roadReports_answerTell xs u
  unfold State.handOver
  dsimp only
  split
  · exact (roadReports_evaluate s ks).trans (answered _ _)
  · exact ((roadReports_evaluate s ks).trans (roadReports_recompose _ _)).trans (answered _ _)

theorem roadReports_loweringTest (s : State) (k : Nat) : RoadReports s (s.loweringTest k) := by
  unfold State.loweringTest
  split
  · split
    · exact roadReports_changeGateWith (fun _ u => roadReports_handOver u _ _) _ _ _ s
    · exact .refl s
  · exact .refl s

theorem roadReports_reviewHold (s : State) (k : Nat) : RoadReports s (s.reviewHold k) := by
  unfold State.reviewHold
  split
  · split
    · exact RoadReports.trans (t := s.withGate k _) (.of_line (reaction_withGate s k _) rfl)
        (roadReports_loweringTest _ _)
    · exact .refl s
  · exact .refl s

/-! ## Settling -/

theorem roadReports_giveTells (s : State) : RoadReports s s.giveTells :=
  RoadReports.trans (t := s.withStrings { s.strings with tells := [] }) (.of_line (reaction_withStrings s _) rfl)
    (RoadReports.foldl (fun u k => RoadReports.foldl roadReports_reviewHold (u.settings.approached k) u) _ _)

theorem roadReports_settleRound (s : State) : RoadReports s s.settleRound :=
  (roadReports_giveTells s).trans (.of_line (reaction_runArbiters _) (runArbiters_line _))

theorem roadReports_settle (s : State) : RoadReports s s.settle :=
  ((roadReports_settleRound s).trans (roadReports_settleRound _)).trans (roadReports_settleRound _)

/-! ## Requests -/

/-- A request is answered by one next state. -/
theorem request_unique {m : Moment} {kind tag : Byte} {f : List Byte} {F : State → State × Answer} {s t u : State}
    (ht : request m kind tag f F s = .next t) (hu : request m kind tag f F s = .next u) : t = u :=
  Host.Outcome.next.inj (ht.symm.trans hu)

theorem roadReports_kick (s : State) : RoadReports s s.kick := by
  obtain ⟨tr, buf, h, hb⟩ := kick_transmits s
  rw [h]
  exact .of_records rfl (congrArg (fun x => (x, _)) hb)

/-- After an effect the blocks that settle queue records of segments and gates alone. -/
theorem roadReports_react (f : State → State) (s : State) : RoadReports (f s) (s.react f) :=
  (roadReports_settle (f s)).trans (roadReports_kick (f s).settle)

theorem roadReports_carryOut (kind tag : Byte) (F : State → State × Answer) (s : State) :
    RoadReports (F s.popFrame).1 (s.carryOut kind tag F) := by
  obtain ⟨tr, buf, sch, h, hb⟩ := carryOut_eq kind tag F s
  rw [h]
  refine (roadReports_settle (F s.popFrame).1).trans ?_
  generalize (F s.popFrame).1.settle = u at hb
  exact .of_records rfl (congrArg (fun x => (x, _)) hb)

/-- From the state its carrying out leaves, a taken request queues records of segments and gates alone. -/
theorem request_roadReports {m : Moment} {kind tag : Byte} {f : List Byte} {F : State → State × Answer} {s t : State}
    (hr : Ready s kind tag f) (he : request m kind tag f F s = .next t) :
    RoadReports (F (s.elapse m).popFrame).1 t := by
  rw [← request_unique (request_taken m kind tag f F s hr.1 (takes_of_ready hr)) he]
  exact (roadReports_carryOut kind tag F (s.elapse m)).trans
    (roadReports_react (fun u => u.carryOut kind tag F) (s.elapse m))

end Sys2Proof.Proofs
end

section
/-! PATH_FLOOR: the floor's figures, the change of the effective level, and the autonomous closures its trigger asks for
(O26). What a request that hands on its changes comes to stands first. -/

namespace Sys2Proof.Proofs

open Sys2Proof Sys2Proof.Machine Sys2Proof.Laws Sys2Proof.Claims

/-! ## Requests that hand on what they changed -/

/-- A reaction to an effect that left the road as it was. -/
theorem roadReacts_of_frame {c : List Part} {s b t : State} (hF : Frame c s b) (hc : ∀ p ∈ road, p ∉ c)
    (h : Follows b t) : RoadReacts s t := by
  have stays : ∀ p ∈ road, Stays s b p := fun p hp => hF p (hc p hp)
  refine reacts_of_follows h (fun k _ => ?_) (fun k _ => ?_) (fun k _ => ?_) (fun x _ => ?_) (fun l _ _ _ => ?_)
    (fun k _ => ?_)
  · exact congrArg (lookup · k) (stays .gates (by decide))
  · exact congrArg (lookup · k) (stays .panels (by decide))
  · exact congrArg (lookup · k) (stays .signs (by decide))
  · obtain ⟨ha, hb⟩ := stays .transfers (by decide)
    cases x
    · exact ha
    · exact hb
  · exact congrArg (levelAt · l) (stays .outputs (by decide))
  · exact congrArg (fun v => (lookup v k).isSome) (stays .segments (by decide))

/-- A taken request that changes some parts besides the road, and hands on what it changed: the blocks react to the base
`b`, which the changes leave. -/
theorem request_reacts {m : Moment} {kind tag : Byte} {f : List Byte} {F : State → State × Answer} {s b u : State}
    {a : Answer} {c : List Part} (hr : Ready s kind tag f) (hF : F (s.elapse m).popFrame = (u, a))
    (hb : Frame c (s.elapse m).popFrame b) (hc : ∀ p ∈ road ++ [.moment, .inbound, .outbox], p ∉ c)
    (hu : Settles b u) :
    ∃ t, request m kind tag f F s = .next t ∧ Passed m s t ∧ Answered s t kind tag a ∧ RoadReacts s t ∧ Follows b t ∧
      Frame (answered ++ road) b t ∧ Frame (answered ++ road ++ c) s t := by
  obtain ⟨t, he, hfol, hout⟩ := request_follows m kind tag f F s hr.1 (takes_of_ready hr)
  rw [hF] at hfol hout
  have follows : Follows b t := hu.1.trans hfol
  have toBase : Frame ([.moment, .inbound] ++ c) s b := Frame.trans (frame_popped m s) hb
  have fromBase : Frame (answered ++ road) b t :=
    frame_of_follows (Frame.refl _ _) follows (by decide) (Or.inl (by decide))
  have outbox : b.line.outbox = s.line.outbox := hb .outbox (hc .outbox (by decide))
  refine ⟨t, he, ?_, ⟨?_, ?_⟩, roadReacts_of_frame toBase (fun p hp => ?_) follows, follows, fromBase, ?_⟩
  · exact (congrArg Still.now follows.still).trans (hb .moment (hc .moment (by decide)))
  · exact follows.line.inbound.trans (hb .inbound (hc .inbound (by decide)))
  · rw [hout, hu.2, outbox]
  · have road_only : p ∉ [Part.moment, .inbound] := by
      revert hp
      cases p <;> decide
    exact fun hm => (List.mem_append.mp hm).elim road_only (hc p (List.mem_append_left _ hp))
  · refine Frame.mono (Frame.trans toBase fromBase) fun p hp => ?_
    simp only [answered, always, List.mem_append, List.mem_cons, List.not_mem_nil, or_false] at hp ⊢
    tauto

/-- Checks that are all met refuse nothing. -/
theorem none_of_finds {o : Option RefusalCode} {checks : List Condition} (h : Finds o checks)
    (hm : FirstUnmet checks none) : o = none := Option.map_eq_none_iff.mp (h none hm).symm

/-! ## Figures -/

theorem figures_withFigures_self (s : State) {k : Nat} (f : PathFigures) (h : 1 ≤ k) (hn : k ≤ 12) :
    (s.withFigures k f).figures k = f :=
  figures_of_itemAt (itemAt_putItem_self s.retained.paths f h hn)

theorem figures_withFigures_ne (s : State) {j k : Nat} (f : PathFigures) (h : j ≠ k) :
    (s.withFigures k f).figures j = s.figures j :=
  congrArg (fun o : Option PathFigures => o.getD ⟨0, 0, none⟩) (itemAt_putItem_ne s.retained.paths f h)

theorem figures_congr {s t : State} (h : t.retained.paths = s.retained.paths) (k : Nat) : t.figures k = s.figures k :=
  congrArg (fun v : Vector PathFigures 12 => (itemAt v k).getD ⟨0, 0, none⟩) h

theorem figures_handLevels (s : State) (rises : List Rise) (k : Nat) :
    (s.handLevels rises).figures k = s.figures k := by
  have h : Reaction (s.withNotices (s.handLevels rises).retained.notices) (s.handLevels rises) :=
    loose_handLevels s rises
  exact figures_congr (congrArg Retained.paths h.retained) k

theorem frame_withFigures (s : State) (k : Nat) (f : PathFigures) : Frame [.paths] s (s.withFigures k f) :=
  frame_withPaths s _

/-! ## The change of one path's effective level (R61 to R63) -/

theorem riseOf_reports (k : Nat) (before after : PathFigures) :
    (riseOf k before after).map Rise.report = levelReport k before after := by
  unfold riseOf levelReport
  split <;> rfl

/-- A path asks for the segments it threatens where its effective level became 4. -/
theorem mem_askedFor_riseOf {c : Settings} {k x : Nat} {before after : PathFigures} :
    x ∈ askedFor c (riseOf k before after) ↔
      before.effective < 4 ∧ after.effective = 4 ∧ x ∈ c.threatens k := by
  unfold riseOf
  split
  · have nothing : x ∉ askedFor c [] := List.not_mem_nil
    exact iff_of_false nothing fun ⟨below, became, _⟩ => by omega
  · by_cases h : before.effective < 4 ∧ after.effective = 4
    · simp [askedFor, h]
    · simp [askedFor, ← and_assoc, h]

/-- Where the figures of one path changed, the segments asked for are those the statement says are triggered. -/
theorem mem_askedFor_iff_triggered {s t : State} {k x : Nat} (hk : ∀ j, j ≠ k → t.figures j = s.figures j) :
    x ∈ askedFor s.settings (riseOf k (s.figures k) (t.figures k)) ↔ Triggered s t x := by
  rw [mem_askedFor_riseOf, mem_threatens]
  unfold Triggered
  constructor
  · rintro ⟨h1, h2, r, hr, ⟨hx1, hx8⟩, hx⟩
    exact ⟨hx1, hx8, k, r, hr, hx, h1, h2⟩
  · rintro ⟨hx1, hx8, j, r, hr, hx, h1, h2⟩
    obtain rfl : j = k := by
      by_contra hj
      rw [hk j hj] at h2
      omega
    exact ⟨h1, h2, r, hr, ⟨hx1, hx8⟩, hx⟩

/-- The notices that changes of E add, from a state that differs from `s` neither in what the asks read nor in the list
(R63, R82, R83). -/
theorem noticesGain_handLevels {s w t : State} {rises : List Rise} (hset : w.settings = s.settings)
    (hatt : w.line.attended = s.line.attended) (hclock : w.retained.clock = s.retained.clock)
    (hlist : w.retained.notices = s.retained.notices)
    (hn : t.retained.notices = (w.handLevels rises).retained.notices)
    (hasked : ∀ x, x ∈ askedFor s.settings rises ↔ Triggered s t x) : NoticesGain s t := by
  obtain ⟨u, hu, asks⟩ := handLevels_asks w rises
  obtain ⟨added, hp, hnodup, hm⟩ := notices_of_asks (askedFor w.settings rises) u
  have notices : u.retained.notices = s.retained.notices := (congrArg Retained.notices hu.retained).trans hlist
  have clock : u.retained.clock = s.retained.clock := (congrArg Retained.clock hu.retained).trans hclock
  have meets := askMeets_congr (hu.settings.trans hset) (hu.attended.trans hatt) notices
  refine ⟨added, ?_, hnodup, fun n => (hm n).trans ?_⟩
  · rw [hn, asks, ← notices]
    exact hp
  · simp only [hset, hasked, meets, autonomous_congr clock]
    exact exists_congr fun x => ⟨fun ⟨ht, e, ha⟩ => ⟨e, ht, ha⟩, fun ⟨e, ht, ha⟩ => ⟨ht, e, ha⟩⟩

/-- Where no level became 4 the list stays. -/
theorem notices_handLevels_of_none {w : State} {k : Nat} {before after : PathFigures} (h : after.effective ≠ 4) :
    (w.handLevels (riseOf k before after)).retained.notices = w.retained.notices := by
  obtain ⟨u, hu, asks⟩ := handLevels_asks w (riseOf k before after)
  have none_asked : askedFor w.settings (riseOf k before after) = [] :=
    List.eq_nil_iff_forall_not_mem.mpr fun x hx => h (mem_askedFor_riseOf.mp hx).2.1
  rw [asks, none_asked]
  exact congrArg Retained.notices hu.retained

/-! ## PATH_FLOOR (R58) -/

/-- A path's figures with the floor that a request leaves. -/
def postedFigures (s : State) (k level d : Nat) : PathFigures :=
  { s.figures k with floor := postedFloor level d }

theorem postFloor_eq (s : State) (k level d : Nat) : s.postFloor k level d =
    (s.withFigures k (postedFigures s k level d)).handLevels
      (riseOf k (s.figures k) (postedFigures s k level d)) := rfl

theorem postedFigures_effective (s : State) (k level d : Nat) :
    (postedFigures s k level d).effective = max (s.figures k).level level := by
  unfold postedFigures PathFigures.effective postedFloor
  by_cases h : level = 0
  · simp [h]
  · simp [h]

theorem floorBytes_postedFloor (level d : Nat) :
    floorBytes (postedFloor level d) = [byte level, if level = 0 then 0 else byte d] := by
  unfold postedFloor
  by_cases h : level = 0
  · subst h
    rfl
  · simp [h, floorBytes]

/-- An accepted PATH FLOOR answers with the floor and the effective level. -/
theorem carryPathFloor_accepted {f : List Byte} {s : State} {k level d : Nat} {r : PathRecord} (hl : f.length = 3)
    (h0 : byteAt f 0 = k) (h1 : byteAt f 1 = level) (h2 : byteAt f 2 = d) (hlevel : level ≤ 4)
    (hd : level = 0 ∨ (1 ≤ d ∧ d ≤ 144)) (hr : lookup s.settings.paths k = some r) :
    carryPathFloor f s = (s.postFloor k level d,
      .done [byte k, byte level, if level = 0 then 0 else byte d, byte (max (s.figures k).level level)]) := by
  subst h0 h1 h2
  obtain ⟨hk1, hk12⟩ := lookup_bounds _ hr
  have accepted : floorRefusal s.settings f = none := none_of_finds (finds_floor s.settings f)
    (Or.inr ⟨hl, Or.inr ⟨⟨hk1, hk12, hlevel, hd⟩, Or.inr ⟨Option.isSome_iff_exists.mpr ⟨r, hr⟩, rfl⟩⟩⟩)
  have figures : (s.postFloor (byteAt f 0) (byteAt f 1) (byteAt f 2)).figures (byteAt f 0) =
      postedFigures s (byteAt f 0) (byteAt f 1) (byteAt f 2) := by
    rw [postFloor_eq, figures_handLevels, figures_withFigures_self s _ hk1 hk12]
  have floor : (postedFigures s (byteAt f 0) (byteAt f 1) (byteAt f 2)).floor =
      postedFloor (byteAt f 1) (byteAt f 2) := rfl
  unfold carryPathFloor
  rw [accepted]
  dsimp only
  rw [figures, postedFigures_effective, floor, floorBytes_postedFloor]
  rfl

/-- A floor that leaves the effective level changes the figures alone. -/
theorem postFloor_of_same {s : State} {k level d : Nat}
    (h : (s.figures k).effective = (postedFigures s k level d).effective) :
    s.postFloor k level d = s.withFigures k (postedFigures s k level d) := by
  rw [postFloor_eq, riseOf, if_pos h]
  rfl

/-- The state that the reactions to a posted floor follow: its figures, LEVEL report and autonomous notices in place. -/
def floorBase (k level d : Nat) (s : State) : State :=
  let w := s.withFigures k (postedFigures s k level d)
  (w.reports ((riseOf k (s.figures k) (postedFigures s k level d)).map Rise.report)).withNotices
    (s.postFloor k level d).retained.notices

theorem frame_floorBase (k level d : Nat) (s : State) : Frame [.paths, .reports, .notices] s (floorBase k level d s) :=
  Frame.trans (Frame.trans (frame_withFigures s k _) (frame_reports _ _)) (frame_withNotices _ _)

theorem figures_floorBase (k level d j : Nat) (s : State) :
    (floorBase k level d s).figures j = (s.withFigures k (postedFigures s k level d)).figures j :=
  figures_congr (congrArg Retained.paths (reaction_reports _ _).retained) j

theorem records_floorBase (k level d : Nat) (s : State) : recordsOf (floorBase k level d s).line =
    recordsOf (s.reports (levelReport k (s.figures k) (postedFigures s k level d))).line := by
  rw [← riseOf_reports]
  exact reports_records _ (s.withFigures k _) s rfl rfl

/-- Settles O26: the floor's base in the statement's words, and what follows it. -/
theorem pathFloorPosts : Obligations.PathFloorPosts := by
  rintro m tag f s k level d r hr hs hl h0 h1 h2 hlevel hd hrec before after rfl hafter
  obtain rfl : after = postedFigures s k level d := hafter
  obtain ⟨hk1, hk12⟩ := lookup_bounds _ hrec
  have carried := carryPathFloor_accepted (s := (s.elapse m).popFrame) hl h0 h1 h2 hlevel hd hrec
  obtain ⟨t, he, hpass, hans, hroad, hfol, fromBase, frame⟩ :=
    request_reacts hr carried (frame_floorBase k level d _) (by decide) (settles_handLevels _ _)
  have figures : ∀ j, t.figures j = (s.withFigures k (postedFigures s k level d)).figures j := fun j =>
    (figures_congr (fromBase .paths (by decide)) j).trans (figures_floorBase k level d j (s.elapse m).popFrame)
  have own : t.figures k = postedFigures s k level d := (figures k).trans (figures_withFigures_self s _ hk1 hk12)
  have others : ∀ j, j ≠ k → t.figures j = s.figures j := fun j hj =>
    (figures j).trans (figures_withFigures_ne s _ hj)
  have notices : t.retained.notices = ((s.elapse m).popFrame.postFloor k level d).retained.notices :=
    fromBase .notices (by decide)
  have records := (records_floorBase k level d (s.elapse m).popFrame).trans
    (reports_records _ (s.elapse m).popFrame s rfl rfl)
  have clock : (floorBase k level d (s.elapse m).popFrame).retained.clock = s.retained.clock :=
    frame_floorBase k level d _ .clock (by decide)
  refine ⟨t, ⟨he, hpass, hans⟩, postedFigures_effective s k level d, own, others, fun same => ?_,
    reportedFirst_of_follows records clock hfol, hroad, ?_, fun h => notices.trans (notices_handLevels_of_none h),
    Frame.mono frame (by decide)⟩
  · obtain ⟨u, hu, -, -, -, quiet⟩ := request_quiet m _ tag f (carryPathFloor f) s _ _ [.paths] hr hs
      (carried.trans (congrArg (·, _) (postFloor_of_same same))) (frame_withFigures _ _ _) (by decide)
    exact request_unique he hu ▸ quiet
  · have triggered := fun x => mem_askedFor_iff_triggered (x := x) others
    rw [own] at triggered
    exact noticesGain_handLevels (w := (s.elapse m).popFrame.withFigures k _) rfl rfl rfl rfl notices triggered

end Sys2Proof.Proofs
end

section
/-! DEFINE_PATH and REMOVE_PATH: records and figures put, changed segments handed on, no LEVEL report queued (O27). -/

namespace Sys2Proof.Proofs

open Sys2Proof Sys2Proof.Machine Sys2Proof.Laws Sys2Proof.Claims

/-! ## Hand-overs of changed segments (R51 to R53) -/

theorem settles_handSegments (s : State) (ks : List Nat) : Settles s (s.handSegments ks) := by
  have handed : ∀ signs, Settles s (s.handOver ks signs) := fun signs =>
    settles_of_reaction (reaction_handOver s ks signs) (ripple_handOver s ks signs) (reach_handOver s ks signs)
  cases ks with
  | nil => exact settles_of_reaction (.refl s) (.refl s) (.refl s)
  | cons k ks => exact handed _

theorem roadReports_handSegments (s : State) (ks : List Nat) : RoadReports s (s.handSegments ks) := by
  cases ks with
  | nil => exact .refl s
  | cons k ks => exact roadReports_handOver s (k :: ks) _

/-- From a base with the records of `s`, records of segments and gates alone: no LEVEL report. -/
theorem reportedWithoutLevel_of_road {s b t : State} (hb : recordsOf b.line = recordsOf s.line)
    (hc : b.retained.clock = s.retained.clock) (h : RoadReports b t) : ReportedWithoutLevel s t := by
  obtain ⟨-, bs, hbs, hl⟩ := h
  exact ⟨bs, reported_of_records (hl.trans (reports_records bs b s hb hc)), fun path before after x => hbs _⟩

/-- One record put in a table. -/
theorem put_putItem {α : Type} {n : Nat} (v : Vector (Option α) n) {k : Nat} (x : Option α) (h : 1 ≤ k) (hn : k ≤ n) :
    Put v (putItem v k x) k x :=
  ⟨lookup_putItem_self v x h hn, fun _ hj => lookup_putItem_ne v x hj⟩

/-- A request that changes path records and figures, and hands on the segments whose threats changed: no LEVEL report is
queued. -/
theorem request_handsSegments {m : Moment} {kind tag : Byte} {f : List Byte} {F : State → State × Answer} {s b : State}
    {a : Answer} {ks : List Nat} (hr : Ready s kind tag f)
    (hF : F (s.elapse m).popFrame = (b.handSegments ks, a))
    (hb : Frame [.pathRecords, .paths] (s.elapse m).popFrame b) :
    ∃ t, request m kind tag f F s = .next t ∧ Passed m s t ∧ Answered s t kind tag a ∧
      t.settings.paths = b.settings.paths ∧ t.retained.paths = b.retained.paths ∧ ReportedWithoutLevel s t ∧
      RoadReacts s t ∧ Frame (answered ++ road ++ [.pathRecords, .paths]) s t := by
  obtain ⟨t, he, hpass, hans, hroad, -, fromBase, frame⟩ :=
    request_reacts hr hF hb (by decide) (settles_handSegments b ks)
  have reports : RoadReports b t := by
    have carried := request_roadReports hr he
    rw [hF] at carried
    exact (roadReports_handSegments b ks).trans carried
  obtain ⟨buffer, sequence⟩ := hb .reports (by decide)
  have records : recordsOf b.line = recordsOf s.line :=
    Prod.ext (congrArg (List.map Buffered.record) buffer) sequence
  exact ⟨t, he, hpass, hans, fromBase .pathRecords (by decide), fromBase .paths (by decide),
    reportedWithoutLevel_of_road records (hb .clock (by decide)) reports, hroad, frame⟩

/-! ## DEFINE_PATH and REMOVE_PATH (R50 to R53) -/

theorem frame_setPath (s : State) (k : Nat) (r : Option PathRecord) :
    Frame [.pathRecords] s (s.change (Settings.setPath k r)) := by
  intro p hp
  cases p <;> first
    | exact absurd (show (_ : Part) ∈ [Part.pathRecords] by decide) hp
    | exact Eq.refl _
    | exact ⟨Eq.refl _, Eq.refl _⟩

/-- A defined path before it is handed on: its record stored, and the figures of a new path cleared (R51, R52). -/
def pathPlaced (k : Nat) (r : PathRecord) (s : State) : State :=
  if (lookup s.settings.paths k).isNone then (s.change (Settings.setPath k (some r))).withFigures k PathFigures.cleared
  else s.change (Settings.setPath k (some r))

theorem putPath_eq (s : State) (k : Nat) (r : PathRecord) :
    s.putPath k r = (pathPlaced k r s).handSegments (changedSegments (lookup s.settings.paths k) r) := rfl

/-- A removed path before it is handed on: its record deleted and its figures cleared (R53). -/
def pathTaken (k : Nat) (s : State) : State :=
  (s.change (Settings.setPath k none)).withFigures k PathFigures.cleared

theorem dropPath_eq (s : State) (k : Nat) (r : PathRecord) :
    s.dropPath k r = (pathTaken k s).handSegments (ascending 8 r.segments) := rfl

theorem frame_pathTaken (k : Nat) (s : State) : Frame [.pathRecords, .paths] s (pathTaken k s) :=
  Frame.trans (frame_setPath s k none) (frame_withFigures _ k _)

section
variable {s : State} {k : Nat} {r : PathRecord}

theorem pathPlaced_new (h : lookup s.settings.paths k = none) :
    pathPlaced k r s = (s.change (Settings.setPath k (some r))).withFigures k PathFigures.cleared := by
  unfold pathPlaced
  rw [h]
  rfl

theorem pathPlaced_redefined {q : PathRecord} (h : lookup s.settings.paths k = some q) :
    pathPlaced k r s = s.change (Settings.setPath k (some r)) := by
  unfold pathPlaced
  rw [h]
  rfl

theorem frame_pathPlaced : Frame [.pathRecords, .paths] s (pathPlaced k r s) := by
  cases h : lookup s.settings.paths k with
  | none =>
    rw [pathPlaced_new h]
    exact Frame.trans (frame_setPath s k (some r)) (frame_withFigures _ k _)
  | some q =>
    rw [pathPlaced_redefined h]
    exact Frame.mono (frame_setPath s k (some r)) (by decide)

theorem paths_pathPlaced : (pathPlaced k r s).settings.paths = putItem s.settings.paths k (some r) := by
  unfold pathPlaced
  split <;> rfl

/-- A new path starts from H 0, L 0 and no floor, and a redefined one keeps its figures (R51, R52). -/
theorem figures_pathPlaced_self (h : 1 ≤ k) (hn : k ≤ 12) : (pathPlaced k r s).figures k =
    if (lookup s.settings.paths k).isSome then s.figures k else ⟨0, 0, none⟩ := by
  cases hq : lookup s.settings.paths k with
  | none =>
    rw [pathPlaced_new hq]
    exact figures_withFigures_self _ _ h hn
  | some q =>
    rw [pathPlaced_redefined hq]
    rfl

theorem figures_pathPlaced_ne {j : Nat} (hj : j ≠ k) : (pathPlaced k r s).figures j = s.figures j := by
  unfold pathPlaced
  split
  · exact figures_withFigures_ne _ _ hj
  · rfl

end

theorem carryDefinePath_accepted {f : List Byte} {s : State} (hl : f.length = 22) (h1 : 1 ≤ byteAt f 17)
    (h4 : byteAt f 17 ≤ 4) (hrange : PathInRange (byteAt f 0) (pathOf f))
    (hdef : AllDefined s.settings.segments (pathOf f).segments) :
    carryDefinePath f s = (s.putPath (byteAt f 0) (pathOf f), .done []) := by
  have accepted : pathRefusal s.settings f = none := none_of_finds (finds_path s.settings f)
    (Or.inr ⟨hl, Or.inr ⟨⟨hrange, h1, h4⟩, Or.inr ⟨hdef, rfl⟩⟩⟩)
  unfold carryDefinePath
  rw [accepted]
  rfl

/-- A redefinition with the same threatened segments hands nothing on (R52). -/
theorem putPath_of_sameSegments {s : State} {k : Nat} {q r : PathRecord} (hq : lookup s.settings.paths k = some q)
    (h : q.segments = r.segments) : s.putPath k r = s.change (Settings.setPath k (some r)) := by
  rw [putPath_eq, hq, pathPlaced_redefined hq, changedSegments, if_pos h]
  rfl

/-- DEFINE_PATH, accepted (R50 to R52). -/
theorem definePath_defines {m : Moment} {tag : Byte} {f : List Byte} {s : State} (hr : Ready s kindDefinePath tag f)
    (hs : s.Settled) (hl : f.length = 22) (h1 : 1 ≤ byteAt f 17) (h4 : byteAt f 17 ≤ 4)
    (hrange : PathInRange (byteAt f 0) (pathOf f)) (hdef : AllDefined s.settings.segments (pathOf f).segments) :
    ∃ t, Taken (.definePath m tag f) m kindDefinePath tag (.done []) s t ∧
      Put s.settings.paths t.settings.paths (byteAt f 0) (some (pathOf f)) ∧
      t.figures (byteAt f 0) =
        (if (lookup s.settings.paths (byteAt f 0)).isSome then s.figures (byteAt f 0) else ⟨0, 0, none⟩) ∧
      (∀ j, j ≠ byteAt f 0 → t.figures j = s.figures j) ∧ ReportedWithoutLevel s t ∧ RoadReacts s t ∧
      Frame (answered ++ road ++ [.pathRecords, .paths]) s t ∧
      (∀ q, lookup s.settings.paths (byteAt f 0) = some q → q.segments = (pathOf f).segments →
        Quiet [.inbound, .outbox, .pathRecords] s t) := by
  have ⟨hk1, hk12, _⟩ := hrange
  have carried := carryDefinePath_accepted (s := (s.elapse m).popFrame) hl h1 h4 hrange hdef
  obtain ⟨t, he, hpass, hans, paths, figures, reports, hroad, frame⟩ :=
    request_handsSegments hr (carried.trans (congrArg (·, _) (putPath_eq _ _ _))) frame_pathPlaced
  refine ⟨t, ⟨he, hpass, hans⟩, ?_, (figures_congr figures _).trans (figures_pathPlaced_self hk1 hk12),
    fun j hj => (figures_congr figures j).trans (figures_pathPlaced_ne hj), reports, hroad, frame, fun q hq same => ?_⟩
  · rw [paths, paths_pathPlaced]
    exact put_putItem _ _ hk1 hk12
  · obtain ⟨u, hu, -, -, -, quiet⟩ := request_quiet m _ tag f (carryDefinePath f) s _ _ [.pathRecords] hr hs
      (carried.trans (congrArg (·, _) (putPath_of_sameSegments hq same))) (frame_setPath _ _ _) (by decide)
    exact request_unique he hu ▸ quiet

theorem carryRemovePath_accepted {s : State} {k : Nat} {r : PathRecord} (hr : lookup s.settings.paths k = some r) :
    carryRemoval [1, byte k] carryRemovePath s = (s.dropPath k r, .done [byte k]) := by
  obtain ⟨h1, h12⟩ := lookup_bounds _ hr
  have item : byteAt [1, byte k] 0 = 1 := rfl
  have number : byteAt [1, byte k] 1 = k := Nat.mod_eq_of_lt (by omega)
  unfold carryRemoval
  rw [if_neg (by simp), if_neg (by rw [item]; decide), number]
  unfold carryRemovePath removeItem
  rw [if_neg (by simp [within_iff, h1, h12]), hr]
  rfl

/-- REMOVE_PATH of a defined path (R53). -/
theorem removePath_removes {m : Moment} {tag : Byte} {s : State} {k : Nat} {r : PathRecord}
    (hr : Ready s kindRemoveItem tag [1, byte k]) (hrec : lookup s.settings.paths k = some r) :
    ∃ t, Taken (.removePath m tag [1, byte k]) m kindRemoveItem tag (.done [byte k]) s t ∧
      Put s.settings.paths t.settings.paths k none ∧ t.figures k = ⟨0, 0, none⟩ ∧
      (∀ j, j ≠ k → t.figures j = s.figures j) ∧ ReportedWithoutLevel s t ∧ RoadReacts s t ∧
      Frame (answered ++ road ++ [.pathRecords, .paths]) s t := by
  obtain ⟨h1, h12⟩ := lookup_bounds _ hrec
  have carried := carryRemovePath_accepted (s := (s.elapse m).popFrame) hrec
  obtain ⟨t, he, hpass, hans, paths, figures, reports, hroad, frame⟩ :=
    request_handsSegments hr (carried.trans (congrArg (·, _) (dropPath_eq _ k r))) (frame_pathTaken _ _)
  refine ⟨t, ⟨he, hpass, hans⟩, ?_, (figures_congr figures k).trans (figures_withFigures_self _ _ h1 h12),
    fun j hj => (figures_congr figures j).trans (figures_withFigures_ne _ _ hj), reports, hroad, frame⟩
  rw [paths]
  exact put_putItem s.settings.paths none h1 h12

/-- Settles O27: the definition and the removal, each from its base. -/
theorem pathsDefinedAndRemoved : Obligations.PathsDefinedAndRemoved := by
  refine ⟨?_, fun m tag s k r hr hrec => removePath_removes hr hrec⟩
  rintro m tag f s k r hr hs hl rfl rfl h1 h4 hrange hdef
  exact definePath_defines hr hs hl h1 h4 hrange hdef

end Sys2Proof.Proofs
end

section
/-! SUPPORT. What the effects of the commands leave of the queue of commands and the Notice List: both stay as they are,
but for the effects that the Notice List's own rules name (R70, R73 to R83). -/

namespace Sys2Proof.Proofs

open Sys2Proof Sys2Proof.Machine Sys2Proof.Laws

/-! ## Queue and list -/

/-- The two lists a command is followed through: the commands that wait, and the Notice List. -/
def lists (s : State) : List Instr × List Notice := (s.pending, s.retained.notices)

theorem lists_eq_iff {s t : State} :
    lists t = lists s ↔ t.pending = s.pending ∧ t.retained.notices = s.retained.notices := Prod.mk.injEq .. ▸ Iff.rfl

/-- A reaction leaves both lists. -/
theorem lists_of_reaction {s t : State} (h : Reaction s t) : lists t = lists s :=
  lists_eq_iff.mpr ⟨h.pending, congrArg Retained.notices h.retained⟩

theorem lists_foldl {α : Type} {f : State → α → State} (hf : ∀ s x, lists (f s x) = lists s) (xs : List α) (s : State) :
    lists (xs.foldl f s) = lists s :=
  keep_foldl (P := fun u => lists u = lists s) (fun u x h => (hf u x).trans h) xs s rfl

section
variable (s : State)

/-! ## Updates of other blocks -/

@[simp] theorem lists_withField (x : FieldInterface) : lists (s.withField x) = lists s := rfl
@[simp] theorem lists_withWeather (x : WeatherUnit) : lists (s.withWeather x) = lists s := rfl
@[simp] theorem lists_withSegments (x : Vector (Option SegmentState) 8) : lists (s.withSegments x) = lists s := rfl
@[simp] theorem lists_withComposer (x : SignComposer) : lists (s.withComposer x) = lists s := rfl
@[simp] theorem lists_withStrings (x : StringController) : lists (s.withStrings x) = lists s := rfl
@[simp] theorem lists_withLine (x : StationLine) : lists (s.withLine x) = lists s := rfl
@[simp] theorem lists_withStore (x : SettingsStore) : lists (s.withStore x) = lists s := rfl
@[simp] theorem lists_withPanel (k : Nat) (p : Option PanelRecord) : lists (s.withPanel k p) = lists s := rfl
@[simp] theorem lists_withSign (k : Nat) (c : Option SignState) : lists (s.withSign k c) = lists s := rfl
@[simp] theorem lists_withGate (k : Nat) (g : Option GateState) : lists (s.withGate k g) = lists s := rfl
@[simp] theorem lists_withPin (line : Nat) (high : Bool) : lists (s.withPin line high) = lists s := rfl
@[simp] theorem lists_withInput (line : Nat) (i : InputState) : lists (s.withInput line i) = lists s := rfl
@[simp] theorem lists_withChannel (k : Nat) (c : ChannelTotals) : lists (s.withChannel k c) = lists s := rfl
@[simp] theorem lists_withZone (k : Nat) (z : ClearZone) : lists (s.withZone k z) = lists s := rfl
@[simp] theorem lists_withFigures (k : Nat) (f : PathFigures) : lists (s.withFigures k f) = lists s := rfl
@[simp] theorem lists_change (f : Settings → Settings) : lists (s.change f) = lists s := rfl
@[simp] theorem lists_applyOrder (o : List (Nat × Bool)) : lists (s.applyOrder o) = lists s := rfl
@[simp] theorem lists_choiceTaken : lists s.choiceTaken = lists s := rfl
@[simp] theorem lists_elapse (m : Moment) : lists (s.elapse m) = lists s := rfl
@[simp] theorem lists_popFrame : lists s.popFrame = lists s := rfl
@[simp] theorem lists_refuse (code : RefusalCode) : lists (refuse code s).1 = lists s := rfl
@[simp] theorem accept_fst (result : List Byte) : (accept result s).1 = s := rfl

@[simp] theorem lists_withTransfer (x : StringId) (a : Option Attempt) : lists (s.withTransfer x a) = lists s :=
  lists_of_reaction (reaction_withTransfer s x a)

/-! ## Reactions -/

@[simp] theorem lists_report (b : ReportBody) : lists (s.report b) = lists s := rfl
@[simp] theorem lists_reports (bs : List ReportBody) : lists (s.reports bs) = lists s :=
  lists_of_reaction (reaction_reports s bs)
@[simp] theorem lists_handOver (ks signs : List Nat) : lists (s.handOver ks signs) = lists s :=
  lists_of_reaction (reaction_handOver s ks signs)
@[simp] theorem lists_handTouched (ks : List Nat) : lists (s.handTouched ks) = lists s :=
  lists_of_reaction (reaction_handTouched s ks)
@[simp] theorem lists_changeGate (k : Nat) (c : GateCause) (g : GateState) : lists (s.changeGate k c g) = lists s :=
  lists_of_reaction (reaction_changeGate s k c g)
@[simp] theorem lists_loweringTest (k : Nat) : lists (s.loweringTest k) = lists s :=
  lists_of_reaction (reaction_loweringTest s k)
@[simp] theorem lists_travelExpired (k : Nat) : lists (s.travelExpired k) = lists s :=
  lists_of_reaction (reaction_travelExpired s k)
@[simp] theorem lists_tellSign (k : Nat) : lists (s.tellSign k) = lists s := lists_of_reaction (reaction_tellSign s k)
@[simp] theorem lists_arbitrate (x : StringId) : lists (s.arbitrate x) = lists s :=
  lists_of_reaction (reaction_arbitrate s x)
@[simp] theorem lists_beginAttempt (x : StringId) (k n : Nat) : lists (s.beginAttempt x k n) = lists s :=
  lists_of_reaction (reaction_beginAttempt s x k n)
@[simp] theorem lists_handMarks (ks : List Nat) : lists (s.handMarks ks) = lists s :=
  lists_of_reaction (reaction_handMarks s ks)
@[simp] theorem lists_recomposeSign (k : Nat) : lists (s.recomposeSign k).1 = lists s :=
  lists_of_reaction (reaction_recomposeSign s k)
@[simp] theorem lists_recompose (ks : List Nat) : lists (s.recompose ks) = lists s :=
  lists_of_reaction (reaction_recompose s ks)
@[simp] theorem lists_settle : lists s.settle = lists s := lists_of_reaction (reaction_settle s)

@[simp] theorem lists_kick : lists s.kick = lists s := by
  obtain ⟨tr, buf, h, -⟩ := kick_transmits s
  rw [h, lists_withLine]

@[simp] theorem lists_placeReply (r : Reply) : lists (s.placeReply r) = lists s := by
  obtain ⟨tr, buf, sch, h, -⟩ := placeReply_eq s r
  rw [h]
  rfl

/-! ## The Field Interface and the Weather Unit -/

@[simp] theorem lists_widthEdgeOn (line : Nat) (high : Bool) : lists (s.widthEdgeOn line high) = lists s := by
  refine lists_foldl (fun u x => ?_) _ s
  split <;> simp

@[simp] theorem lists_lineTransition (line : Nat) (high : Bool) : lists (s.lineTransition line high) = lists s := by
  unfold State.lineTransition
  split
  · dsimp only
    split_ifs <;> simp
  · rfl

@[simp] theorem lists_presenceChanged (k : Nat) (high : Bool) : lists (s.presenceChanged k high) = lists s := by
  have told : ∀ u : State, lists (if high then u.presenceRose k else u) = lists u := fun u => by
    split
    · exact lists_of_reaction (reaction_presenceRose u k)
    · rfl
  refine (told _).trans ?_
  split <;> simp

@[simp] theorem lists_deliverChange (f : InputFunction) (high : Bool) : lists (s.deliverChange f high) = lists s := by
  cases f with
  | unused | vaneLine _ | vaneOk _ => rfl
  | presence k => exact lists_presenceChanged s k high
  | upSwitch k => cases high with
    | false => rfl
    | true => exact lists_of_reaction (reaction_upSwitchRose s k)
  | downSwitch k => cases high with
    | false => rfl
    | true => exact lists_of_reaction (reaction_downSwitchRose s k)
  | key k => cases high with
    | false => exact lists_of_reaction (reaction_keyFell s k)
    | true => exact lists_of_reaction (reaction_keyRose s k)
  | counter k =>
    unfold State.deliverChange
    dsimp only
    split
    · split_ifs <;> simp
    · rfl

@[simp] theorem lists_acceptChange (line : Nat) (c : Candidate) : lists (s.acceptChange line c) = lists s := by
  simp [State.acceptChange]

@[simp] theorem lists_takeReadouts (r : StepRecord) : lists (s.takeReadouts r) = lists s := by
  simp [State.takeReadouts]

theorem lists_sampledOnce : lists (sampledOnce s) = lists s := rfl

/-! ## Paths, segments and gates -/

@[simp] theorem lists_handSegments (ks : List Nat) : lists (s.handSegments ks) = lists s := by
  unfold State.handSegments
  split <;> simp

@[simp] theorem lists_putPath (k : Nat) (r : PathRecord) : lists (s.putPath k r) = lists s := by
  unfold State.putPath
  dsimp only
  split <;> simp

@[simp] theorem lists_dropPath (k : Nat) (r : PathRecord) : lists (s.dropPath k r) = lists s := by
  simp [State.dropPath]

@[simp] theorem lists_putSegment (k : Nat) (r : SegmentRecord) : lists (s.putSegment k r) = lists s := by
  unfold State.putSegment
  split <;> simp [State.newSegment, State.redefineSegment]

@[simp] theorem lists_dropSegment (k : Nat) : lists (s.dropSegment k) = lists s := by simp [State.dropSegment]

@[simp] theorem lists_handGateRecord (old : Option GateRecord) (new : GateRecord) :
    lists (handGateRecord old new s) = lists s := by cases old <;> simp [handGateRecord]

@[simp] theorem lists_putGate (k : Nat) (r : GateRecord) : lists (s.putGate k r) = lists s := by simp [State.putGate]

@[simp] theorem lists_dropGate (k : Nat) (r : GateRecord) : lists (s.dropGate k r) = lists s := by
  simp [State.dropGate]

/-! ## Signs, pages and texts -/

@[simp] theorem lists_reportSign (k : Nat) (e : SignEvent) : lists (s.reportSign k e) = lists s := by
  unfold State.reportSign
  split <;> simp

@[simp] theorem lists_orphan (k : Nat) : lists (s.orphan k) = lists s := by
  have on : ∀ u x, lists (State.orphanOn x k u) = lists u := fun u x => by
    unfold State.orphanOn
    split
    · rfl
    · split <;> simp
  exact (on _ .b).trans (on s .a)

@[simp] theorem lists_movePanel (k : Nat) : lists (s.movePanel k) = lists s := by
  unfold State.movePanel
  dsimp only
  split <;> simp

@[simp] theorem lists_putSign (k : Nat) (r : SignRecord) : lists (s.putSign k r) = lists s := by
  unfold State.putSign
  split
  · unfold State.redefineSign
    rw [lists_handMarks]
    split <;> simp
  · simp [State.newSign]

@[simp] theorem lists_dropSign (k : Nat) : lists (s.dropSign k) = lists s := by
  unfold State.dropSign
  dsimp only
  split <;> simp

@[simp] theorem lists_putProfile (k : Nat) (r : ProfileRecord) : lists (s.putProfile k r) = lists s := by
  simp [State.putProfile]

@[simp] theorem lists_changePages (f : SignRecord → SignState → SignState) (ks : List Nat) :
    lists (ks.foldl (State.changePages f) s) = lists s := by
  refine lists_foldl (fun u k => ?_) ks s
  unfold State.changePages
  split <;> simp

@[simp] theorem lists_loadTexts (entry : Nat) (ts : List (List Code)) : lists (s.loadTexts entry ts) = lists s := by
  simp [State.loadTexts]

/-! ## Strings -/

@[simp] theorem lists_endTransfer (x : StringId) : lists (s.endTransfer x) = lists s := by simp [State.endTransfer]

@[simp] theorem lists_succeed (x : StringId) (a : Attempt) : lists (s.succeed x a) = lists s := by
  unfold State.succeed
  split
  · simp
  · split
    · dsimp only
      split <;> simp
    · simp

@[simp] theorem lists_failAttempt (x : StringId) (a : Attempt) (c : Failure) :
    lists (s.failAttempt x a c) = lists s := by
  unfold State.failAttempt
  split
  · simp
  · split
    · simp
    · dsimp only
      split_ifs <;> simp

@[simp] theorem lists_stringByte (x : StringId) (b : Option Byte) : lists (s.stringByte x b) = lists s := by
  unfold State.stringByte
  split
  · rfl
  · split
    · rfl
    · split
      · rfl
      · unfold State.takeVerdict
        split <;> simp

@[simp] theorem lists_imageSent (x : StringId) : lists (s.imageSent x) = lists s := by
  unfold State.imageSent
  split
  · rfl
  · split <;> simp

@[simp] theorem lists_windowEnds (x : StringId) : lists (s.windowEnds x) = lists s := by
  unfold State.windowEnds
  split
  · rfl
  · split
    · rfl
    · split <;> simp

@[simp] theorem lists_chooseFor (k : Nat) (ready : PanelRecord → Bool) : lists (s.chooseFor k ready) = lists s := by
  unfold State.chooseFor
  split
  · split <;> simp
  · rfl

/-! ## The station line and the Settings Store -/

@[simp] theorem lists_checkSilence : lists s.checkSilence = lists s := by
  unfold State.checkSilence
  split <;> simp

@[simp] theorem lists_heard : lists s.heard = lists s := by
  unfold State.heard
  dsimp only
  split <;> simp

@[simp] theorem lists_joinQueue (f : Frame) : lists (s.joinQueue f) = lists s := by
  unfold State.joinQueue
  split
  · rfl
  · split <;> simp

@[simp] theorem lists_receiveByte (b : Byte) : lists (s.receiveByte b) = lists s := by
  unfold State.receiveByte
  dsimp only
  split
  · rfl
  · simp [State.frameArrived]

@[simp] theorem lists_dropFrame : lists s.dropFrame = lists s := rfl
@[simp] theorem lists_reportsGone : lists s.reportsGone = lists s := rfl

@[simp] theorem lists_receiveBytes (bs : List Byte) : lists (s.receiveBytes bs) = lists s := by
  unfold State.receiveBytes
  split
  · rfl
  · rw [lists_foldl lists_receiveByte]
    split <;> rfl

@[simp] theorem lists_goOn : lists s.goOn = lists s := by
  unfold State.goOn
  split
  · split <;> simp
  · simp

@[simp] theorem lists_setLink (limit : Nat) (auto : AutoClose) : lists (s.setLink limit auto) = lists s := by
  simp [State.setLink]

@[simp] theorem lists_answerSave (a : Answer) : lists (s.answerSave a) = lists s := by
  unfold State.answerSave
  split <;> simp

@[simp] theorem lists_saveDone (w : StoreWrite) : lists (s.saveDone w) = lists s := by simp [State.saveDone]

@[simp] theorem lists_saveFailed : lists s.saveFailed = lists s := by simp [State.saveFailed]

@[simp] theorem lists_beginSave (tag : Byte) : lists (s.beginSave tag) = lists s := rfl

/-! ## Starts -/

theorem lists_startGates : lists s.startGates = lists s := by
  refine (lists_foldl (fun u x => ?_) _ _).trans rfl
  split <;> simp

theorem lists_startSegments : lists s.startSegments = lists s := by
  have warned : lists ((entries s.settings.gates).foldl State.startWarning s.deriveSegments) = lists s := by
    refine (lists_foldl (fun u x => ?_) _ _).trans rfl
    unfold State.startWarning
    split
    · split <;> simp
    · rfl
  exact warned

theorem lists_startSigns : lists s.startSigns = lists s := rfl

theorem lists_withCheck (b : Bool) : lists (s.withRetained { s.retained with checkHolds := b }) = lists s := rfl

theorem lists_startStrings : lists s.startStrings = lists s :=
  (lists_of_reaction (reaction_runArbiters _)).trans rfl

end

end Sys2Proof.Proofs
end

section
/-! SUPPORT. What every command keeps of the queue and the Notice List, packaged once: `ListsKept P` names the few
things that happen to the Notice List (R70, R74, R75, R78, R81, R83, R86, R199), and `ListsKept.exec` walks through the
commands a single time. -/

namespace Sys2Proof.Proofs

open Sys2Proof Sys2Proof.Machine Sys2Proof.Laws Sys2Proof.Claims

/-! ## What happens to the Notice List -/

/-- A list after a clock walk at a time (R70). -/
def walkedList (now : Nat) (l : List Notice) : List Notice := l.filterMap fun n => (n.walk now).after

/-- A list after a post: the record in its place, and no other of its number (R74, R75). -/
def postedList (n : Notice) (l : List Notice) : List Notice := insertNotice n (withoutNotice n.number l)

/-- A record that the part makes for a segment: a held or an autonomous notice (R81, R83). -/
def MadeFor (k : Nat) (n : Notice) : Prop := 1 ≤ k ∧ k ≤ 8 ∧ (n = heldNotice k ∨ ∃ since, n = autonomousNotice k since)

/-- A part-made record can join a list: its number is free, and no ACTIVE closure covers its segment (R81, R82). -/
def Admits (l : List Notice) (k : Nat) (n : Notice) : Prop :=
  ∀ o ∈ l, o.number ≠ n.number ∧ ¬ o.covers .closure k = true

/-- A property of states that everything keeps that happens to the Notice List, and that no other block touches. -/
structure ListsKept (P : State → Prop) : Prop where
  beside : ∀ (s : State) {t : State}, lists t = lists s → P s → P t
  walked : ∀ (s : State) now, P s → P (s.withNotices (walkedList now s.retained.notices))
  posted : ∀ (s : State) p, s.postRefusal p = none → P s →
    P (s.withNotices (postedList (s.recordOf p) s.retained.notices))
  withdrawn : ∀ (s : State) k, P s → P (s.withNotices (withoutNotice k s.retained.notices))
  made : ∀ (s : State) k n, MadeFor k n → Admits s.retained.notices k n → P s →
    P (s.withNotices (insertNotice n s.retained.notices))
  cleared : ∀ s : State, P s → P (s.withNotices [])

theorem walkedList_eq (s : State) (now : Nat) :
    (s.retained.notices.map fun n => n.walk now).filterMap Walked.after = walkedList now s.retained.notices :=
  List.filterMap_map ..

theorem lists_walkList (s : State) (now : Nat) :
    lists (s.walkList now).1 = lists (s.withNotices (walkedList now s.retained.notices)) :=
  (lists_reports _ _).trans (congrArg (fun l => lists (s.withNotices l)) (walkedList_eq s now))

section
variable {P : State → Prop} (hP : ListsKept P)
include hP

/-! ## The clock and the requests of the Notice List -/

theorem ListsKept.walkList (s : State) (now : Nat) (h : P s) : P (s.walkList now).1 :=
  hP.beside _ (lists_walkList s now) (hP.walked s now h)

theorem ListsKept.clockWalk (s : State) (now : Nat) (h : P s) : P (s.clockWalk now) :=
  hP.beside _ (lists_handTouched _ _) (hP.walkList s now h)

theorem ListsKept.setClock (s : State) (new : Nat) (h : P s) : P (s.setClock new) := by
  have set : P { s.withClock (some new) with clockNext := s.now + usPerSecond } := hP.beside s rfl h
  unfold State.setClock
  dsimp only
  split
  · exact hP.clockWalk _ _ set
  · exact set

theorem ListsKept.tick (s : State) (h : P s) : P s.tick := by
  unfold State.tick
  split
  · exact h
  · dsimp only
    split
    · refine hP.clockWalk _ _ (hP.beside s ?_ h)
      rfl
    · exact hP.beside s rfl h

theorem ListsKept.post (s : State) (p : PostedNotice) (hp : s.postRefusal p = none) (h : P s) :
    P (s.post (s.recordOf p)) :=
  hP.beside _ ((lists_handTouched _ _).trans (lists_reports _ _)) (hP.posted s p hp h)

theorem ListsKept.withdraw (s : State) (n : Notice) (h : P s) : P (s.withdraw n) :=
  hP.beside _ ((lists_handTouched _ _).trans (lists_report _ _)) (hP.withdrawn s n.number h)

/-! ## Autonomous asks (R63, R82, R83) -/

theorem ListsKept.askClosure (s : State) {k : Nat} (hk : 1 ≤ k ∧ k ≤ 8) (h : P s) : P (s.askClosure k) := by
  by_cases hm : AskMeets s k
  · have pending : (s.askClosure k).pending = s.pending := 
      Reaction.pending (s := s.withNotices (s.askClosure k).retained.notices) (loose_askClosure s k)
    have listed : lists (s.askClosure k) =
        lists (s.withNotices (insertNotice (autonomous s k) s.retained.notices)) :=
      lists_eq_iff.mpr ⟨pending, askClosure_granted hm⟩
    obtain ⟨-, hcover, hnumber⟩ := hm
    exact hP.beside _ listed (hP.made s k _ ⟨hk.1, hk.2, Or.inr ⟨_, rfl⟩⟩
      (fun o ho => ⟨hnumber o ho, fun hc => hcover o ho ((covers_closure_iff o k).mp hc)⟩) h)
  · rwa [askClosure_dropped hm]

theorem ListsKept.trigger (s : State) (path : Nat) (h : P s) : P (s.trigger path) :=
  keep_foldl_mem _ (fun _ hk u hu => by
    obtain ⟨_, -, bounds, -⟩ := mem_threatens.mp hk
    exact hP.askClosure u bounds hu) s h

theorem ListsKept.handLevels (s : State) (rises : List Rise) (h : P s) : P (s.handLevels rises) := by
  unfold State.handLevels
  split
  · exact h
  · exact keep_foldl (fun u k hu => hP.trigger u k hu) _ _
      (hP.beside _ ((lists_handOver _ _ _).trans (lists_reports _ _)) h)

theorem ListsKept.postFloor (s : State) (k level duration : Nat) (h : P s) : P (s.postFloor k level duration) :=
  hP.handLevels _ _ (hP.beside _ (lists_withFigures s k _) h)

theorem ListsKept.takeIndices (s : State) (es : List PathEntry) (h : P s) : P (s.takeIndices es) :=
  hP.handLevels _ _ (hP.beside s
    (lists_foldl (f := fun u (x : Nat × PathFigures × PathFigures) => u.withFigures x.1 x.2.2)
    (fun u x => lists_withFigures u x.1 x.2.2) _ s) h)

theorem ListsKept.endStep (s : State) (h : P s) : P s.endStep := by
  have closed : P (s.closeStep s.stepRecord).emptyChannels := hP.beside s rfl h
  exact hP.beside _ (lists_takeReadouts _ _) (hP.takeIndices _ _ (hP.beside _ (lists_report _ _) closed))

/-! ## Starts (R81, R86, R199 to R201) -/

/-- The held notices of a cold start, segment by segment, on a list that holds those of other segments alone. -/
theorem ListsKept.makeHeld (ks : List Nat) (s : State) (hks : ∀ k ∈ ks, 1 ≤ k ∧ k ≤ 8) (hn : ks.Nodup)
    (hl : ∀ o ∈ s.retained.notices, ∃ j, j ∉ ks ∧ o = heldNotice j) (h : P s) : P (ks.foldl State.makeHeld s) := by
  induction ks generalizing s with
  | nil => exact h
  | cons k ks ih =>
    obtain ⟨hk, hn⟩ := List.nodup_cons.mp hn
    have admits : Admits s.retained.notices k (heldNotice k) := by
      intro o ho
      obtain ⟨j, hj, rfl⟩ := hl o ho
      have ne : j ≠ k := fun e => hj (e ▸ List.mem_cons_self ..)
      refine ⟨fun e => ne ?_, fun hc => ne ?_⟩
      · exact Nat.add_left_cancel e
      · obtain ⟨-, -, hm⟩ := (covers_closure_iff _ k).mp hc
        exact (List.mem_singleton.mp hm).symm
    have bounds := hks k (List.mem_cons_self ..)
    refine ih _ (fun j hj => hks j (List.mem_cons_of_mem _ hj)) hn (fun o ho => ?_)
      (hP.beside _ (lists_report _ _) (hP.made s k _ ⟨bounds.1, bounds.2, Or.inl rfl⟩ admits h))
    obtain rfl | ho := mem_insertNotice.mp ho
    · exact ⟨k, hk, rfl⟩
    · obtain ⟨j, hj, e⟩ := hl o ho
      exact ⟨j, fun hm => hj (List.mem_cons_of_mem _ hm), e⟩

/-- A cold start finds a cleared list. -/
theorem ListsKept.startNotices (s : State) (kind : StartKind) (hc : kind = .cold → s.retained.notices = []) (h : P s) :
    P (s.startNotices kind) := by
  cases kind with
  | cold =>
    refine hP.makeHeld _ s (fun k hk => ?_) ?_ (fun o ho => ?_) h
    · exact mem_numbers.mp (List.mem_filter.mp (List.mem_filter.mp hk).1).1
    · exact (List.nodup_range' 1 Nat.one_pos |>.filter _).filter _
    · rw [hc rfl] at ho
      cases ho
  | warm =>
    unfold State.startNotices
    dsimp only
    split
    · exact hP.walkList s _ h
    · exact h

theorem ListsKept.loaded (s : State) (h : P s) : P s.loaded := by
  cases hk : s.retained.checkHolds with
  | false =>
    refine hP.beside (s.withNotices []) ?_ (hP.cleared s h)
    unfold State.loaded
    rw [hk]
    rfl
  | true =>
    refine hP.beside _ ?_ h
    unfold State.loaded
    rw [hk]
    rfl

omit hP in
theorem loaded_notices_of_cold {s : State} (h : startKind s.retained.checkHolds = .cold) :
    s.loaded.retained.notices = [] := by
  unfold State.loaded
  cases hk : s.retained.checkHolds with
  | false => rfl
  | true =>
    rw [hk] at h
    cases h

theorem ListsKept.startPart (s : State) (cause : StartCause) (requested : Bool) (h : P s) :
    P (s.startPart cause requested) := by
  have gates : lists s.loaded.startGates = lists s.loaded := lists_startGates _
  have noticed : P (s.loaded.startGates.startNotices (startKind s.retained.checkHolds)) :=
    hP.startNotices _ _ (fun hc => (lists_eq_iff.mp gates).2.trans (loaded_notices_of_cold hc))
      (hP.beside _ gates (hP.loaded s h))
  refine hP.beside _ ?_ noticed
  unfold State.startPart
  dsimp only
  rw [lists_withCheck, lists_report, lists_startStrings, lists_startSigns, lists_startSegments]

theorem ListsKept.released (s : State) (kept : Bool) (phase : Moment) (h : P s) : P (s.released kept phase) :=
  hP.startPart _ _ _ (hP.beside s rfl h)

theorem ListsKept.restarted (s : State) (kind : StartKind) (h : P s) : P (s.restarted kind) := by
  refine hP.startPart _ _ _ ?_
  cases kind with
  | warm => exact hP.beside s rfl h
  | cold => exact hP.beside (s.withNotices []) rfl (hP.cleared s h)

theorem ListsKept.replyGone (s : State) (h : P s) : P s.replyGone := by
  unfold State.replyGone
  split
  · have gone := fun l => hP.beside _ (lists_withLine s l) h
    dsimp only
    split
    · exact gone _
    · split
      · exact gone _
      · exact hP.restarted _ _ (gone _)
  · exact h

/-! ## Events and requests -/

theorem ListsKept.event {m : Moment} {f : State → State} {s t : State} (hf : ∀ s, P s → P (f s)) (h : P s)
    (e : event m f s = .next t) : P t := by
  cases hp : s.powered with
  | false =>
    rw [event_unpowered m f s hp] at e
    cases e
    exact h
  | true =>
    rw [event_powered m f s hp] at e
    cases e
    exact hP.beside _ ((lists_kick _).trans (lists_settle _)) (hf _ (hP.beside _ (lists_elapse s m) h))

/-- An event whose effect leaves queue and Notice List. -/
theorem ListsKept.calm {m : Moment} {f : State → State} {s t : State} (hf : ∀ s, lists (f s) = lists s) (h : P s)
    (e : Machine.event m f s = .next t) : P t := hP.event (fun s => hP.beside _ (hf s)) h e

theorem ListsKept.carryOut {kind tag : Byte} {f : State → State × Answer} (hf : ∀ s, P s → P (f s).1) (s : State)
    (h : P s) : P (s.carryOut kind tag f) :=
  hP.beside _ ((lists_placeReply _ _).trans (lists_settle _)) (hf _ (hP.beside _ (lists_popFrame s) h))

theorem ListsKept.request {m : Moment} {kind tag : Byte} {fields : List Byte} {f : State → State × Answer} {s t : State}
    (hf : ∀ s, P s → P (f s).1) (h : P s) (e : request m kind tag fields f s = .next t) : P t := by
  refine hP.event (fun s h => ?_) h e
  split
  · exact hP.carryOut hf s h
  · exact h

/-- A request whose carrying out leaves queue and Notice List. -/
theorem ListsKept.calmRequest {m : Moment} {kind tag : Byte} {fields : List Byte} {f : State → State × Answer}
    {s t : State} (hf : ∀ s, lists (f s).1 = lists s) (h : P s)
    (e : Machine.request m kind tag fields f s = .next t) : P t := hP.request (fun s => hP.beside _ (hf s)) h e

theorem ListsKept.calmRemoval {m : Moment} {item : Nat} {tag : Byte} {fields : List Byte}
    {f : Nat → State → State × Answer} {s t : State} (hf : ∀ k s, lists (f k s).1 = lists s) (h : P s)
    (e : removal m item tag fields f s = .next t) : P t := by
  unfold removal at e
  split at e
  · refine hP.calmRequest (fun s => ?_) h e
    unfold carryRemoval
    split_ifs
    · rfl
    · rfl
    · exact hf _ s
  · exact hP.calm (fun _ => rfl) h e

theorem ListsKept.carryTimeSet (f : List Byte) (s : State) (h : P s) : P (carryTimeSet f s).1 := by
  unfold Machine.carryTimeSet
  split_ifs
  · exact h
  · exact h
  · exact hP.setClock s _ h

theorem ListsKept.carryNoticePost (f : List Byte) (s : State) (h : P s) : P (carryNoticePost f s).1 := by
  unfold Machine.carryNoticePost
  split
  · exact h
  · split
    · exact h
    · exact hP.post s _ ‹_› h

theorem ListsKept.carryNoticeWithdraw (f : List Byte) (s : State) (h : P s) : P (carryNoticeWithdraw f s).1 := by
  unfold Machine.carryNoticeWithdraw
  split
  · exact h
  · split
    · exact h
    · exact hP.withdraw s _ h

theorem ListsKept.carryPathFloor (f : List Byte) (s : State) (h : P s) : P (carryPathFloor f s).1 := by
  unfold Machine.carryPathFloor
  split
  · exact h
  · exact hP.postFloor s _ _ _ h

end

/-! ## Requests that leave queue and Notice List -/

section
variable (f : List Byte) (s : State)

theorem lists_removeItem {α : Type} {n k : Nat} {table : Vector (Option α) n} {g : α → State → State × Answer}
    (hg : ∀ r, lists (g r s).1 = lists s) : lists (removeItem k table g s).1 = lists s := by
  unfold removeItem
  split
  · rfl
  · split
    · rfl
    · exact hg _

theorem lists_queryItem {α : Type} {n : Nat} (table : Vector (Option α) n) (reply : Nat → α → List Byte) :
    lists (queryItem f table reply s).1 = lists s := by
  unfold queryItem
  split_ifs
  · rfl
  · rfl
  · split <;> rfl

theorem lists_gateRequest {act : Nat → GateRecord → GateState → State → State × Answer}
    (ha : ∀ k r g, lists (act k r g s).1 = lists s) : lists (gateRequest f act s).1 = lists s := by
  unfold gateRequest
  split_ifs
  · rfl
  · rfl
  · split
    · exact ha _ _ _
    · rfl

theorem lists_gateRaise : lists (carryGateRaise f s).1 = lists s :=
  lists_gateRequest f s fun k r g => by
    unfold raiseGate
    split_ifs <;> simp

theorem lists_gateClear : lists (carryGateClear f s).1 = lists s :=
  lists_gateRequest f s fun k r g => by
    unfold clearGate
    split_ifs <;> simp

theorem lists_definePath : lists (carryDefinePath f s).1 = lists s := by
  unfold carryDefinePath
  split <;> simp

theorem lists_removePath (k : Nat) : lists (carryRemovePath k s).1 = lists s :=
  lists_removeItem s fun r => lists_dropPath s k r

theorem lists_defineSegment : lists (carryDefineSegment f s).1 = lists s := by
  unfold carryDefineSegment
  split <;> simp

theorem lists_removeSegment (k : Nat) : lists (carryRemoveSegment k s).1 = lists s :=
  lists_removeItem s fun r => by
    split <;> simp

theorem lists_defineGate : lists (carryDefineGate f s).1 = lists s := by
  unfold carryDefineGate
  split <;> simp

theorem lists_removeGate (k : Nat) : lists (carryRemoveGate k s).1 = lists s :=
  lists_removeItem s fun r => by
    split <;> simp

theorem lists_defineSign : lists (carryDefineSign f s).1 = lists s := by
  unfold carryDefineSign
  split <;> simp

theorem lists_removeSign (k : Nat) : lists (carryRemoveSign k s).1 = lists s :=
  lists_removeItem s fun r => by
    split <;> simp

theorem lists_defineProfile : lists (carryDefineProfile f s).1 = lists s := by
  unfold carryDefineProfile
  split_ifs
  · rfl
  · rfl
  · split <;> simp

theorem lists_removeProfile (k : Nat) : lists (carryRemoveProfile k s).1 = lists s :=
  lists_removeItem s fun r => by
    split <;> simp

theorem lists_defineGroup : lists (carryDefineGroup f s).1 = lists s := by
  unfold carryDefineGroup
  split <;> simp

theorem lists_removeGroup (k : Nat) : lists (carryRemoveGroup k s).1 = lists s :=
  lists_removeItem s fun _ => rfl

theorem lists_pageWrite : lists (carryPageWrite f s).1 = lists s := by
  unfold carryPageWrite
  split
  · rfl
  · split
    · split <;> simp
    · rfl

theorem lists_pageSwap : lists (carryPageSwap f s).1 = lists s := by
  unfold carryPageSwap
  split
  · rfl
  · split
    · rfl
    · split <;> simp

theorem lists_textLoad : lists (carryTextLoad f s).1 = lists s := by
  unfold carryTextLoad
  split
  · rfl
  · split <;> simp

theorem lists_queryText : lists (carryQueryText f s).1 = lists s := by
  unfold carryQueryText
  split_ifs <;> rfl

theorem lists_calibrate : lists (carryCalibrate f s).1 = lists s := by
  unfold carryCalibrate
  split <;> rfl

theorem lists_linkSet : lists (carryLinkSet f s).1 = lists s := by
  unfold carryLinkSet
  split_ifs
  · rfl
  · rfl
  · split <;> simp

theorem lists_restart : lists (carryRestart f s).1 = lists s := by
  unfold carryRestart
  split
  · rfl
  · split <;> rfl

theorem lists_queryStatus : lists (carryQueryStatus f s).1 = lists s := by
  unfold carryQueryStatus
  split <;> rfl

theorem lists_queryNotices : lists (carryQueryNotices f s).1 = lists s := by
  unfold carryQueryNotices
  split_ifs <;> rfl

theorem lists_queryStep : lists (carryQueryStep f s).1 = lists s := by
  unfold carryQueryStep
  split
  · rfl
  · dsimp only
    split <;> rfl

end

/-! ## Every command -/

section
variable {P : State → Prop} (hP : ListsKept P)
include hP

theorem ListsKept.pinOr {m : Moment} {g : State → State} {line : Nat} {high : Bool} {s t : State}
    (hg : ∀ s, lists (g s) = lists s) (h : P s)
    (e : (if s.powered then Machine.event m g s else .next (s.withPin line high)) = .next t) : P t := by
  split at e
  · exact hP.calm hg h e
  · cases e
    exact hP.beside _ (lists_withPin s line high) h

theorem ListsKept.clockTick {m : Moment} {s t : State} (h : P s) (e : execClockTick m s = .next t) : P t := by
  unfold execClockTick at e
  split at e
  · exact hP.event (keep_if fun s => hP.tick s) h e
  · cases e
    exact hP.beside s rfl h

theorem ListsKept.replySent {m : Moment} {s t : State} (h : P s) (e : execReplySent m s = .next t) : P t := by
  cases e
  split
  · exact hP.beside _ ((lists_goOn _).trans (lists_settle _)) (hP.replyGone _ (hP.beside _ (lists_elapse s m) h))
  · exact h

theorem ListsKept.start {kept : Bool} {phase : Moment} {s t : State} (h : P s) (e : execStart kept phase s = .next t) :
    P t := by
  unfold execStart at e
  injection e with e
  rw [← e]
  exact hP.beside _ ((lists_kick _).trans (lists_settle _)) (hP.released s kept phase h)

theorem ListsKept.supplyLoss {m : Moment} {cut : Bool} {s t : State} (h : P s)
    (e : execSupplyLoss m cut s = .next t) : P t := by
  cases e
  split
  · exact hP.beside s rfl h
  · exact h

omit hP in
/-- An effect on a condition leaves both lists if the effect does. -/
theorem lists_if {c : State → Prop} [DecidablePred c] {g : State → State} (hg : ∀ s, lists (g s) = lists s)
    (s : State) : lists (if c s then g s else s) = lists s := by
  split
  · exact hg s
  · rfl

omit hP in
theorem lists_savesSettings (tag : Byte) (fields : List Byte) (s : State) :
    lists (if s.takes ⟨kindSaveSettings, tag :: fields⟩ then
      if fields.isEmpty then s.popFrame.beginSave tag else s.carryOut kindSaveSettings tag (refuse .malformed)
    else s) = lists s := by
  split_ifs
  · rfl
  · exact (lists_placeReply _ _).trans (lists_settle _)
  · rfl

theorem ListsKept.storeWriteEnd {m : Moment} {accepted : Bool} {s t : State} (h : P s)
    (e : execStoreWriteEnd m accepted s = .next t) : P t := by
  refine hP.calm (fun s => ?_) h e
  split
  · rfl
  · split <;> simp

theorem ListsKept.storeWriteTimeout {m : Moment} {s t : State} (h : P s)
    (e : execStoreWriteTimeout m s = .next t) : P t := by
  refine hP.calm (fun s => ?_) h e
  split
  · rfl
  · split <;> simp

theorem ListsKept.changeEvent {m : Moment} {line : Nat} {s t : State} (h : P s)
    (e : execChangeEvent m line s = .next t) : P t := by
  refine hP.calm (fun s => ?_) h e
  split <;> simp

/-- Every command keeps what everything keeps that happens to the Notice List. -/
theorem ListsKept.exec {i : Instr} {s t : State} (h : P s) (e : exec i s = .next t) : P t := by
  cases i with
  | timeSet m tag f => exact hP.request (hP.carryTimeSet f) h e
  | noticePost m tag f => exact hP.request (hP.carryNoticePost f) h e
  | noticeWithdraw m tag f => exact hP.request (hP.carryNoticeWithdraw f) h e
  | pathFloor m tag f => exact hP.request (hP.carryPathFloor f) h e
  | stepEnd m => exact hP.event (keep_if fun s => hP.endStep s) h e
  | clockTick m => exact hP.clockTick h e
  | replySent m => exact hP.replySent h e
  | start kept phase => exact hP.start h e
  | supplyLoss m cut => exact hP.supplyLoss h e
  | pageWrite m tag f => exact hP.calmRequest (lists_pageWrite f) h e
  | pageSwap m tag f => exact hP.calmRequest (lists_pageSwap f) h e
  | textLoad m tag f => exact hP.calmRequest (lists_textLoad f) h e
  | gateRaise m tag f => exact hP.calmRequest (lists_gateRaise f) h e
  | gateClear m tag f => exact hP.calmRequest (lists_gateClear f) h e
  | restart m tag f => exact hP.calmRequest (lists_restart f) h e
  | definePath m tag f => exact hP.calmRequest (lists_definePath f) h e
  | defineSegment m tag f => exact hP.calmRequest (lists_defineSegment f) h e
  | defineGate m tag f => exact hP.calmRequest (lists_defineGate f) h e
  | defineSign m tag f => exact hP.calmRequest (lists_defineSign f) h e
  | defineProfile m tag f => exact hP.calmRequest (lists_defineProfile f) h e
  | defineGroup m tag f => exact hP.calmRequest (lists_defineGroup f) h e
  | removePath m tag f => exact hP.calmRemoval (fun k s => lists_removePath s k) h e
  | removeSegment m tag f => exact hP.calmRemoval (fun k s => lists_removeSegment s k) h e
  | removeGate m tag f => exact hP.calmRemoval (fun k s => lists_removeGate s k) h e
  | removeSign m tag f => exact hP.calmRemoval (fun k s => lists_removeSign s k) h e
  | removeProfile m tag f => exact hP.calmRemoval (fun k s => lists_removeProfile s k) h e
  | removeGroup m tag f => exact hP.calmRemoval (fun k s => lists_removeGroup s k) h e
  | calibrate m tag f => exact hP.calmRequest (lists_calibrate f) h e
  | linkSet m tag f => exact hP.calmRequest (lists_linkSet f) h e
  | saveSettings m tag f => exact hP.calm (lists_savesSettings tag f) h e
  | queryStatus m tag f => exact hP.calmRequest (lists_queryStatus f) h e
  | queryPath m tag f => exact hP.calmRequest (fun s => lists_queryItem f s _ _) h e
  | querySegment m tag f => exact hP.calmRequest (fun s => lists_queryItem f s _ _) h e
  | queryGate m tag f => exact hP.calmRequest (fun s => lists_queryItem f s _ _) h e
  | querySign m tag f => exact hP.calmRequest (fun s => lists_queryItem f s _ _) h e
  | queryNotices m tag f => exact hP.calmRequest (lists_queryNotices f) h e
  | queryStep m tag f => exact hP.calmRequest (lists_queryStep f) h e
  | queryText m tag f => exact hP.calmRequest (lists_queryText f) h e
  | unknownKind m kind body => exact hP.event (keep_if (hP.carryOut fun _ h => h)) h e
  | stationFrameReceived m bytes => exact hP.calm (fun s => lists_receiveBytes s bytes) h e
  | badLength m length => exact hP.calm (lists_if fun s => lists_receiveBytes s [length]) h e
  | missingStopBit m => exact hP.calm lists_dropFrame h e
  | gapExpiry m => exact hP.calm (lists_if lists_dropFrame) h e
  | reportAgeExpiry m => exact hP.calm (fun _ => rfl) h e
  | reportFrameSent m => exact hP.calm (lists_if lists_reportsGone) h e
  | silenceLimitReached m => exact hP.calm lists_checkSilence h e
  | storeWriteEnd m accepted => exact hP.storeWriteEnd h e
  | storeWriteTimeout m => exact hP.storeWriteTimeout h e
  | fieldLineChange m line high => exact hP.pinOr (fun s => lists_lineTransition s line high) h e
  | widthEdge m line high => exact hP.pinOr (lists_if fun s => lists_lineTransition s line high) h e
  | changeEvent m line => exact hP.changeEvent h e
  | vaneSample m => exact hP.calm (lists_if lists_sampledOnce) h e
  | holdDeadline m k => exact hP.calm (fun s => lists_loweringTest s k) h e
  | clearZoneExpiry m k => exact hP.calm (lists_if fun s => lists_loweringTest (s.withZone k .idle) k) h e
  | travelTimeout m k => exact hP.calm (lists_if fun s => lists_travelExpired s k) h e
  | refreshDue m k => exact hP.calm (fun s => lists_chooseFor s k _) h e
  | retryDue m k => exact hP.calm (fun s => lists_chooseFor s k _) h e
  | imageFrameSent m x => exact hP.calm (fun s => lists_imageSent s x) h e
  | shownFrameReceived m x bytes => exact hP.calm (lists_foldl (fun s b => lists_stringByte s x b) bytes) h e
  | replyWindowEnd m x => exact hP.calm (fun s => lists_windowEnds s x) h e

end

end Sys2Proof.Proofs
end

section
/-! The Notice List in order (R72): each thing that happens to the list keeps it in list order, without double numbers,
and within 24 station records and one part-made record for each segment (O54). -/

namespace Sys2Proof.Proofs

open Sys2Proof Sys2Proof.Machine Sys2Proof.Laws Sys2Proof.Claims

/-! ## The invariant as a property of the list -/

/-- List order, free numbers, and the part's own records: each held or autonomous, one for a segment. -/
structure ListInOrder (l : List Notice) : Prop where
  order : l.Pairwise fun a b => a.precedes b = true
  unique : (l.map Notice.number).Nodup
  stations : (stationNotices l).length ≤ 24
  above : ∀ n ∈ l, n.origin ≠ .station → 59999 < n.number
  made : ∀ n ∈ l, n.origin ≠ .station → ∃ k, MadeFor k n
  once : ((partMadeNotices l).map Notice.segments).Nodup

theorem listInOrder_iff (s : State) : ListInOrder s.retained.notices ↔ s.NoticesInOrder ∧ s.PartMadeOnce :=
  ⟨fun ⟨h1, h2, h3, h4, h5, h6⟩ => ⟨⟨h1, h2, h3, h4⟩, h5, h6⟩,
    fun ⟨⟨h1, h2, h3, h4⟩, h5, h6⟩ => ⟨h1, h2, h3, h4, h5, h6⟩⟩

theorem ListInOrder.nil : ListInOrder [] := ⟨.nil, .nil, Nat.zero_le 24, nofun, nofun, .nil⟩

/-! ## The part's own records -/

theorem MadeFor.origin_ne {k : Nat} {n : Notice} (h : MadeFor k n) : n.origin ≠ .station := by
  obtain ⟨-, -, rfl | ⟨since, rfl⟩⟩ := h
  · nofun
  · nofun

theorem MadeFor.segments {k : Nat} {n : Notice} (h : MadeFor k n) : n.segments = [k] := by
  obtain ⟨-, -, rfl | ⟨since, rfl⟩⟩ := h
  · rfl
  · rfl

theorem MadeFor.above {k : Nat} {n : Notice} (h : MadeFor k n) : 59999 < n.number := by
  obtain ⟨-, -, rfl | ⟨since, rfl⟩⟩ := h
  · exact (show 59999 < 60100 by decide).trans_le (Nat.le_add_right 60100 k)
  · exact (show 59999 < 60200 by decide).trans_le (Nat.le_add_right 60200 k)

/-- A part-made record is an ACTIVE closure of its segment. -/
theorem MadeFor.covers {k : Nat} {n : Notice} (h : MadeFor k n) : n.covers .closure k = true := by
  obtain ⟨-, -, rfl | ⟨since, rfl⟩⟩ := h
  · exact (covers_closure_iff _ k).mpr ⟨⟨_, rfl⟩, rfl, List.mem_singleton.mpr rfl⟩
  · exact (covers_closure_iff _ k).mpr ⟨⟨_, rfl⟩, rfl, List.mem_singleton.mpr rfl⟩

/-- A part-made record has no start and no end, so a walk leaves it (R81, R83). -/
theorem MadeFor.walk {k : Nat} {n : Notice} (h : MadeFor k n) (now : Nat) : (n.walk now).after = some n := by
  obtain ⟨-, -, rfl | ⟨since, rfl⟩⟩ := h
  · rfl
  · rfl

/-! ## Records leave the list (R78) -/

theorem ListInOrder.sublist {l m : List Notice} (h : ListInOrder l) (hs : m.Sublist l) : ListInOrder m where
  order := h.order.sublist hs
  unique := h.unique.sublist (hs.map _)
  stations := (hs.filter _).length_le.trans h.stations
  above n hn := h.above n (hs.subset hn)
  made n hn := h.made n (hs.subset hn)
  once := h.once.sublist ((hs.filter _).map _)

theorem ListInOrder.without {l : List Notice} (h : ListInOrder l) (k : Nat) : ListInOrder (withoutNotice k l) :=
  h.sublist List.filter_sublist

/-! ## Records join the list (R72) -/

/-- What a record has to be to join a list that is in order. -/
structure Joins (n : Notice) (l : List Notice) : Prop where
  number : ∀ o ∈ l, o.number ≠ n.number
  station : n.origin = .station → (stationNotices l).length < 24
  made : n.origin ≠ .station → ∃ k, MadeFor k n ∧ ∀ o ∈ l, ¬ o.covers .closure k = true

theorem ListInOrder.insert {l : List Notice} {n : Notice} (h : ListInOrder l) (hn : Joins n l) :
    ListInOrder (insertNotice n l) := by
  have perm := insertNotice_perm n l
  refine ⟨insertNotice_pairwise h.order hn.number, ?_, ?_, fun o ho => ?_, fun o ho => ?_, ?_⟩
  · refine (perm.map _).nodup_iff.mpr (List.nodup_cons.mpr ⟨fun hm => ?_, h.unique⟩)
    obtain ⟨o, ho, e⟩ := List.mem_map.mp hm
    exact hn.number o ho e
  · unfold stationNotices
    rw [(perm.filter _).length_eq, List.filter_cons]
    split
    · exact hn.station (beq_iff_eq.mp ‹_›)
    · exact h.stations
  · obtain rfl | ho := mem_insertNotice.mp ho
    · intro hs
      obtain ⟨k, hk, -⟩ := hn.made hs
      exact hk.above
    · exact h.above o ho
  · obtain rfl | ho := mem_insertNotice.mp ho
    · intro hs
      obtain ⟨k, hk, -⟩ := hn.made hs
      exact ⟨k, hk⟩
    · exact h.made o ho
  · refine ((perm.filter _).map _).nodup_iff.mpr ?_
    rw [List.filter_cons]
    split
    · obtain ⟨k, hk, hcover⟩ := hn.made (bne_iff_ne.mp ‹_›)
      refine List.nodup_cons.mpr ⟨fun hm => ?_, h.once⟩
      obtain ⟨o, ho, e⟩ := List.mem_map.mp hm
      obtain ⟨ho, hs⟩ := List.mem_filter.mp ho
      obtain ⟨j, hj⟩ := h.made o ho (bne_iff_ne.mp hs)
      have same : j = k := List.singleton_inj.mp (hj.segments.symm.trans (e.trans hk.segments))
      exact hcover o ho (same ▸ hj.covers)
    · exact h.once

/-! ## A clock walk (R70, R76, R77) -/

/-- A record that a walk leaves keeps its segments. -/
theorem walk_keeps_segments {n m : Notice} {now : Nat} (h : (n.walk now).after = some m) : m.segments = n.segments := by
  unfold Notice.walk at h
  dsimp only at h
  split at h
  · cases h
  · obtain rfl : (n.activated now).getD n = m := by simpa using h
    unfold Notice.activated
    split <;> rfl

theorem mem_walkedList {m : Notice} {now : Nat} {l : List Notice} :
    m ∈ walkedList now l ↔ ∃ n ∈ l, (n.walk now).after = some m := List.mem_filterMap

theorem filter_walkedList {p : Notice → Bool} (hp : ∀ a b : Notice, a.origin = b.origin → p a = p b) (now : Nat)
    (l : List Notice) : (walkedList now l).filter p = walkedList now (l.filter p) := by
  unfold walkedList
  rw [List.filter_filterMap, List.filterMap_filter]
  refine List.filterMap_congr fun n _ => ?_
  cases hw : (n.walk now).after with
  | none => simp
  | some m =>
    obtain ⟨-, -, origin⟩ := walk_keeps hw
    simp [Option.filter, hp m n origin]

/-- Fields that a walk keeps, distinct in the list, are distinct after the walk. -/
theorem nodup_map_walkedList {α : Type} {f : Notice → α} {now : Nat}
    (hf : ∀ n m : Notice, (n.walk now).after = some m → f m = f n) {l : List Notice} (h : (l.map f).Nodup) :
    ((walkedList now l).map f).Nodup := by
  refine List.pairwise_map.mpr (List.Pairwise.filterMap _ (fun a b ne c hc d hd => ?_) (List.pairwise_map.mp h))
  rw [hf a c hc, hf b d hd]
  exact ne

theorem precedes_congr {a b c d : Notice} (hn : c.number = a.number) (hk : c.effectiveKey = a.effectiveKey)
    (hm : d.number = b.number) (hj : d.effectiveKey = b.effectiveKey) : c.precedes d = a.precedes b := by
  unfold Notice.precedes
  rw [hn, hk, hm, hj]

theorem ListInOrder.walk {l : List Notice} (h : ListInOrder l) (now : Nat) : ListInOrder (walkedList now l) where
  order := by
    refine List.Pairwise.filterMap _ (fun a b ab c hc d hd => ?_) h.order
    obtain ⟨number, key, -⟩ := walk_keeps hc
    obtain ⟨number', key', -⟩ := walk_keeps hd
    exact (precedes_congr number key number' key').trans ab
  unique := nodup_map_walkedList (fun _ _ hw => (walk_keeps hw).1) h.unique
  stations := by
    unfold stationNotices
    rw [filter_walkedList (fun a b e => by rw [e])]
    exact (List.length_filterMap_le _ _).trans h.stations
  above m hm hs := by
    obtain ⟨n, hn, hw⟩ := mem_walkedList.mp hm
    obtain ⟨number, -, origin⟩ := walk_keeps hw
    rw [number]
    exact h.above n hn (origin ▸ hs)
  made m hm hs := by
    obtain ⟨n, hn, hw⟩ := mem_walkedList.mp hm
    obtain ⟨-, -, origin⟩ := walk_keeps hw
    obtain ⟨k, hk⟩ := h.made n hn (origin ▸ hs)
    obtain rfl : n = m := Option.some.inj ((hk.walk now).symm.trans hw)
    exact ⟨k, hk⟩
  once := by
    unfold partMadeNotices
    rw [filter_walkedList (fun a b e => by rw [e])]
    exact nodup_map_walkedList (fun _ _ => walk_keeps_segments) h.once

/-! ## A post (R73 to R75) -/

theorem recordOf_origin (s : State) (p : PostedNotice) : (s.recordOf p).origin = .station := rfl

/-- A post that is not refused has a station's number, and finds its number or room (R73). -/
theorem posted_accepted {s : State} {p : PostedNotice} (h : s.postRefusal p = none) :
    p.number ≤ 59999 ∧ PostRoom s p := by
  obtain ⟨r, hr⟩ := exists_firstUnmet
    [needs .noClock (PostTimed s p), needs .range (PostInRange s p), needs .full (PostRoom s p)]
  obtain rfl : r = none := (finds_post s p r hr).trans (by rw [h]; rfl)
  obtain ⟨-, e⟩ | ⟨-, hr⟩ := hr
  · cases e
  · obtain ⟨-, e⟩ | ⟨range, hr⟩ := hr
    · cases e
    · obtain ⟨-, e⟩ | ⟨room, -⟩ := hr
      · cases e
      · exact ⟨range.2.1, room⟩

/-- Where a number is a station's, taking its record out of the list makes room for one (R74). -/
theorem room_without {l : List Notice} {k : Nat} (h : ListInOrder l) (hk : k ≤ 59999)
    (hroom : findNotice k l = none → (stationNotices l).length < 24) :
    (stationNotices (withoutNotice k l)).length < 24 := by
  cases hf : findNotice k l with
  | none => exact (List.filter_sublist.filter _).length_le.trans_lt (hroom hf)
  | some n =>
    obtain ⟨hn, number⟩ := findNotice_some hf
    have station : n.origin = .station := by
      by_contra hs
      exact absurd (h.above n hn hs) (by omega)
    have listed : n ∈ stationNotices l := List.mem_filter.mpr ⟨hn, by simp [station]⟩
    have fewer : (stationNotices (withoutNotice k l)).length < (stationNotices l).length := by
      have comm : stationNotices (withoutNotice k l) = (stationNotices l).filter fun o => o.number != k :=
        List.filter_comm ..
      rw [comm]
      exact List.length_filter_lt_length_iff_exists.mpr ⟨n, listed, by simp [number]⟩
    exact fewer.trans_le h.stations

theorem ListInOrder.posted {s : State} {p : PostedNotice} (h : ListInOrder s.retained.notices)
    (hp : s.postRefusal p = none) : ListInOrder (postedList (s.recordOf p) s.retained.notices) := by
  obtain ⟨hk, hroom⟩ := posted_accepted hp
  refine (h.without _).insert ⟨fun o ho => (number_of_mem_withoutNotice ho).2, fun _ => ?_, fun hs => ?_⟩
  · exact room_without h hk hroom
  · exact absurd (recordOf_origin s p) hs

/-! ## The whole list -/

/-- A list in order holds at most 24 station records and 8 part-made ones. -/
theorem ListInOrder.length_le {l : List Notice} (h : ListInOrder l) : l.length ≤ 32 := by
  have parts : l.length = (stationNotices l).length + (partMadeNotices l).length :=
    List.length_eq_length_filter_add (l := l) fun n => n.origin == .station
  have eight : ((partMadeNotices l).map Notice.segments).length ≤ ((numbers 8).map fun k => [k]).length := by
    refine (h.once.subperm fun ks hks => ?_).length_le
    obtain ⟨n, hn, rfl⟩ := List.mem_map.mp hks
    obtain ⟨hn, hs⟩ := List.mem_filter.mp hn
    obtain ⟨k, hk⟩ := h.made n hn (bne_iff_ne.mp hs)
    have ⟨h1, h8, _⟩ := hk
    exact List.mem_map.mpr ⟨k, mem_numbers.mpr ⟨h1, h8⟩, hk.segments.symm⟩
  have size : ((numbers 8).map fun k => [k]).length = 8 := rfl
  rw [size, List.length_map] at eight
  have := h.stations
  omega

/-- Everything that happens to the Notice List keeps it in order. -/
theorem kept_listInOrder : ListsKept fun s => ListInOrder s.retained.notices where
  beside _ _ he h := (lists_eq_iff.mp he).2 ▸ h
  walked _ now h := h.walk now
  posted _ _ hp h := h.posted hp
  withdrawn _ k h := h.without k
  made _ k _ hk ha h := h.insert ⟨fun o ho => (ha o ho).1, fun hs => absurd hs hk.origin_ne,
    fun _ => ⟨k, hk, fun o ho => (ha o ho).2⟩⟩
  cleared _ _ := .nil

/-- Settles O54: every command keeps the list in order, and a list in order has at most 32 records. -/
theorem noticeListStaysInOrder : Obligations.NoticeListStaysInOrder := by
  intro s t hn hm e
  have kept : ListInOrder t.retained.notices := by
    have before := (listInOrder_iff s).mpr ⟨hn, hm⟩
    obtain rfl | ⟨c, rest, -, hx⟩ := step_cases e
    · exact before
    · exact kept_listInOrder.exec (s := { s with pending := rest }) before hx
  obtain ⟨hn', hm'⟩ := (listInOrder_iff t).mp kept
  exact ⟨hn', hm', kept.length_le⟩

end Sys2Proof.Proofs
end

section
/-! Every command answers a next state and leaves the queue; what a part held in reset takes (O2, R68, R200). -/

namespace Sys2Proof.Proofs

open Sys2Proof Sys2Proof.Machine Sys2Proof.Laws Sys2Proof.Claims

/-! ## Every command answers -/

theorem answers_ite {p : Prop} [Decidable p] {a b : Result} (ha : ∃ t, a = .next t) (hb : ∃ t, b = .next t) :
    ∃ t, (if p then a else b) = .next t := by
  split
  · exact ha
  · exact hb

/-- No command ends in a fault or a refusal. -/
theorem exec_answers (i : Instr) (s : State) : ∃ t, exec i s = .next t := by
  cases i with
  | removePath | removeSegment | removeGate | removeSign | removeProfile | removeGroup | fieldLineChange | widthEdge
  | clockTick => exact answers_ite ⟨_, rfl⟩ ⟨_, rfl⟩
  | _ => exact ⟨_, rfl⟩

/-- Nothing that happens to the Notice List touches the queue. -/
theorem kept_pending (p : List Instr) : ListsKept fun s => s.pending = p where
  beside _ _ he h := (lists_eq_iff.mp he).1.trans h
  walked _ _ h := h
  posted _ _ _ h := h
  withdrawn _ _ h := h
  made _ _ _ _ _ h := h
  cleared _ h := h

/-! ## A part held in reset (R200) -/

theorem removal_unpowered {s : State} (hp : s.powered = false) (m : Moment) (item : Nat) (tag : Byte) (f : List Byte)
    (g : Nat → State → State × Answer) : removal m item tag f g s = .next s := by
  unfold removal
  split
  · exact event_unpowered m _ s hp
  · exact event_unpowered m _ s hp

/-- A part held in reset takes nothing but a start, a line's level and its clock's second. -/
theorem exec_unpowered {i : Instr} {s : State} (hp : s.powered = false) (hs : ∀ kept phase, i ≠ .start kept phase)
    (hl : ∀ m line high, i ≠ .fieldLineChange m line high ∧ i ≠ .widthEdge m line high) (hc : ∀ m, i ≠ .clockTick m) :
    exec i s = .next s := by
  have unlit : ∀ t : State, (if s.powered = true then t else s) = s := fun t => if_neg (by simp [hp])
  cases i with
  | start kept phase => exact absurd rfl (hs kept phase)
  | fieldLineChange m line high => exact absurd rfl (hl m line high).1
  | widthEdge m line high => exact absurd rfl (hl m line high).2
  | clockTick m => exact absurd rfl (hc m)
  | removePath m tag f => exact removal_unpowered hp m itemPath tag f carryRemovePath
  | removeSegment m tag f => exact removal_unpowered hp m itemSegment tag f carryRemoveSegment
  | removeGate m tag f => exact removal_unpowered hp m itemGate tag f carryRemoveGate
  | removeSign m tag f => exact removal_unpowered hp m itemSign tag f carryRemoveSign
  | removeProfile m tag f => exact removal_unpowered hp m itemProfile tag f carryRemoveProfile
  | removeGroup m tag f => exact removal_unpowered hp m itemGroup tag f carryRemoveGroup
  | replySent m => exact congrArg _ (unlit _)
  | supplyLoss m cut => exact congrArg _ (unlit _)
  | _ => exact event_unpowered _ _ s hp

theorem pin_unpowered {i : Instr} {m : Moment} {line : Nat} {high : Bool} {s : State} (hp : s.powered = false)
    (hi : i = .fieldLineChange m line high ∨ i = .widthEdge m line high) :
    exec i s = .next (s.withPin line high) := by
  have unlit : ∀ u : Result, (if s.powered = true then u else .next (s.withPin line high)) =
      .next (s.withPin line high) := fun u => if_neg (by simp [hp])
  obtain rfl | rfl := hi
  · exact unlit _
  · exact unlit _

theorem tick_unpowered {s : State} (hp : s.powered = false) (m : Moment) :
    exec (.clockTick m) s = .next s.tickHeld := if_neg (by simp [hp])

theorem frame_withClock (s : State) (time : Option Nat) : Frame [.clock] s (s.withClock time) := by
  intro p hp
  cases p <;> first
    | exact absurd (show (_ : Part) ∈ [Part.clock] by decide) hp
    | exact Eq.refl _
    | exact ⟨Eq.refl _, Eq.refl _⟩

/-- Settles O2: every command answers, its effects leave the queue, and a part held in reset takes a start alone. -/
theorem everyCommandAnswersNext : Obligations.EveryCommandAnswersNext := by
  refine ⟨fun i s => ?_, fun i s hp hs hl hc => exec_unpowered hp hs hl hc, fun m line high s hp h1 h16 i hi => ?_,
    fun m s hp => ?_⟩
  · obtain ⟨t, e⟩ := exec_answers i s
    exact ⟨t, e, (kept_pending s.pending).exec rfl e⟩
  · exact ⟨_, pin_unpowered hp hi, levelAt_putItem_self _ _ h1 h16, fun j hj => levelAt_putItem_ne _ _ hj,
      frame_withPin s line high⟩
  · exact ⟨_, tick_unpowered hp m, rfl, frame_withClock s _⟩

end Sys2Proof.Proofs
end

section
/-! The governing notice of a segment (O22, R80), and the ask for an autonomous closure (O25, R82, R83). -/

namespace Sys2Proof.Proofs

open Sys2Proof Sys2Proof.Machine Sys2Proof.Laws Sys2Proof.Claims

/-! ## The first record in list order (R72, R80) -/

/-- A record that another does not precede has the lower effective start, or the same and no higher number. -/
theorem not_precedes_iff (a b : Notice) : a.precedes b = false ↔
    b.effectiveKey < a.effectiveKey ∨ (b.effectiveKey = a.effectiveKey ∧ b.number ≤ a.number) := by
  rw [← Bool.not_eq_true, precedes_iff]
  omega

theorem earliest_eq_none_iff (l : List Notice) : earliest l = none ↔ l = [] := by
  cases l with
  | nil => exact iff_of_true rfl rfl
  | cons n rest =>
    refine iff_of_false ?_ (List.cons_ne_nil n rest)
    unfold earliest
    split
    · nofun
    · split <;> nofun

/-- The earliest of some records is one of them, and none precedes it. -/
theorem earliest_eq_some {l : List Notice} {n : Notice} (h : earliest l = some n) :
    n ∈ l ∧ ∀ o ∈ l, o.precedes n = false := by
  induction l generalizing n with
  | nil => cases h
  | cons x rest ih =>
    have irrefl : ∀ a : Notice, a.precedes a = false := fun a => (not_precedes_iff a a).mpr (by omega)
    unfold earliest at h
    cases hr : earliest rest with
    | none =>
      rw [hr] at h
      cases h
      rw [(earliest_eq_none_iff rest).mp hr]
      exact ⟨List.mem_singleton.mpr rfl, fun o ho => List.mem_singleton.mp ho ▸ irrefl x⟩
    | some m =>
      obtain ⟨hm, least⟩ := ih hr
      simp only [hr] at h
      by_cases hp : m.precedes x = true
      · rw [if_pos hp] at h
        cases h
        refine ⟨List.mem_cons_of_mem _ hm, List.forall_mem_cons.mpr ⟨?_, least⟩⟩
        rw [precedes_iff] at hp
        rw [not_precedes_iff]
        omega
      · rw [if_neg hp] at h
        cases h
        refine ⟨List.mem_cons_self .., List.forall_mem_cons.mpr ⟨irrefl x, fun o ho => ?_⟩⟩
        have first := (not_precedes_iff m x).mp (Bool.eq_false_iff.mpr hp)
        have next := (not_precedes_iff o m).mp (least o ho)
        rw [not_precedes_iff]
        omega

theorem covers_iff (kind : NoticeKind) (k : Nat) (n : Notice) : n.covers kind k = true ↔
    (∃ since, n.state = .active since) ∧ n.kind = kind ∧ k ∈ n.segments := by
  unfold Notice.covers Notice.isActive
  cases n.state <;> simp

theorem effectiveKey_active {n : Notice} {since : Option Nat} (h : n.state = .active since) :
    n.effectiveKey = timeKey since := by
  unfold Notice.effectiveKey
  rw [h]

/-- Settles O22: the governing notice is the first in list order of the records that cover the segment. -/
theorem governingNotice : Obligations.GoverningNotice := by
  intro s kind k
  refine ⟨?_, fun n h => ?_⟩
  · unfold State.governing
    rw [earliest_eq_none_iff, List.filter_eq_nil_iff]
    exact forall₂_congr fun n _ => not_congr (covers_iff kind k n)
  · obtain ⟨hn, least⟩ := earliest_eq_some h
    obtain ⟨listed, covers⟩ := List.mem_filter.mp hn
    obtain ⟨⟨since, active⟩, hkind, hseg⟩ := (covers_iff kind k n).mp covers
    refine ⟨listed, hkind, hseg, since, active, fun o ho since' active' hkind' hseg' => ?_⟩
    have covered : o.covers kind k = true := (covers_iff kind k o).mpr ⟨⟨since', active'⟩, hkind', hseg'⟩
    have after := (not_precedes_iff o n).mp (least o (List.mem_filter.mpr ⟨ho, covered⟩))
    rwa [effectiveKey_active active, effectiveKey_active active'] at after

/-! ## Touched segments handed on (R79) -/

theorem settles_handTouched (s : State) (ks : List Nat) : Settles s (s.handTouched ks) := by
  have handed : ∀ segments signs, Settles s (s.handOver segments signs) := fun segments signs =>
    settles_of_reaction (reaction_handOver s segments signs) (ripple_handOver s segments signs)
      (reach_handOver s segments signs)
  unfold State.handTouched
  split
  · exact settles_of_reaction (.refl s) (.refl s) (.refl s)
  · exact handed _ _

/-! ## The ask (R82, R83) -/

/-- The state of a granted ask before it is handed on: the notice in its place, and reported (R83, R84). -/
def askBase (k : Nat) (s : State) : State :=
  (s.withNotices (insertNotice (autonomous s k) s.retained.notices)).report
    (.notice (60200 + k) .created .closure .autonomous)

theorem askClosure_eq {s : State} {k : Nat} (h : AskMeets s k) : s.askClosure k = (askBase k s).handTouched [k] := by
  unfold State.askClosure
  rw [if_pos ((grantsAsk_iff s k).mpr h)]
  rfl

theorem frame_askBase (k : Nat) (s : State) : Frame [.notices, .reports] s (askBase k s) :=
  Frame.trans (frame_withNotices s _) (frame_report _ _)

/-- A reaction leaves time and transmitter, which what follows an effect need not. -/
theorem frame_of_reaction {c : List Part} {s b t : State} (hF : Frame c s b) (h : Follows b t) (hr : Reaction b t)
    (hc : ∀ p ∈ [.reports, .choices] ++ road, p ∈ c) : Frame c s t := by
  have wider : Frame (always ++ c) s t := by
    refine frame_of_follows (Frame.mono hF fun p hp => List.mem_append_right _ hp) h (fun p hp => ?_) (Or.inr hr.outbox)
    obtain hp | hp := List.mem_append.mp hp
    · exact List.mem_append_left _ hp
    · exact List.mem_append_right _ (hc p (List.mem_append_right _ hp))
  intro p hp
  by_cases ha : p ∈ always
  · obtain rfl | rfl : p = .moment ∨ p = .transmitter := by
      have plain : p ∉ [Part.reports, .choices] := fun hm => hp (hc p (List.mem_append_left _ hm))
      revert ha plain
      cases p <;> decide
    · exact hr.now.trans (hF _ hp)
    · exact hr.transmitter.trans (hF _ hp)
  · exact wider p fun hm => (List.mem_append.mp hm).elim ha hp

/-- Settles O25: a granted ask puts the notice in its place, reports it and hands its segment on. -/
theorem autonomousAsk : Obligations.AutonomousAsk := by
  intro s k
  refine ⟨askClosure_dropped, fun h => ?_⟩
  have follows : Follows (askBase k s) (s.askClosure k) := askClosure_eq h ▸ (settles_handTouched _ _).1
  have reaction : Reaction (askBase k s) (s.askClosure k) := askClosure_eq h ▸ reaction_handTouched _ _
  refine ⟨?_, ?_, roadReacts_of_frame (frame_askBase k s) (by decide) follows, ?_⟩
  · rw [askClosure_granted h]
    exact insertNotice_perm _ _
  · exact reportedFirst_of_follows (u := askBase k s) (reports_records [_] (s.withNotices _) s rfl rfl) rfl follows
  · exact frame_of_reaction (Frame.mono (frame_askBase k s) (by decide)) follows reaction (by decide)

end Sys2Proof.Proofs
end

section
/-! TIME_SET and CLOCK_TICK: the clock, and the walk of the Notice List in the statement's words (O24, R68 to R70). -/

namespace Sys2Proof.Proofs

open Sys2Proof Sys2Proof.Machine Sys2Proof.Laws Sys2Proof.Claims

/-! ## The walk of one record (R70, R76, R77) -/

theorem activated_eq (n : Notice) (now : Nat) :
    n.activated now = if activates now n then some { n with state := .active n.startTime } else none := rfl

/-- The walk of a record is what the statement says of it, record and reports. -/
theorem walk_spec (n : Notice) (now : Nat) :
    (n.walk now).after = afterWalk now n ∧ (n.walk now).reports = walkReports now n := by
  unfold Notice.walk afterWalk walkReports
  rw [activated_eq]
  by_cases ha : activates now n = true
  · simp only [ha, if_true, Option.getD_some]
    split <;> exact ⟨rfl, rfl⟩
  · simp only [ha, Bool.false_eq_true, if_false, Option.getD_none]
    split <;> exact ⟨rfl, rfl⟩

/-! ## The walk of the list (R70, R79) -/

/-- The state of a clock walk before the touched segments are handed on: the list walked, and reported. -/
def walkBase (now : Nat) (s : State) : State :=
  (s.withNotices (s.retained.notices.filterMap (afterWalk now))).reports (s.retained.notices.flatMap (walkReports now))

theorem walkList_fst (s : State) (now : Nat) : (s.walkList now).1 = walkBase now s := by
  unfold State.walkList walkBase
  simp only [List.filterMap_map, List.flatMap_map, Function.comp_def, walk_spec]

theorem frame_walkBase (now : Nat) (s : State) : Frame [.notices, .reports] s (walkBase now s) :=
  Frame.trans (frame_withNotices s _) (frame_reports _ _)

theorem settles_clockWalk (now : Nat) (s : State) : Settles (walkBase now s) (s.clockWalk now) := by
  rw [← walkList_fst]
  exact settles_handTouched _ _

theorem notices_walkBase (now : Nat) (s : State) :
    (walkBase now s).retained.notices = s.retained.notices.filterMap (afterWalk now) :=
  congrArg Retained.notices (reaction_reports _ _).retained

/-- What follows a walk on a state that differs from `s` in its clock alone is a walk in the statement's words. -/
theorem walks_of_base {now : Nat} {also : List Part} {s w t : State} (hn : w.retained.notices = s.retained.notices)
    (hc : w.retained.clock = some now) (hl : recordsOf w.line = recordsOf s.line)
    (ht : t.retained.notices = (walkBase now w).retained.notices) (hf : Follows (walkBase now w) t)
    (hr : RoadReacts s t) (hF : Frame (always ++ road ++ [.clock, .clockPhase, .notices] ++ also) s t) :
    Walks now also s t := by
  refine ⟨?_, ?_, hr, hF⟩
  · rw [ht, notices_walkBase, hn]
  · refine reportedFirst_of_follows (u := walkBase now w) ?_ ?_ hf
    · unfold walkBase
      rw [hn]
      exact reports_records _ (w.withNotices _) (s.withClock (some now)) hl hc
    · exact (frame_walkBase now w .clock (by decide)).trans hc

/-! ## TIME_SET (R69, R70) -/

/-- The clock set to a time, counting on one second later (R69). -/
def clockSet (new : Nat) (s : State) : State := { s.withClock (some new) with clockNext := s.now + usPerSecond }

theorem frame_clockSet (new : Nat) (s : State) : Frame [.clock, .clockPhase] s (clockSet new s) := by
  intro p hp
  cases p <;> first
    | exact absurd (show (_ : Part) ∈ [Part.clock, .clockPhase] by decide) hp
    | exact Eq.refl _
    | exact ⟨Eq.refl _, Eq.refl _⟩

theorem setClock_eq (new : Nat) (s : State) :
    s.setClock new = if walksTo s.retained.clock new then (clockSet new s).clockWalk new else clockSet new s := rfl

theorem walksTo_iff (old : Option Nat) (new : Nat) : walksTo old new = true ↔ ∀ c, old = some c → c < new := by
  cases old with
  | none => simp [walksTo]
  | some c => simp [walksTo]

theorem carryTimeSet_accepted {f : List Byte} {s : State} {new : Nat} (hl : f.length = 4) (hn : longAt f 0 = new)
    (hle : new ≤ 4294967294) :
    carryTimeSet f s = (s.setClock new, .done (timeBytes s.retained.clock ++ long new)) := by
  subst hn
  have fits : ¬ Config.clockEnd < longAt f 0 := Nat.not_lt.mpr hle
  unfold carryTimeSet
  rw [if_neg (by simp [hl]), if_neg fits]
  rfl

/-- A TIME SET to a later time, or from UNSET, walks the list (R70). -/
theorem timeSet_walks {m : Moment} {tag : Byte} {f : List Byte} {s : State} {new : Nat} {a : Answer}
    (hr : Ready s kindTimeSet tag f)
    (hF : carryTimeSet f (s.elapse m).popFrame = ((clockSet new (s.elapse m).popFrame).clockWalk new, a)) :
    ∃ t, Taken (.timeSet m tag f) m kindTimeSet tag a s t ∧ t.retained.clock = some new ∧
      t.clockNext = max s.now m + usPerSecond ∧ Walks new [.inbound, .outbox] s t := by
  have base : Frame [.clock, .clockPhase, .notices, .reports] (s.elapse m).popFrame
      (walkBase new (clockSet new (s.elapse m).popFrame)) :=
    Frame.trans (frame_clockSet new _) (frame_walkBase new _)
  obtain ⟨t, he, hpass, hans, hroad, hfol, fromBase, frame⟩ :=
    request_reacts hr hF base (by decide) (settles_clockWalk new _)
  have unwalked := frame_walkBase new (clockSet new (s.elapse m).popFrame)
  refine ⟨t, ⟨he, hpass, hans⟩, (fromBase .clock (by decide)).trans (unwalked .clock (by decide)),
    (fromBase .clockPhase (by decide)).trans (unwalked .clockPhase (by decide)),
    walks_of_base (w := clockSet new (s.elapse m).popFrame) rfl rfl rfl (fromBase .notices (by decide)) hfol hroad
      (Frame.mono frame (by decide))⟩

/-- A TIME SET back, or to the same time, sets the clock and changes nothing else (R70). -/
theorem timeSet_back {m : Moment} {tag : Byte} {f : List Byte} {s : State} {new : Nat} {a : Answer}
    (hr : Ready s kindTimeSet tag f) (hs : s.Settled)
    (hF : carryTimeSet f (s.elapse m).popFrame = (clockSet new (s.elapse m).popFrame, a)) :
    ∃ t, Taken (.timeSet m tag f) m kindTimeSet tag a s t ∧ t.retained.clock = some new ∧
      t.clockNext = max s.now m + usPerSecond ∧ Quiet [.inbound, .outbox, .clock, .clockPhase] s t := by
  obtain ⟨t, he, hpass, hans, fromBase, quiet⟩ :=
    request_quiet m kindTimeSet tag f (carryTimeSet f) s _ a [.clock, .clockPhase] hr hs hF (frame_clockSet new _)
      (by decide)
  exact ⟨t, ⟨he, hpass, hans⟩, fromBase .clock (by decide), fromBase .clockPhase (by decide), quiet⟩

theorem timeSet_sets {m : Moment} {tag : Byte} {f : List Byte} {s : State} {new : Nat} (hr : Ready s kindTimeSet tag f)
    (hs : s.Settled) (hl : f.length = 4) (hn : longAt f 0 = new) (hle : new ≤ 4294967294) :
    ∃ t, Taken (.timeSet m tag f) m kindTimeSet tag (.done (timeBytes s.retained.clock ++ long new)) s t ∧
      t.retained.clock = some new ∧ t.clockNext = max s.now m + usPerSecond ∧
      ((∀ c, s.retained.clock = some c → c < new) → Walks new [.inbound, .outbox] s t) ∧
      (∀ c, s.retained.clock = some c → new ≤ c → Quiet [.inbound, .outbox, .clock, .clockPhase] s t) := by
  have carried := carryTimeSet_accepted (s := (s.elapse m).popFrame) hl hn hle
  rw [setClock_eq] at carried
  by_cases h : walksTo s.retained.clock new = true
  · obtain ⟨t, taken, clock, next, walks⟩ := timeSet_walks hr (carried.trans (congrArg (·, _) (if_pos h)))
    exact ⟨t, taken, clock, next, fun _ => walks,
      fun c hc back => absurd ((walksTo_iff _ _).mp h c hc) (Nat.not_lt.mpr back)⟩
  · obtain ⟨t, taken, clock, next, quiet⟩ := timeSet_back hr hs (carried.trans (congrArg (·, _) (if_neg h)))
    exact ⟨t, taken, clock, next, fun later => absurd ((walksTo_iff _ _).mpr later) h, fun _ _ _ => quiet⟩

/-! ## CLOCK_TICK (R68, R70) -/

/-- The next second's moment, one second on. -/
def phaseCounted (s : State) : State := { s with clockNext := s.clockNext + usPerSecond }

theorem frame_phaseCounted (s : State) : Frame [.clockPhase] s (phaseCounted s) := by
  intro p hp
  cases p <;> first
    | exact absurd (show (_ : Part) ∈ [Part.clockPhase] by decide) hp
    | exact Eq.refl _
    | exact ⟨Eq.refl _, Eq.refl _⟩

/-- What a tick of a released part does: it counts where its second has come. -/
def tickEffect (s : State) : State := if s.clockNext ≤ s.now then s.tick else s

theorem clockTick_eq {s : State} (hp : s.powered = true) (m : Moment) :
    exec (.clockTick m) s = event m tickEffect s := if_pos hp

theorem tick_counts {s : State} {c : Nat} (hc : s.retained.clock = some c) (hlt : c < 4294967294) :
    s.tick = ((phaseCounted s).withClock (some (c + 1))).clockWalk (c + 1) := by
  have more : c < Config.clockEnd := hlt
  unfold State.tick
  rw [hc]
  exact if_pos more

theorem tick_stands {s : State} (hc : s.retained.clock = some 4294967294) : s.tick = phaseCounted s := by
  unfold State.tick
  rw [hc]
  rfl

theorem tick_unset {s : State} (hc : s.retained.clock = none) : s.tick = s := by
  unfold State.tick
  rw [hc]

/-- An event that changes some parts besides the road, and hands on what it changed. -/
theorem event_settles {m : Moment} {f : State → State} {s b u : State} {c : List Part} (hp : s.powered = true)
    (hF : f (s.elapse m) = u) (hb : Frame c (s.elapse m) b) (hc : ∀ p ∈ road ++ [.moment, .outbox], p ∉ c)
    (hu : Settles b u) :
    ∃ t, event m f s = .next t ∧ Passed m s t ∧ RoadReacts s t ∧ Follows b t ∧ Frame (always ++ road) b t ∧
      Frame (always ++ road ++ c) s t := by
  obtain ⟨t, he, hfol, hout⟩ := event_reacts m f s hp
  rw [hF] at hfol hout
  have follows : Follows b t := hu.1.trans hfol
  have toBase : Frame ([.moment] ++ c) s b := Frame.trans (frame_elapse m s) hb
  have fromBase : Frame (always ++ road) b t :=
    frame_of_follows (Frame.refl _ _) follows (fun _ hp => hp) (Or.inr (hout.trans hu.2))
  refine ⟨t, he, ?_, roadReacts_of_frame toBase (fun p hp => ?_) follows, follows, fromBase, ?_⟩
  · exact (congrArg Still.now follows.still).trans (hb .moment (hc .moment (by decide)))
  · have road_only : p ∉ [Part.moment] := by
      revert hp
      cases p <;> decide
    exact fun hm => (List.mem_append.mp hm).elim road_only (hc p (List.mem_append_left _ hp))
  · refine Frame.mono (Frame.trans toBase fromBase) fun p hp => ?_
    simp only [always, List.mem_append, List.mem_cons, List.not_mem_nil, or_false] at hp ⊢
    tauto

/-- A tick at its second counts the clock and walks the list (R68, R70). -/
theorem clockTick_counts {m : Moment} {s : State} {c : Nat} (hp : s.powered = true) (hc : s.retained.clock = some c)
    (hlt : c < 4294967294) (hdue : s.clockNext ≤ max s.now m) :
    ∃ t, exec (.clockTick m) s = .next t ∧ Passed m s t ∧ t.retained.clock = some (c + 1) ∧
      t.clockNext = s.clockNext + usPerSecond ∧ Walks (c + 1) [] s t := by
  have effect : tickEffect (s.elapse m) =
      ((phaseCounted (s.elapse m)).withClock (some (c + 1))).clockWalk (c + 1) :=
    (if_pos hdue).trans (tick_counts (s := s.elapse m) hc hlt)
  have base : Frame [.clockPhase, .clock, .notices, .reports] (s.elapse m)
      (walkBase (c + 1) ((phaseCounted (s.elapse m)).withClock (some (c + 1)))) :=
    Frame.trans (Frame.trans (frame_phaseCounted _) (frame_withClock _ _)) (frame_walkBase _ _)
  obtain ⟨t, he, hpass, hroad, hfol, fromBase, frame⟩ :=
    event_settles hp effect base (by decide) (settles_clockWalk _ _)
  have unwalked := frame_walkBase (c + 1) ((phaseCounted (s.elapse m)).withClock (some (c + 1)))
  exact ⟨t, (clockTick_eq hp m).trans he, hpass, (fromBase .clock (by decide)).trans (unwalked .clock (by decide)),
    (fromBase .clockPhase (by decide)).trans (unwalked .clockPhase (by decide)),
    walks_of_base (w := (phaseCounted (s.elapse m)).withClock (some (c + 1))) rfl rfl rfl
      (fromBase .notices (by decide)) hfol hroad (Frame.mono frame (by decide))⟩

/-- At its last time the clock stands (R68). -/
theorem clockTick_stands {m : Moment} {s : State} (hp : s.powered = true) (hs : s.Settled)
    (hc : s.retained.clock = some 4294967294) :
    ∃ t, exec (.clockTick m) s = .next t ∧ Passed m s t ∧ t.retained.clock = some 4294967294 ∧
      Quiet [.clockPhase] s t := by
  have effect : Frame [.clockPhase] (s.elapse m) (tickEffect (s.elapse m)) := by
    unfold tickEffect
    split
    · rw [tick_stands (s := s.elapse m) hc]
      exact frame_phaseCounted _
    · exact Frame.refl _ _
  obtain ⟨t, he, hpass, -, quiet⟩ := event_quiet m tickEffect s _ [.clockPhase] hp hs rfl effect (by decide)
  exact ⟨t, (clockTick_eq hp m).trans he, hpass, (quiet.1 .clock (by decide)).trans hc, quiet⟩

/-- A tick of an UNSET clock, or before its second, changes nothing (log entry 4). -/
theorem clockTick_idle {m : Moment} {s : State} (hp : s.powered = true) (hs : s.Settled)
    (h : s.retained.clock = none ∨ max s.now m < s.clockNext) :
    ∃ t, exec (.clockTick m) s = .next t ∧ Passed m s t ∧ Quiet [] s t := by
  have effect : tickEffect (s.elapse m) = s.elapse m := by
    obtain unset | early := h
    · unfold tickEffect
      split
      · exact tick_unset (s := s.elapse m) unset
      · rfl
    · exact if_neg (Nat.not_le.mpr early)
  obtain ⟨t, he, hpass, -, quiet⟩ := event_quiet m tickEffect s _ [] hp hs effect (Frame.refl _ _) (by decide)
  exact ⟨t, (clockTick_eq hp m).trans he, hpass, quiet⟩

/-- Settles O24: the clock set, and the clock counting. -/
theorem clockWalks : Obligations.ClockWalks :=
  ⟨fun _ _ _ _ _ hr hs hl hn hle => timeSet_sets hr hs hl hn hle, fun _ _ hp hs =>
    ⟨fun _ hc hlt hdue => clockTick_counts hp hc hlt hdue, clockTick_stands hp hs, clockTick_idle hp hs⟩⟩

end Sys2Proof.Proofs
end

section
/-! NOTICE_POST and NOTICE_WITHDRAW: the record's state, what is reported, and what is handed on (O23, R73 to R79). -/

namespace Sys2Proof.Proofs

open Sys2Proof Sys2Proof.Machine Sys2Proof.Laws Sys2Proof.Claims

/-! ## The record of a post (R74, R75) -/

theorem noticeKind_code {n : Nat} (h : n ≤ 2) (d : NoticeKind) : ((NoticeKind.ofCode n).getD d).code.toNat = n := by
  match n with
  | 0 | 1 | 2 => rfl
  | n + 3 => omega

theorem reason_index {n : Nat} (h : n ≤ 6) (d : Reason) : ((Reason.ofCode n).getD d).index = n := by
  match n with
  | 0 | 1 | 2 | 3 | 4 | 5 | 6 => rfl
  | n + 7 => omega

theorem startsLater_iff (start now : Option Nat) :
    startsLater start now = true ↔ ∃ a c, start = some a ∧ now = some c ∧ c < a := by
  cases start <;> cases now <;> simp [startsLater]

theorem wasActive_iff (old : Option Notice) :
    Machine.wasActive old = true ↔ ∃ n since, old = some n ∧ n.state = .active since := by
  cases old with
  | none => simp [Machine.wasActive]
  | some n => cases h : n.state <;> simp [Machine.wasActive, Notice.isActive, h]

/-- A posted record is PENDING where it starts later, else it keeps its activation time or takes the present time. -/
theorem postedState_spec {old : Option Notice} {later : Bool} {now : Option Nat} {state : NoticeState}
    (hp : later = true → state = .pending)
    (hk : later = false → Machine.wasActive old = true → ∃ n, old = some n ∧ state = n.state)
    (hn : later = false → Machine.wasActive old = false → state = .active now) : postedState old later now = state := by
  cases later with
  | true => exact (hp rfl).symm
  | false =>
    unfold postedState
    rw [if_neg Bool.false_ne_true]
    cases ha : Machine.wasActive old with
    | true =>
      obtain ⟨n, rfl, rfl⟩ := hk rfl ha
      obtain ⟨_, since, e, active⟩ := (wasActive_iff _).mp ha
      cases e
      simp only [active]
    | false =>
      rw [hn rfl ha]
      cases old with
      | none => rfl
      | some n =>
        cases hs : n.state with
        | pending => simp only [hs]
        | active since => exact absurd ((wasActive_iff _).mpr ⟨n, since, rfl, hs⟩) (Bool.eq_false_iff.mp ha)

theorem postedState_isActive {old : Option Notice} {later : Bool} {now : Option Nat} {n : Notice}
    (h : n.state = postedState old later now) : n.isActive = !later := by
  unfold Notice.isActive
  rw [h]
  cases later with
  | true => rfl
  | false =>
    cases old with
    | none => rfl
    | some o => cases hs : o.state <;> simp [postedState, hs]

/-! ## NOTICE_POST (R73 to R75) -/

/-- The state of an accepted post before it is handed on: the record in its place, and reported (R74, R75). -/
def postBase (n : Notice) (s : State) : State :=
  (s.withNotices (postedList n s.retained.notices)).reports
    (reportsOfPost (findNotice n.number s.retained.notices) n)

theorem post_eq (n : Notice) (s : State) : s.post n =
    (postBase n s).handTouched (touchedByPost (findNotice n.number s.retained.notices) n) := rfl

theorem frame_postBase (n : Notice) (s : State) : Frame [.notices, .reports] s (postBase n s) :=
  Frame.trans (frame_withNotices s _) (frame_reports _ _)

theorem notices_postBase (n : Notice) (s : State) :
    (postBase n s).retained.notices = postedList n s.retained.notices :=
  congrArg Retained.notices (reaction_reports _ _).retained

theorem records_postBase (n : Notice) (s : State) : recordsOf (postBase n s).line =
    recordsOf (s.reports (reportsOfPost (findNotice n.number s.retained.notices) n)).line :=
  reports_records _ (s.withNotices _) s rfl rfl

theorem postedList_perm (n : Notice) (l : List Notice) :
    (postedList n l).Perm (n :: l.filter fun o => o.number != n.number) := insertNotice_perm _ _

/-- A record that neither was nor is ACTIVE is not reported and not handed on. -/
theorem post_of_pending {n : Notice} {s : State} (hn : n.isActive = false)
    (ho : Machine.wasActive (findNotice n.number s.retained.notices) = false) :
    s.post n = s.withNotices (postedList n s.retained.notices) := by
  rw [post_eq, postBase, reportsOfPost, touchedByPost, hn, ho]
  rfl

theorem carryNoticePost_accepted {f : List Byte} {s : State} {p : PostedNotice} (hf : postedOf f = some p)
    (ht : PostTimed s p) (hr : PostInRange s p) (hm : PostRoom s p) :
    carryNoticePost f s = (s.post (s.recordOf p), .done (postReply (s.recordOf p))) := by
  have accepted : s.postRefusal p = none :=
    none_of_finds (finds_post s p) (Or.inr ⟨ht, Or.inr ⟨hr, Or.inr ⟨hm, rfl⟩⟩⟩)
  unfold carryNoticePost
  rw [hf]
  dsimp only
  rw [accepted]
  rfl

/-- NOTICE_POST, accepted: what it leaves besides the record's own fields. -/
theorem noticePost_posts {m : Moment} {tag : Byte} {f : List Byte} {s : State} {p : PostedNotice}
    (hr : Ready s kindNoticePost tag f) (hs : s.Settled) (hf : postedOf f = some p) (ht : PostTimed s p)
    (hrange : PostInRange s p) (hm : PostRoom s p) :
    ∃ t, Taken (.noticePost m tag f) m kindNoticePost tag (.done (postReply (s.recordOf p))) s t ∧
      t.retained.notices.Perm (s.recordOf p :: s.retained.notices.filter fun o => o.number != p.number) ∧
      ReportedFirst (reportsOfPost (findNotice p.number s.retained.notices) (s.recordOf p)) s t ∧ RoadReacts s t ∧
      Frame (answered ++ road ++ [.notices]) s t ∧
      ((s.recordOf p).isActive = false → Machine.wasActive (findNotice p.number s.retained.notices) = false →
        Quiet [.inbound, .outbox, .notices] s t) := by
  have carried : carryNoticePost f (s.elapse m).popFrame =
      ((s.elapse m).popFrame.post (s.recordOf p), .done (postReply (s.recordOf p))) :=
    carryNoticePost_accepted (s := (s.elapse m).popFrame) hf ht hrange hm
  obtain ⟨t, he, hpass, hans, hroad, hfol, fromBase, frame⟩ := request_reacts hr
    (carried.trans (congrArg (·, _) (post_eq _ _))) (frame_postBase _ _) (by decide) (settles_handTouched _ _)
  refine ⟨t, ⟨he, hpass, hans⟩, ?_, ?_, hroad, Frame.mono frame (by decide), fun pending before => ?_⟩
  · have listed : t.retained.notices = postedList (s.recordOf p) s.retained.notices :=
      (fromBase .notices (by decide)).trans (notices_postBase _ _)
    rw [listed]
    exact postedList_perm _ _
  · exact reportedFirst_of_follows
      ((records_postBase _ _).trans (reports_records _ (s.elapse m).popFrame s rfl rfl))
      (frame_postBase _ _ .clock (by decide)) hfol
  · obtain ⟨u, hu, -, -, -, quiet⟩ := request_quiet m _ tag f (carryNoticePost f) s _ _ [.notices] hr hs
      (carried.trans (congrArg (·, _) (post_of_pending (s := (s.elapse m).popFrame) pending before)))
      (frame_withNotices _ _) (by decide)
    exact request_unique he hu ▸ quiet

/-! ## NOTICE_WITHDRAW (R78) -/

/-- The state of a withdrawal before it is handed on: the record gone, and reported. -/
def withdrawBase (n : Notice) (s : State) : State :=
  (s.withNotices (withoutNotice n.number s.retained.notices)).report (n.report .withdrawn)

theorem withdraw_eq (n : Notice) (s : State) :
    s.withdraw n = (withdrawBase n s).handTouched (if n.isActive then n.segments else []) := rfl

theorem frame_withdrawBase (n : Notice) (s : State) : Frame [.notices, .reports] s (withdrawBase n s) :=
  Frame.trans (frame_withNotices s _) (frame_report _ _)

theorem records_withdrawBase (n : Notice) (s : State) : recordsOf (withdrawBase n s).line =
    recordsOf (s.reports [n.report .withdrawn]).line :=
  reports_records [n.report .withdrawn] (s.withNotices _) s rfl rfl

/-- A PENDING record is not handed on. -/
theorem withdraw_of_pending {n : Notice} (h : n.state = .pending) (s : State) : s.withdraw n = withdrawBase n s := by
  have pending : n.isActive = false := by
    unfold Notice.isActive
    rw [h]
  rw [withdraw_eq, pending]
  rfl

theorem carryNoticeWithdraw_found {f : List Byte} {s : State} {n : Notice} (hl : f.length = 2)
    (hn : findNotice (wordAt f 0) s.retained.notices = some n) :
    carryNoticeWithdraw f s = (s.withdraw n, .done (word n.number)) := by
  unfold carryNoticeWithdraw
  rw [if_neg (by simp [hl]), hn]
  rfl

/-- A number that is not in the list is refused (R78). -/
theorem noticeWithdraw_refuses {m : Moment} {tag : Byte} {f : List Byte} {s : State}
    (hr : Ready s kindNoticeWithdraw tag f) (hs : s.Settled) (hl : f.length = 2)
    (hn : findNotice (wordAt f 0) s.retained.notices = none) :
    Refuses (.noticeWithdraw m tag f) m kindNoticeWithdraw tag .unknownItem .noReason s := by
  have refused : carryNoticeWithdraw f (s.elapse m).popFrame =
      ((s.elapse m).popFrame, .refused .unknownItem .noReason) := by
    have missing : findNotice (wordAt f 0) (s.elapse m).popFrame.retained.notices = none := hn
    unfold carryNoticeWithdraw
    rw [if_neg (by simp [hl]), missing]
    rfl
  obtain ⟨t, he, hpass, hans, quiet⟩ := request_same m _ tag f (carryNoticeWithdraw f) s _ hr hs refused
  exact ⟨t, ⟨he, hpass, hans⟩, quiet⟩

/-- A PENDING record that is withdrawn touches the list and its report alone. -/
theorem noticeWithdraw_pending {m : Moment} {tag : Byte} {f : List Byte} {s t : State} {n : Notice}
    (hr : Ready s kindNoticeWithdraw tag f) (hs : s.Settled)
    (hF : carryNoticeWithdraw f (s.elapse m).popFrame = (withdrawBase n (s.elapse m).popFrame, .done (word n.number)))
    (he : exec (.noticeWithdraw m tag f) s = .next t) :
    Reported [n.report .withdrawn] s t ∧ Frame (answered ++ [.notices]) s t := by
  obtain ⟨u, hu, frame, records, -⟩ := request_plain m kindNoticeWithdraw tag f (carryNoticeWithdraw f) s hr
    (by rw [hF]; exact hs.1) (by rw [hF]; exact hs.2)
  rw [hF] at frame records
  obtain rfl : t = u := request_unique he hu
  refine ⟨reported_of_records (records.trans ((records_withdrawBase n _).trans ?_)), ?_⟩
  · exact reports_records _ (s.elapse m).popFrame s rfl rfl
  · exact Frame.mono (Frame.trans (Frame.trans (frame_popped m s) (frame_withdrawBase n _)) frame) (by decide)

/-- A record in the list is withdrawn (R78). -/
theorem noticeWithdraw_withdraws {m : Moment} {tag : Byte} {f : List Byte} {s : State} {n : Notice}
    (hr : Ready s kindNoticeWithdraw tag f) (hs : s.Settled) (hl : f.length = 2)
    (hn : findNotice (wordAt f 0) s.retained.notices = some n) :
    ∃ t, Taken (.noticeWithdraw m tag f) m kindNoticeWithdraw tag (.done (word n.number)) s t ∧
      t.retained.notices = s.retained.notices.filter (fun o => o.number != n.number) ∧
      ReportedFirst [n.report .withdrawn] s t ∧ RoadReacts s t ∧ Frame (answered ++ road ++ [.notices]) s t ∧
      (n.state = .pending → Reported [n.report .withdrawn] s t ∧ Frame (answered ++ [.notices]) s t) := by
  have carried := carryNoticeWithdraw_found (s := (s.elapse m).popFrame) hl hn
  obtain ⟨t, he, hpass, hans, hroad, hfol, fromBase, frame⟩ := request_reacts hr
    (carried.trans (congrArg (·, _) (withdraw_eq _ _))) (frame_withdrawBase _ _) (by decide) (settles_handTouched _ _)
  refine ⟨t, ⟨he, hpass, hans⟩, fromBase .notices (by decide), ?_, hroad, Frame.mono frame (by decide),
    fun pending => noticeWithdraw_pending hr hs (carried.trans (congrArg (·, _) (withdraw_of_pending pending _))) he⟩
  exact reportedFirst_of_follows ((records_withdrawBase n _).trans (reports_records _ (s.elapse m).popFrame s rfl rfl))
    (frame_withdrawBase n _ .clock (by decide)) hfol

/-- Settles O23: the record that a post leaves, and what a withdrawal takes out of the list. -/
theorem noticesPostedAndWithdrawn : Obligations.NoticesPostedAndWithdrawn := by
  refine ⟨?_, fun m tag f s hr hs hl =>
    ⟨noticeWithdraw_refuses hr hs hl, fun n hn => noticeWithdraw_withdraws hr hs hl hn⟩⟩
  rintro m tag f s p hr hs hf ht hrange hm old later active state rfl hlater hactive hpending hkept hnew
  obtain rfl : later = startsLater p.startTime s.retained.clock :=
    Bool.eq_iff_iff.mpr (hlater.trans (startsLater_iff _ _).symm)
  obtain rfl : active = Machine.wasActive (findNotice p.number s.retained.notices) :=
    Bool.eq_iff_iff.mpr (hactive.trans (wasActive_iff _).symm)
  obtain rfl : (s.recordOf p).state = state := postedState_spec hpending hkept hnew
  have isActive : (s.recordOf p).isActive = !startsLater p.startTime s.retained.clock := postedState_isActive rfl
  obtain ⟨t, taken, listed, reported, hroad, frame, quiet⟩ := noticePost_posts (m := m) hr hs hf ht hrange hm
  have ⟨_, _, hkind, hreason, _⟩ := hrange
  refine ⟨t, s.recordOf p, taken, rfl, noticeKind_code hkind _, reason_index hreason _, rfl, rfl, rfl, rfl, rfl, rfl,
    listed, ?_, hroad, frame, fun later before => quiet (by rw [isActive, later]; rfl) before⟩
  have reports : reportsOfPost (findNotice p.number s.retained.notices) (s.recordOf p) =
      if startsLater p.startTime s.retained.clock = false ∧
          Machine.wasActive (findNotice p.number s.retained.notices) = false then
        [.notice (s.recordOf p).number .activated (s.recordOf p).kind .station] else [] := by
    unfold reportsOfPost
    rw [isActive]
    simp only [Bool.and_eq_true, Bool.not_eq_true']
    rfl
  exact reports ▸ reported

end Sys2Proof.Proofs
end

section
/-! The table of segment states (O20): a segment's record with its sources, and the state by the rows of R93. The views of
the records that a derivation reads stand first. -/

namespace Sys2Proof.Proofs

open Sys2Proof Sys2Proof.Machine Sys2Proof.Laws Sys2Proof.Claims

/-! ## The views a derivation reads (R88) -/

theorem mem_entryGates {c : Settings} {x j : Nat} :
    j ∈ c.entryGates x ↔ ∃ r, lookup c.gates j = some r ∧ r.segment = x := by
  unfold Settings.entryGates
  rw [List.mem_filter, mem_numbers]
  cases h : lookup c.gates j with
  | none => simp
  | some r =>
    have bounds := lookup_bounds _ h
    simp [bounds]

theorem mem_entryPositions {s : State} {k : Nat} {p : GatePosition} : p ∈ s.entryPositions k ↔
    ∃ j r g, lookup s.settings.gates j = some r ∧ r.segment = k ∧ s.gate j = some g ∧ g.position = p := by
  unfold State.entryPositions
  simp only [List.mem_filterMap, mem_entryGates, Option.map_eq_some_iff]
  exact ⟨fun ⟨j, ⟨r, hr, hk⟩, g, hg, hp⟩ => ⟨j, r, g, hr, hk, hg, hp⟩,
    fun ⟨j, r, g, hr, hk, hg, hp⟩ => ⟨j, ⟨r, hr, hk⟩, g, hg, hp⟩⟩

theorem mem_threatening {c : Settings} {ks : List Nat} {j : Nat} :
    j ∈ c.threatening ks ↔ ∃ q, lookup c.paths j = some q ∧ ∃ x ∈ ks, x ∈ q.segments := by
  unfold Settings.threatening
  rw [List.mem_filter, mem_numbers]
  cases h : lookup c.paths j with
  | none => simp
  | some q =>
    have bounds := lookup_bounds _ h
    simp only [bounds, and_self, true_and, List.any_eq_true, List.contains_iff_mem, Option.some.injEq,
      exists_eq_left']
    exact exists_congr fun x => and_comm

theorem cif_iff {s : State} {k : Nat} : s.cif k = true ↔ ∃ d, lookup s.segments k = some d ∧ d.closure ≠ none := by
  unfold State.cif
  cases lookup s.segments k with
  | none => simp
  | some d => simp [Option.isSome_iff_ne_none]

/-! ## The highest level -/

theorem highest_eq (s : State) (ks : List Nat) :
    s.highest ks = ((s.settings.threatening ks).map fun j => (s.figures j).effective).foldl max 0 := by
  unfold State.highest
  rw [List.foldl_map]

theorem largest_highest (s : State) (ks : List Nat) : Largest s ks (s.highest ks) := by
  have mem : ∀ e, e ∈ (s.settings.threatening ks).map (fun j => (s.figures j).effective) ↔
      ∃ j q, lookup s.settings.paths j = some q ∧ (∃ x ∈ ks, x ∈ q.segments) ∧ (s.figures j).effective = e := by
    simp only [List.mem_map, mem_threatening]
    exact fun e => ⟨fun ⟨j, ⟨q, hq, hx⟩, he⟩ => ⟨j, q, hq, hx, he⟩, fun ⟨j, q, hq, hx, he⟩ => ⟨j, ⟨q, hq, hx⟩, he⟩⟩
  rw [highest_eq]
  exact ⟨fun j q hq hx => (le_foldl_max _ 0).2 _ ((mem _).mpr ⟨j, q, hq, hx, rfl⟩),
    (foldl_max_mem _ 0).imp_right (mem _).mp⟩

/-! ## The rows of R93 -/

theorem isBarrier_iff (g : GatePosition) : g.isBarrier = true ↔ g = .down ∨ g = .inLocal := by
  cases g <;> simp [GatePosition.isBarrier]

/-- Whether no entry gate keeps the segment from CLOSED, and whether none keeps it from FREE (R92). -/
theorem all_isBarrier_iff {gates : List GatePosition} :
    gates.all GatePosition.isBarrier = true ↔ ∀ g ∈ gates, g = .down ∨ g = .inLocal := by
  simp only [List.all_eq_true, isBarrier_iff]

theorem any_ne_up_iff {gates : List GatePosition} :
    gates.any (fun g => g != .up) = true ↔ ∃ g ∈ gates, g ≠ .up := by
  simp only [List.any_eq_true, bne_iff_ne]

/-- With a closure in force the entry gates alone decide. -/
theorem roadState_closure (rif : Bool) (hmax caution : Nat) (gates : List GatePosition) :
    roadState true rif hmax caution gates = if gates.all GatePosition.isBarrier then .closed else .closing := by
  unfold roadState
  cases gates.all GatePosition.isBarrier <;> rfl

/-- Without one a gate that is not UP stands first, then caution. -/
theorem roadState_open (rif : Bool) (hmax caution : Nat) (gates : List GatePosition) :
    roadState false rif hmax caution gates = if gates.any (fun g => g != .up) then .released
      else if caution ≤ hmax || rif then .caution else .free := rfl

/-- Under a closure in force: CLOSED or CLOSING. -/
theorem rows_of_closure {rif : Bool} {hmax caution : Nat} {gates : List GatePosition} {x : RoadState}
    (hx : roadState true rif hmax caution gates = x) :
    (x = .closed ↔ ∀ g ∈ gates, g = .down ∨ g = .inLocal) ∧
    (x = .closing ↔ ∃ g ∈ gates, g ≠ .down ∧ g ≠ .inLocal) ∧ x ≠ .released ∧ x ≠ .caution ∧ x ≠ .free := by
  rw [roadState_closure] at hx
  have away : (∃ g ∈ gates, g ≠ .down ∧ g ≠ .inLocal) ↔ ¬ ∀ g ∈ gates, g = .down ∨ g = .inLocal := by
    push Not
    rfl
  rw [away, ← all_isBarrier_iff]
  subst hx
  by_cases h : gates.all GatePosition.isBarrier = true <;> simp [h]

/-- Without a closure in force: RELEASED, CAUTION or FREE. -/
theorem rows_of_open {rif : Bool} {hmax caution : Nat} {gates : List GatePosition} {x : RoadState}
    (hx : roadState false rif hmax caution gates = x) :
    x ≠ .closed ∧ x ≠ .closing ∧ (x = .released ↔ ∃ g ∈ gates, g ≠ .up) ∧
    (x = .caution ↔ (∀ g ∈ gates, g = .up) ∧ (caution ≤ hmax ∨ rif = true)) ∧
    (x = .free ↔ (∀ g ∈ gates, g = .up) ∧ hmax < caution ∧ rif = false) := by
  rw [roadState_open] at hx
  have raised : (∀ g ∈ gates, g = .up) ↔ ¬ ∃ g ∈ gates, g ≠ .up := by
    push Not
    rfl
  rw [raised, ← any_ne_up_iff]
  subst hx
  by_cases h : gates.any (fun g => g != .up) = true
  · simp [h]
  · by_cases hc : caution ≤ hmax
    · simp [h, hc]
    · cases rif <;> simp [h, hc, Nat.lt_of_not_le hc]

/-- Settles O20: the record's fields as they are derived, and the rows by whether a closure is in force. -/
theorem segmentStateTable : Obligations.SegmentStateTable := by
  refine ⟨?_, fun _ _ _ => mem_entryPositions, fun _ _ => cif_iff⟩
  rintro s k r d rfl
  refine ⟨rfl, rfl, largest_highest s [k], Option.isSome_iff_ne_none, ?_⟩
  have restricted : ∀ o : Option Nat, o.isSome = true ↔ o ≠ none := fun _ => Option.isSome_iff_ne_none
  have state : roadState (s.deriveSegment k r).closure.isSome (s.deriveSegment k r).restriction.isSome
    (s.deriveSegment k r).hmax r.caution (s.entryPositions k) = (s.deriveSegment k r).state := rfl
  generalize s.deriveSegment k r = d at state
  cases h : d.closure with
  | none =>
    rw [h] at state
    obtain ⟨closed, closing, released, caution, free⟩ := rows_of_open state
    simp only [ne_eq, not_true_eq_false, false_and, iff_false, true_and]
    refine ⟨closed, closing, released, ?_, ?_⟩
    · rw [caution, restricted]
    · rw [free, Option.isSome_eq_false_iff, Option.isNone_iff_eq_none]
  | some n =>
    rw [h] at state
    obtain ⟨closed, closing, released, caution, free⟩ := rows_of_closure state
    simp only [ne_eq, reduceCtorEq, not_false_eq_true, true_and, false_and, iff_false]
    exact ⟨closed, closing, released, caution, free⟩

end Sys2Proof.Proofs
end

section
/-! SUPPORT. The sources of segments, gates and images (R88 to R93, R111, R147): the part of the state they are derived from.
`Beside s t` says that an operation works beside them, on the field, the strings or the station line: it leaves the sources,
and queues no record of a segment or a gate. -/

namespace Sys2Proof.Proofs

open Sys2Proof Sys2Proof.Machine Sys2Proof.Laws Sys2Proof.Claims

/-! ## The sources -/

/-- The record tables that segments, gates and images are derived from. -/
def sourceTables (c : Settings) : Settings :=
  { factorySettings with
    paths := c.paths
    segments := c.segments
    gates := c.gates
    signs := c.signs
    profiles := c.profiles
    texts := c.texts }

/-- The state with everything left out that no segment, gate or image is derived from; the clock, which the report records
bear, stays in. -/
def sources (s : State) : State :=
  { State.neverStarted with
    retained := { Retained.cleared with
      clock := s.retained.clock
      paths := s.retained.paths
      notices := s.retained.notices }
    segments := s.segments
    gates := s.gates
    composer := s.composer
    store := { State.neverStarted.store with working := sourceTables s.settings } }

/-! Each of these reads the sources alone. -/

theorem deriveSegment_sources (s : State) : s.deriveSegment = (sources s).deriveSegment := rfl
theorem compose_sources (s : State) : s.compose = (sources s).compose := rfl
theorem cif_sources (s : State) : s.cif = (sources s).cif := rfl

/-- A state's sources are those of another, its settings are whole where the other's are, and records of neither segments
nor gates are queued. -/
structure Beside (s t : State) : Prop where
  sources : sources t = sources s
  records : ∃ bs, (∀ b ∈ bs, ¬ OfRoad b) ∧ recordsOf t.line = recordsOf (s.reports bs).line
  tables : s.TablesWhole → t.TablesWhole

/-- The records of the buffer stay as well. -/
theorem Beside.of_records {s t : State} (hs : Proofs.sources t = Proofs.sources s)
    (hl : recordsOf t.line = recordsOf s.line) (ht : s.TablesWhole → t.TablesWhole) : Beside s t :=
  ⟨hs, ⟨[], by simp, hl⟩, ht⟩

theorem Beside.refl (s : State) : Beside s s := .of_records rfl rfl id

theorem Beside.clock {s t : State} (h : Beside s t) : t.retained.clock = s.retained.clock :=
  congrArg (fun u => u.retained.clock) h.sources

theorem Beside.trans {s t u : State} (h : Beside s t) (k : Beside t u) : Beside s u := by
  obtain ⟨bs, hb, hl⟩ := h.records
  obtain ⟨cs, hc, kl⟩ := k.records
  refine ⟨k.sources.trans h.sources, ⟨bs ++ cs, fun b hm => (List.mem_append.mp hm).elim (hb b) (hc b), ?_⟩,
    fun w => k.tables (h.tables w)⟩
  have reported : (s.reports bs).retained.clock = s.retained.clock :=
    congrArg Retained.clock (reaction_reports s bs).retained
  rw [kl, reports_append]
  exact reports_records cs t (s.reports bs) hl (h.clock.trans reported.symm)

theorem Beside.foldl {α : Type} {f : State → α → State} (hf : ∀ s x, Beside s (f s x)) (xs : List α) (s : State) :
    Beside s (xs.foldl f s) :=
  keep_foldl (P := Beside s) (fun u x h => h.trans (hf u x)) xs s (.refl s)

theorem Beside.ite {c : Prop} [Decidable c] {s t u : State} (ht : Beside s t) (hu : Beside s u) :
    Beside s (if c then t else u) := by
  split
  · exact ht
  · exact hu

section
variable {s t : State} (h : Beside s t)
include h

theorem Beside.deriveSegment : t.deriveSegment = s.deriveSegment := by
  rw [deriveSegment_sources, h.sources, ← deriveSegment_sources]

theorem Beside.compose : t.compose = s.compose := by rw [compose_sources, h.sources, ← compose_sources]

theorem Beside.cif : t.cif = s.cif := by rw [cif_sources, h.sources, ← cif_sources]

theorem Beside.segments : t.segments = s.segments := congrArg (fun u => u.segments) h.sources
theorem Beside.gates : t.gates = s.gates := congrArg (fun u => u.gates) h.sources
theorem Beside.gate (k : Nat) : t.gate k = s.gate k := congrArg (lookup · k) h.gates
theorem Beside.composer : t.composer = s.composer := congrArg (fun u => u.composer) h.sources
theorem Beside.sign (k : Nat) : t.sign k = s.sign k := congrArg (fun c : SignComposer => lookup c.signs k) h.composer
theorem Beside.notices : t.retained.notices = s.retained.notices := congrArg (fun u => u.retained.notices) h.sources
theorem Beside.figures : t.retained.paths = s.retained.paths := congrArg (fun u => u.retained.paths) h.sources
theorem Beside.pathRecords : t.settings.paths = s.settings.paths := congrArg (fun u => u.settings.paths) h.sources
theorem Beside.segmentRecords : t.settings.segments = s.settings.segments :=
  congrArg (fun u => u.settings.segments) h.sources
theorem Beside.gateRecords : t.settings.gates = s.settings.gates := congrArg (fun u => u.settings.gates) h.sources
theorem Beside.signRecords : t.settings.signs = s.settings.signs := congrArg (fun u => u.settings.signs) h.sources

end

/-! ## Updates of one block -/

section
variable (s : State)

theorem beside_withField (x : FieldInterface) : Beside s (s.withField x) := .of_records rfl rfl id
theorem beside_withStrings (x : StringController) : Beside s (s.withStrings x) := .of_records rfl rfl id
theorem beside_withPanel (k : Nat) (p : Option PanelRecord) : Beside s (s.withPanel k p) := .of_records rfl rfl id
theorem beside_withZone (k : Nat) (z : ClearZone) : Beside s (s.withZone k z) := .of_records rfl rfl id
theorem beside_withInput (line : Nat) (i : InputState) : Beside s (s.withInput line i) := .of_records rfl rfl id
theorem beside_withChannel (k : Nat) (c : ChannelTotals) : Beside s (s.withChannel k c) := .of_records rfl rfl id
theorem beside_withPin (line : Nat) (high : Bool) : Beside s (s.withPin line high) := .of_records rfl rfl id
theorem beside_applyOrder (o : List (Nat × Bool)) : Beside s (s.applyOrder o) := .of_records rfl rfl id
theorem beside_choiceTaken : Beside s s.choiceTaken := .of_records rfl rfl id
theorem beside_popFrame : Beside s s.popFrame := .of_records rfl rfl id
theorem beside_dropFrame : Beside s s.dropFrame := .of_records rfl rfl id

/-- A line with the records of the buffer as they were. -/
theorem beside_withLine (x : StationLine) (h : recordsOf x = recordsOf s.line) : Beside s (s.withLine x) :=
  .of_records rfl h id

/-- The calibration set, a group or the link settings change. -/
theorem beside_change (f : Settings → Settings) (h : sourceTables (f s.settings) = sourceTables s.settings) :
    Beside s (s.change f) := by
  have names : ∀ c : Settings, c.Whole = (sourceTables c).Whole := fun _ => rfl
  refine .of_records ?_ rfl fun ⟨working, saved, write⟩ => ⟨?_, saved, write⟩
  · exact congrArg (fun c => { sources s with store := { (sources s).store with working := c } }) h
  · show (f s.settings).Whole
    rw [names, h, ← names]
    exact working

/-- Records of neither segments nor gates are queued. -/
theorem beside_reports (bs : List ReportBody) (h : ∀ b ∈ bs, ¬ OfRoad b) : Beside s (s.reports bs) := by
  refine ⟨?_, ⟨bs, h, rfl⟩, fun w => ?_⟩
  · rw [reports_eq_withLine]
    rfl
  · rw [reports_eq_withLine]
    exact w

theorem beside_report (b : ReportBody) (h : ¬ OfRoad b) : Beside s (s.report b) :=
  beside_reports s [b] fun _ hb => List.mem_singleton.mp hb ▸ h

/-! ## Arbiters and the transmitter -/

theorem beside_withTransfer (x : StringId) (a : Option Attempt) : Beside s (s.withTransfer x a) := by
  cases x <;> exact beside_withStrings s _

theorem beside_beginAttempt (x : StringId) (k n : Nat) : Beside s (s.beginAttempt x k n) := by
  unfold State.beginAttempt
  split
  · exact beside_withTransfer s x _
  · exact .refl s

theorem beside_grant (x : StringId) (k : Nat) : Beside s (s.grant x k) := by
  have delivered : ∀ p, Beside s ((s.beginDelivery k p).beginAttempt x k 1) := fun p =>
    Beside.trans (t := s.beginDelivery k p) (.of_records rfl rfl id) (beside_beginAttempt _ x k 1)
  unfold State.grant
  split
  · exact .refl s
  · split
    · exact beside_beginAttempt s x k 1
    · exact delivered _
    · exact delivered _
    · exact .refl s

theorem beside_arbitrate (x : StringId) : Beside s (s.arbitrate x) := by
  unfold State.arbitrate
  split
  · exact .refl s
  · split
    · exact .refl s
    · exact beside_grant s x _

theorem beside_runArbiters : Beside s s.runArbiters := by
  have arbiter : ∀ (u : State) (x : StringId) (c : Bool), Beside u (if c then u.arbitrate x else u) := fun u x _ =>
    (beside_arbitrate u x).ite (.refl u)
  exact (beside_withStrings s _).trans ((arbiter _ .a _).trans (arbiter _ .b _))

theorem beside_mayChoose (x : StringId) : Beside s (s.mayChoose x) := by
  unfold State.mayChoose
  split
  · refine Beside.ite (beside_choiceTaken s) ((beside_choiceTaken s).trans ?_)
    exact (beside_withStrings _ _).trans (beside_arbitrate _ x)
  · exact .refl s

theorem beside_handMarks (ks : List Nat) : Beside s (s.handMarks ks) := by
  have called : ∀ xs : List StringId, Beside s (xs.foldl (fun u x => u.callArbiter x) s) := fun xs =>
    Beside.foldl (fun u _ => beside_withStrings u _) xs s
  unfold State.handMarks
  split
  · exact .refl s
  · exact (called _).trans ((beside_mayChoose _ .a).trans (beside_mayChoose _ .b))

theorem beside_kick : Beside s s.kick := by
  obtain ⟨tr, buf, h, hb⟩ := kick_transmits s
  rw [h]
  exact beside_withLine s _ (congrArg (·, s.line.nextSequence) hb)

theorem beside_goOn : Beside s s.goOn := by
  unfold State.goOn
  exact Beside.ite (Beside.ite (beside_choiceTaken s) ((beside_choiceTaken s).trans (beside_kick _))) (beside_kick s)

theorem beside_placeReply (r : Reply) : Beside s (s.placeReply r) := by
  obtain ⟨tr, buf, sch, h, hb⟩ := placeReply_eq s r
  rw [h]
  exact Beside.trans (t := s.withSchedule sch) (.of_records rfl rfl id)
    (beside_withLine (s.withSchedule sch) _ (congrArg (·, s.line.nextSequence) hb))

theorem beside_joinQueue (f : Frame) : Beside s (s.joinQueue f) := by
  unfold State.joinQueue
  exact Beside.ite (beside_withLine s _ rfl) (Beside.ite (beside_placeReply s _) (.refl s))

/-! ## The Field Interface -/

theorem beside_lineTransition (line : Nat) (high : Bool) : Beside s (s.lineTransition line high) := by
  have edges : ∀ u : State, Beside u (u.widthEdgeOn line high) := fun u => by
    refine Beside.foldl (fun u x => ?_) _ u
    split
    · exact beside_withChannel u _ _
    · exact .refl u
  unfold State.lineTransition
  split
  · have taken := fun i => (beside_withPin s line high).trans (beside_withInput _ line i)
    exact Beside.ite (.refl s) (Beside.ite ((taken _).trans (edges _)) (taken _))
  · exact .refl s

/-! ## Strings -/

theorem beside_endTransfer (x : StringId) : Beside s (s.endTransfer x) :=
  (beside_withTransfer s x none).trans (beside_arbitrate _ x)

theorem beside_orphan (k : Nat) : Beside s (s.orphan k) := by
  have on : ∀ u x, Beside u (State.orphanOn x k u) := fun u x => by
    unfold State.orphanOn
    split
    · exact .refl u
    · exact (beside_withTransfer u x _).ite (.refl u)
  exact (on s .a).trans (on _ .b)

theorem beside_imageSent (x : StringId) : Beside s (s.imageSent x) := by
  unfold State.imageSent
  split
  · exact .refl s
  · split
    · exact beside_withTransfer s x _
    · exact .refl s

theorem beside_chooseFor (k : Nat) (ready : PanelRecord → Bool) : Beside s (s.chooseFor k ready) := by
  unfold State.chooseFor
  split
  · exact (beside_arbitrate s _).ite (.refl s)
  · exact .refl s

/-! ## The Settings Store -/

theorem beside_answerSave (a : Answer) : Beside s (s.answerSave a) := by
  unfold State.answerSave
  split
  · exact .refl s
  · refine (beside_withLine s { s.line with carrying := none } ?_).trans (beside_placeReply _ _)
    rfl

/-- The store changes beside the working settings. -/
theorem beside_withStore (x : SettingsStore) (hx : x.working = s.settings)
    (hs : s.TablesWhole → ∀ c, x.saved = some c → c.Whole) (hw : s.TablesWhole → ∀ w, x.write = some w → w.copy.Whole) :
    Beside s (s.withStore x) := by
  refine .of_records ?_ rfl fun whole => ⟨?_, hs whole, hw whole⟩
  · exact congrArg (fun c => { sources s with store := { (sources s).store with working := sourceTables c } }) hx
  · show x.working.Whole
    rw [hx]
    exact whole.1

/-- The copy that is taken is the working settings' own. -/
theorem beside_beginSave (tag : Byte) : Beside s (s.beginSave tag) := by
  refine (beside_withStore s { s.store with saved := none, write := some ⟨s.store.working, s.now⟩ } rfl ?_ ?_).trans
    (beside_withLine _ _ rfl)
  · exact fun _ _ hc => nomatch hc
  · rintro whole w hw
    cases hw
    exact whole.1

theorem beside_saveDone (w : StoreWrite) (hw : s.store.write = some w) : Beside s (s.saveDone w) := by
  refine (beside_withStore s { s.store with saved := some w.copy, write := none, writes := s.store.writes + 1 } rfl
    ?_ ?_).trans (beside_answerSave _ _)
  · rintro ⟨-, -, write⟩ c hc
    cases hc
    exact write w hw
  · exact fun _ _ h => nomatch h

theorem beside_saveFailed : Beside s s.saveFailed := by
  refine (beside_withStore s { s.store with saved := none, write := none } rfl ?_ ?_).trans (beside_answerSave _ _)
  · exact fun _ _ h => nomatch h
  · exact fun _ _ h => nomatch h

end

end Sys2Proof.Proofs
end

section
/-! SUPPORT. What a segment's record and a sign's image depend on, source by source (R90 to R93, R147 to R153): where the
sources of one are as they were, so is what it is derived to. -/

namespace Sys2Proof.Proofs

open Sys2Proof Sys2Proof.Machine Sys2Proof.Laws Sys2Proof.Claims

/-! ## Segments -/

/-- A segment's state record is what its sources give, and it has one where it has a record (R90). -/
def SegmentFollows (s : State) (k : Nat) : Prop :=
  lookup s.segments k = (lookup s.settings.segments k).map (s.deriveSegment k)

theorem segmentsFollow_iff (s : State) : s.SegmentsFollow ↔ ∀ k, SegmentFollows s k := Iff.rfl

/-- What of an entry gate's state the table of R93 reads: whether it stands with the DOWN gates, and whether it is UP. -/
def entryClass (p : GatePosition) : Bool × Bool := (p.isBarrier, p != .up)

/-- The table of R93 reads no more of the entry gates than their classes. -/
theorem roadState_congr {cif rif : Bool} {hmax caution : Nat} {ps qs : List GatePosition}
    (h : ps.map entryClass = qs.map entryClass) : roadState cif rif hmax caution ps = roadState cif rif hmax caution qs := by
  have barriers : ∀ l : List GatePosition, l.all GatePosition.isBarrier = (l.map entryClass).all Prod.fst := fun l => by
    rw [List.all_map]
    rfl
  have lifted : ∀ l : List GatePosition, l.any (fun g => g != .up) = (l.map entryClass).any Prod.snd := fun l => by
    rw [List.any_map]
    rfl
  unfold roadState
  rw [barriers ps, barriers qs, lifted ps, lifted qs, h]

/-- The sources of a segment give in one state what they give in another. -/
structure SameRoad (s u : State) (k : Nat) : Prop where
  closure : u.governing .closure k = s.governing .closure k
  restriction : u.governing .restriction k = s.governing .restriction k
  highest : u.highest [k] = s.highest [k]
  entries : (u.entryPositions k).map entryClass = (s.entryPositions k).map entryClass

theorem SameRoad.deriveSegment {s u : State} {k : Nat} (h : SameRoad s u k) (r : SegmentRecord) :
    u.deriveSegment k r = s.deriveSegment k r := by
  unfold State.deriveSegment
  dsimp only
  rw [h.closure, h.restriction, h.highest, roadState_congr h.entries]

/-- A segment whose records stay follows its sources where they give what they gave. -/
theorem SegmentFollows.congr {s u : State} {k : Nat} (hs : lookup u.segments k = lookup s.segments k)
    (hr : lookup u.settings.segments k = lookup s.settings.segments k) (hd : u.deriveSegment k = s.deriveSegment k)
    (h : SegmentFollows s k) : SegmentFollows u k := by
  unfold SegmentFollows
  rw [hs, hr, hd]
  exact h

/-! ## Images -/

/-- The sources of a sign's image give in one state what they give in another. -/
structure SameView (s u : State) (j : Nat) (r : SignRecord) : Prop where
  segment : u.closureSegment j r = s.closureSegment j r
  closure : ∀ k, s.closureSegment j r = some k → u.governing .closure k = s.governing .closure k ∧
    u.settings.segmentName k = s.settings.segmentName k
  profile : u.settings.profileOf r = s.settings.profileOf r
  highest : u.highest r.segments = s.highest r.segments
  restriction : u.shownRestriction r = s.shownRestriction r
  text : u.sourceText = s.sourceText

theorem SameView.closureLayer {s u : State} {j : Nat} {r : SignRecord} (h : SameView s u j r) (style : ClosureStyle)
    (d : Draft) : closureLayer u style (u.closureSegment j r) d = closureLayer s style (s.closureSegment j r) d := by
  rw [h.segment]
  cases hk : s.closureSegment j r with
  | none => rfl
  | some k =>
    obtain ⟨governing, name⟩ := h.closure k hk
    unfold Machine.closureLayer
    dsimp only
    rw [governing, name]

theorem SameView.draft {s u : State} {j : Nat} {r : SignRecord} (h : SameView s u j r) (front : Page) :
    u.draft j r front = s.draft j r front := by
  have hazard : ∀ p d, hazardLayer u p r d = hazardLayer s p r d := fun p d => by
    unfold hazardLayer
    rw [h.highest]
  have restriction : ∀ p d, restrictionLayer u p r d = restrictionLayer s p r d := fun p d => by
    unfold restrictionLayer
    rw [h.restriction]
  unfold State.draft
  dsimp only
  rw [h.profile, h.closureLayer, hazard, restriction]

theorem SameView.compose {s u : State} {j : Nat} {r : SignRecord} (h : SameView s u j r) (front : Page) :
    u.compose j r front = s.compose j r front := by
  unfold State.compose State.render
  rw [h.draft, h.segment, h.text]

/-- A sign whose record and pages stay shows what its sources give where they give what they gave. -/
theorem imageFollows_congr {s u : State} {j : Nat}
    (hr : lookup u.settings.signs j = lookup s.settings.signs j) (hc : u.sign j = s.sign j)
    (hv : ∀ r c, lookup s.settings.signs j = some r → s.sign j = some c → u.compose j r c.front = s.compose j r c.front)
    (h : s.ImageFollows j) : u.ImageFollows j := by
  intro r c hr' hc'
  rw [hr] at hr'
  rw [hc] at hc'
  rw [hv r c hr' hc']
  exact h r c hr' hc'

/-! ## The closure segment (R148) -/

theorem mem_guardedBy {s : State} {j x : Nat} {p : GatePosition} : x ∈ s.guardedBy j p ↔
    ∃ k r g, lookup s.settings.gates k = some r ∧ j ∈ r.approach ∧ s.gate k = some g ∧ g.position = p ∧ r.segment = x := by
  unfold State.guardedBy
  simp only [List.mem_filterMap, mem_approached]
  constructor
  · rintro ⟨k, ⟨r, hr, hj⟩, h⟩
    rw [hr] at h
    cases hg : lookup s.gates k with
    | none => simp [hg] at h
    | some g =>
      simp only [hg, ite_eq_iff, Option.some.injEq, reduceCtorEq, and_false, or_false] at h
      exact ⟨k, r, g, hr, hj, hg, h.1, h.2⟩
  · rintro ⟨k, r, g, hr, hj, hg, hp, hx⟩
    refine ⟨k, ⟨r, hr, hj⟩, ?_⟩
    rw [hr, show lookup s.gates k = some g from hg]
    simp [hp, hx]

/-- Gates and closing segments as they were, the closure segment is as it was. -/
theorem closureSegment_congr {s u : State} {j : Nat} {r : SignRecord}
    (hw : u.guardedBy j .warning = s.guardedBy j .warning) (hl : u.guardedBy j .lowering = s.guardedBy j .lowering)
    (hc : ∀ x ∈ r.segments, u.isClosing x = s.isClosing x) : u.closureSegment j r = s.closureSegment j r := by
  unfold State.closureSegment
  rw [hw, hl, List.filter_congr hc]

/-- A closure segment is one that the sign announces: gates name approach signs that announce their segment (R105). -/
theorem closureSegment_mem {s : State} {j x : Nat} {r : SignRecord} (hn : s.settings.NamesDefined)
    (hr : lookup s.settings.signs j = some r) (h : s.closureSegment j r = some x) : x ∈ r.segments := by
  have guarded : ∀ p, x ∈ s.guardedBy j p → x ∈ r.segments := by
    intro p hx
    obtain ⟨k, q, g, hq, hj, -, -, rfl⟩ := mem_guardedBy.mp hx
    obtain ⟨-, -, announces⟩ := hn.1 k q hq
    obtain ⟨r', hr', hm⟩ := announces j hj
    rwa [Option.some.inj (hr.symm.trans hr')]
  unfold State.closureSegment at h
  split at h
  · rename_i y hy
    cases h
    exact guarded .warning (List.min?_mem hy)
  · split at h
    · rename_i y hy
      cases h
      exact guarded .lowering (List.min?_mem hy)
    · exact (List.mem_filter.mp (List.min?_mem h)).1

/-- The restriction a sign shows depends on its own segments (R151). -/
theorem shownRestriction_congr {s u : State} {r : SignRecord}
    (h : ∀ x ∈ r.segments, u.governing .restriction x = s.governing .restriction x) :
    u.shownRestriction r = s.shownRestriction r := by
  unfold State.shownRestriction
  rw [List.filter_congr (q := fun k => (s.governing .restriction k).isSome) fun x hx => by rw [h x hx]]
  split
  · rename_i k hk
    exact h k (List.mem_filter.mp (List.min?_mem hk)).1
  · rfl

end Sys2Proof.Proofs
end

section
/-! SUPPORT. What every operation of the part keeps of segments, gates, images and reports, said once (R89 to R97, R132,
R158 to R160). `Unsettles g ks signs s u`: from `s` to `u` the segments `ks` and the signs `signs` are left to be derived
anew, and all else still follows its sources. -/

namespace Sys2Proof.Proofs

open Sys2Proof Sys2Proof.Machine Sys2Proof.Laws Sys2Proof.Claims

/-! ## What the reports tell -/

/-- The clock stays, and the records queued lead every segment and every gate from its state to its next. -/
def Tells (s t : State) : Prop :=
  t.retained.clock = s.retained.clock ∧
    ∃ bs, recordsOf t.line = recordsOf (s.reports bs).line ∧ ∀ k,
      Leads (segmentChange k) bs ((lookup s.segments k).map SegmentState.state)
        ((lookup t.segments k).map SegmentState.state) ∧
      Leads (gateChange k) bs ((s.gate k).map GateState.position) ((t.gate k).map GateState.position)

theorem Tells.trans {s t u : State} (h : Tells s t) (k : Tells t u) : Tells s u := by
  obtain ⟨hclock, bs, hl, hb⟩ := h
  obtain ⟨kclock, cs, kl, hc⟩ := k
  refine ⟨kclock.trans hclock, bs ++ cs, ?_, fun x => ⟨leads_append (hc x).1 (hb x).1, leads_append (hc x).2 (hb x).2⟩⟩
  have reported : (s.reports bs).retained.clock = s.retained.clock :=
    congrArg Retained.clock (reaction_reports s bs).retained
  rw [kl, reports_append]
  exact reports_records cs t (s.reports bs) hl (hclock.trans reported.symm)

/-- Reports are queued, and the states they tell are those that the segments and gates have. -/
theorem Tells.of_reports {s t : State} {bs : List ReportBody} (hc : t.retained.clock = s.retained.clock)
    (hl : recordsOf t.line = recordsOf (s.reports bs).line)
    (hs : ∀ k, Leads (segmentChange k) bs ((lookup s.segments k).map SegmentState.state)
      ((lookup t.segments k).map SegmentState.state))
    (hg : ∀ k, Leads (gateChange k) bs ((s.gate k).map GateState.position) ((t.gate k).map GateState.position)) :
    Tells s t := ⟨hc, bs, hl, fun k => ⟨hs k, hg k⟩⟩

/-- Reports of neither segments nor gates tell no change. -/
theorem leads_of_notRoad {bs : List ReportBody} (h : ∀ b ∈ bs, ¬ OfRoad b) (k : Nat) (o : Option RoadState)
    (p : Option GatePosition) : Leads (segmentChange k) bs o o ∧ Leads (gateChange k) bs p p := by
  constructor
  · refine leads_silent fun b hb => ?_
    cases b with
    | segment => exact absurd trivial (h _ hb)
    | _ => rfl
  · refine leads_silent fun b hb => ?_
    cases b with
    | gate => exact absurd trivial (h _ hb)
    | _ => rfl

/-- Segments and gates stay, and records of neither are queued. -/
theorem Tells.of_silent {s t : State} {bs : List ReportBody} (hb : ∀ b ∈ bs, ¬ OfRoad b)
    (hc : t.retained.clock = s.retained.clock) (hl : recordsOf t.line = recordsOf (s.reports bs).line)
    (hs : t.segments = s.segments) (hg : t.gates = s.gates) : Tells s t := by
  refine .of_reports hc hl (fun k => ?_) fun k => ?_
  · rw [hs]
    exact (leads_of_notRoad hb k _ none).1
  · unfold State.gate
    rw [hg]
    exact (leads_of_notRoad hb k none _).2

/-! ## What is marked -/

/-- A sign that is unmarked was there unmarked, with the identity it has (R160). -/
def Marks (s t : State) : Prop :=
  ∀ k d, t.sign k = some d → d.marked = true ∨
    ∃ c, s.sign k = some c ∧ c.marked = false ∧ d.image.identity = c.image.identity

theorem Marks.of_signs {s t : State} (h : t.composer.signs = s.composer.signs) : Marks s t := by
  intro k d hd
  have hs : s.sign k = some d := by rwa [State.sign, h] at hd
  cases hm : d.marked with
  | true => exact Or.inl rfl
  | false => exact Or.inr ⟨d, hs, hm, rfl⟩

theorem Marks.trans {s t u : State} (h : Marks s t) (k : Marks t u) : Marks s u := by
  intro x e he
  rcases k x e he with hm | ⟨d, hd, unmarked, same⟩
  · exact Or.inl hm
  · rcases h x d hd with hm | ⟨c, hc, hcm, hid⟩
    · rw [unmarked] at hm
      cases hm
    · exact Or.inr ⟨c, hc, hcm, same.trans hid⟩

/-! ## The relation -/

/-- What holds of a command and the state it is executed in: `once` that the Notice List has no number twice, `whole` that
segments, gates and settings are as every step keeps them; and what the command is: `confirms` that it confirms an image,
`sends` that it ends a report frame. -/
structure Terms where
  once : Prop
  whole : Prop
  confirms : Prop
  sends : Prop

/-- From `s` to `u` all follows its sources that did, but for the segments `ks`, whose state records stay, and the images
of `signs`; and the reports tell what changed, and signs with a new identity are marked. -/
structure Unsettles (g : Terms) (ks signs : List Nat) (s u : State) : Prop where
  awaits : ∀ k ∈ ks, lookup u.segments k = lookup s.segments k ∧
    (lookup u.settings.segments k).isSome = (lookup s.settings.segments k).isSome
  derived : g.once → ∀ k, k ∉ ks → SegmentFollows s k → SegmentFollows u k
  gatesWhole : s.GatesWhole → u.GatesWhole
  tables : s.TablesWhole → u.TablesWhole
  images : g.once → s.TablesWhole → ∀ j, j ∉ signs → s.ImageFollows j → u.ImageFollows j
  marks : ¬ g.confirms → Marks s u
  tells : g.whole → ¬ g.sends → Tells s u

variable {g : Terms} {ks signs : List Nat} {s t u : State}

theorem Unsettles.refl (s : State) : Unsettles g [] [] s s where
  awaits := by simp
  derived := fun _ _ _ h => h
  gatesWhole := id
  tables := id
  images := fun _ _ _ _ h => h
  marks := fun _ => .of_signs rfl
  tells := fun _ _ => .of_silent (bs := []) (by simp) rfl rfl rfl rfl

/-- Two steps of which the first leaves nothing to be derived anew. -/
theorem Unsettles.after (h : Unsettles g [] [] s t) (k : Unsettles g ks signs t u)
    (hk : ∀ k ∈ ks, lookup t.segments k = lookup s.segments k ∧
      (lookup t.settings.segments k).isSome = (lookup s.settings.segments k).isSome) :
    Unsettles g ks signs s u where
  awaits := fun x hx => ⟨(k.awaits x hx).1.trans (hk x hx).1, (k.awaits x hx).2.trans (hk x hx).2⟩
  derived := fun o x hx hf => k.derived o x hx (h.derived o x List.not_mem_nil hf)
  gatesWhole := fun w => k.gatesWhole (h.gatesWhole w)
  tables := fun w => k.tables (h.tables w)
  images := fun o w j hj hf => k.images o (h.tables w) j hj (h.images o w j List.not_mem_nil hf)
  marks := fun c => (h.marks c).trans (k.marks c)
  tells := fun w c => (h.tells w c).trans (k.tells w c)

theorem Unsettles.trans (h : Unsettles g [] [] s t) (k : Unsettles g [] signs t u) : Unsettles g [] signs s u :=
  h.after k (by simp)

/-- An operation beside the sources leaves nothing to be derived anew. -/
theorem Beside.unsettles (h : Beside s t) : Unsettles g [] [] s t where
  awaits := by simp
  derived := fun _ _ _ hf => hf.congr (congrArg (lookup · _) h.segments) (congrArg (lookup · _) h.segmentRecords)
    (congrFun h.deriveSegment _)
  gatesWhole := fun w k => by rw [h.gate, h.gateRecords]; exact w k
  tables := h.tables
  images := fun _ _ j _ hf => imageFollows_congr (congrArg (lookup · j) h.signRecords) (h.sign j)
    (fun r c _ _ => by rw [h.compose]) hf
  marks := fun _ => .of_signs (congrArg SignComposer.signs h.composer)
  tells := fun _ _ => have ⟨_, silent, records⟩ := h.records
    .of_silent silent h.clock records h.segments h.gates

/-- What comes after, beside the sources, changes nothing that is left to be derived anew. -/
theorem Unsettles.beside (h : Unsettles g ks signs s t) (k : Beside t u) : Unsettles g ks signs s u where
  awaits := fun x hx => by rw [k.segments, k.segmentRecords]; exact h.awaits x hx
  derived := fun o x hx hf => (k.unsettles (g := g)).derived o x List.not_mem_nil (h.derived o x hx hf)
  gatesWhole := fun w => (k.unsettles (g := g)).gatesWhole (h.gatesWhole w)
  tables := fun w => k.tables (h.tables w)
  images := fun o w j hj hf => (k.unsettles (g := g)).images o (h.tables w) j List.not_mem_nil (h.images o w j hj hf)
  marks := fun c => (h.marks c).trans ((k.unsettles (g := g)).marks c)
  tells := fun w c => (h.tells w c).trans ((k.unsettles (g := g)).tells w c)

end Sys2Proof.Proofs
end

section
/-! SUPPORT. A hand-over derives anew what awaits it (R90 to R97, R112, R113, R132): the segments, then the signs of the state
changes and those of the cause, then the gates that are told, each with its segment and its approach signs. -/

namespace Sys2Proof.Proofs

open Sys2Proof Sys2Proof.Machine Sys2Proof.Laws Sys2Proof.Claims

/-! ## Deriving some segments (R90) -/

/-- The segment records that a list of re-derivations leaves. -/
def putDerived (v : Vector (Option SegmentState) 8) (ds : List Rederived) : Vector (Option SegmentState) 8 :=
  ds.foldl (fun v d => putItem v d.segment (some d.after)) v

/-- The state with some segments derived anew and reported, before anything is handed on. -/
def derivedAnew (ks : List Nat) (s : State) : State :=
  (s.withSegments (putDerived s.segments (s.rederive (ascending 8 ks)))).reports
    ((s.rederive (ascending 8 ks)).flatMap Rederived.reports)

/-- The segments whose state a re-derivation changes. -/
def changedIn (ks : List Nat) (s : State) : List Nat :=
  ((s.rederive (ascending 8 ks)).filter Rederived.changed).map Rederived.segment

theorem evaluate_eq (ks : List Nat) (s : State) : s.evaluate ks =
    ((derivedAnew ks s).recompose (s.settings.announcing (changedIn ks s)),
      (s.rederive (ascending 8 ks)).flatMap s.settings.cifTells) := by
  have settings : (derivedAnew ks s).settings = s.settings :=
    congrArg SettingsStore.working (reaction_reports _ _).store
  have nobody : s.settings.announcing [] = [] := List.filter_eq_nil_iff.mpr fun k _ => by
    cases lookup s.settings.signs k <;> simp
  unfold State.evaluate
  dsimp only
  split
  · rename_i h
    rw [show changedIn ks s = [] from h, nobody]
    rfl
  · rw [← settings]
    rfl

theorem mem_ascending {n k : Nat} {ks : List Nat} : k ∈ ascending n ks ↔ (1 ≤ k ∧ k ≤ n) ∧ k ∈ ks := by
  simp [ascending]

theorem mem_rederive {s : State} {ks : List Nat} {d : Rederived} : d ∈ s.rederive ks ↔ d.segment ∈ ks ∧
    ∃ r, lookup s.settings.segments d.segment = some r ∧ lookup s.segments d.segment = some d.before ∧
      d.after = s.deriveSegment d.segment r := by
  unfold State.rederive
  rw [List.mem_filterMap]
  constructor
  · rintro ⟨k, hk, h⟩
    cases hr : lookup s.settings.segments k with
    | none => simp [hr] at h
    | some r =>
      cases hs : lookup s.segments k with
      | none => simp [hr, hs] at h
      | some old =>
        simp only [hr, hs, Option.some.injEq] at h
        subst h
        exact ⟨hk, r, hr, hs, rfl⟩
  · rintro ⟨hk, r, hr, hs, ha⟩
    refine ⟨d.segment, hk, ?_⟩
    rw [hr, hs]
    dsimp only
    rw [← ha]

theorem rederive_nodup (s : State) (ks : List Nat) :
    ((s.rederive (ascending 8 ks)).map Rederived.segment).Nodup := by
  have own : ∀ k d, (match lookup s.settings.segments k, lookup s.segments k with
      | some r, some old => some (⟨k, old, s.deriveSegment k r⟩ : Rederived)
      | _, _ => none) = some d → d.segment = k := by
    intro k d h
    split at h
    · cases h
      rfl
    · cases h
  have sub : ((s.rederive (ascending 8 ks)).map Rederived.segment).Sublist (ascending 8 ks) := by
    unfold State.rederive
    induction ascending 8 ks with
    | nil => exact .slnil
    | cons k ks ih =>
      rw [List.filterMap_cons]
      split
      · exact ih.cons k
      · rename_i d hd
        rw [List.map_cons, own k d hd]
        exact ih.cons_cons k
  exact sub.nodup ((List.nodup_range' 1 Nat.one_pos).filter _)

/-- The records of the other segments stay when one is put. -/
theorem found_after_put {v : Vector (Option SegmentState) 8} {d : Rederived} {ds : List Rederived}
    (hn : ((d :: ds).map Rederived.segment).Nodup) (hd : ∀ e ∈ d :: ds, lookup v e.segment = some e.before) :
    ∀ e ∈ ds, lookup (putItem v d.segment (some d.after)) e.segment = some e.before := by
  intro e he
  have other : e.segment ≠ d.segment := fun h =>
    (List.nodup_cons.mp hn).1 (List.mem_map.mpr ⟨e, he, h⟩)
  rw [lookup_putItem_ne v _ other]
  exact hd e (List.mem_cons_of_mem d he)

/-- Where a re-derivation finds a segment, the records it leaves hold what it derived; elsewhere they stay. -/
theorem lookup_putDerived (v : Vector (Option SegmentState) 8) (ds : List Rederived)
    (hn : (ds.map Rederived.segment).Nodup) (hd : ∀ d ∈ ds, lookup v d.segment = some d.before) (k : Nat) :
    (k ∉ ds.map Rederived.segment ∧ lookup (putDerived v ds) k = lookup v k) ∨
      ∃ d ∈ ds, d.segment = k ∧ lookup (putDerived v ds) k = some d.after := by
  induction ds generalizing v with
  | nil => exact Or.inl ⟨List.not_mem_nil, rfl⟩
  | cons d ds ih =>
    rcases ih _ (List.nodup_cons.mp hn).2 (found_after_put hn hd) with ⟨hk, h⟩ | ⟨e, he, hk, h⟩
    · by_cases hkd : k = d.segment
      · have bounds := lookup_bounds v (hd d List.mem_cons_self)
        refine Or.inr ⟨d, List.mem_cons_self, hkd.symm, h.trans ?_⟩
        rw [hkd, lookup_putItem_self v _ bounds.1 bounds.2]
      · refine Or.inl ⟨?_, h.trans (lookup_putItem_ne v _ hkd)⟩
        rw [List.map_cons, List.mem_cons]
        exact fun hm => hm.elim hkd hk
    · exact Or.inr ⟨e, List.mem_cons_of_mem d he, hk, h⟩

section
variable (ks : List Nat) (s : State)

/-- A segment's record after a derivation: as it was, and then the segment was not found among those derived; or derived
anew from the sources. -/
theorem derivedAnew_segment (k : Nat) :
    ((k ∉ ks ∨ lookup s.settings.segments k = none ∨ lookup s.segments k = none) ∧
      lookup (derivedAnew ks s).segments k = lookup s.segments k) ∨
    ∃ d ∈ s.rederive (ascending 8 ks), d.segment = k ∧ lookup s.segments k = some d.before ∧
      ∃ r, lookup s.settings.segments k = some r ∧ d.after = s.deriveSegment k r ∧
        lookup (derivedAnew ks s).segments k = some (s.deriveSegment k r) := by
  have segments : (derivedAnew ks s).segments = putDerived s.segments (s.rederive (ascending 8 ks)) := by
    unfold derivedAnew
    rw [reports_eq_withLine]
    rfl
  have found : ∀ d ∈ s.rederive (ascending 8 ks), lookup s.segments d.segment = some d.before := fun d hd => by
    obtain ⟨-, r, -, h, -⟩ := mem_rederive.mp hd
    exact h
  rw [segments]
  rcases lookup_putDerived s.segments _ (rederive_nodup s ks) found k with ⟨hk, h⟩ | ⟨d, hd, rfl, h⟩
  · refine Or.inl ⟨?_, h⟩
    by_contra hc
    push Not at hc
    obtain ⟨hm, hr, hs⟩ := hc
    obtain ⟨r, hr⟩ := Option.ne_none_iff_exists'.mp hr
    obtain ⟨old, hs⟩ := Option.ne_none_iff_exists'.mp hs
    exact hk (List.mem_map.mpr ⟨⟨k, old, s.deriveSegment k r⟩,
      mem_rederive.mpr ⟨mem_ascending.mpr ⟨lookup_bounds _ hr, hm⟩, r, hr, hs, rfl⟩, rfl⟩)
  · obtain ⟨-, r, hr, hs, ha⟩ := mem_rederive.mp hd
    exact Or.inr ⟨d, hd, rfl, hs, r, hr, ha, ha ▸ h⟩

/-- A derivation reads no segment's state, and reports change none of the sources. -/
theorem derivedAnew_sources :
    sources (derivedAnew ks s) = sources (s.withSegments (derivedAnew ks s).segments) := by
  unfold derivedAnew
  rw [reports_eq_withLine]
  rfl

theorem deriveSegment_derivedAnew : (derivedAnew ks s).deriveSegment = s.deriveSegment := by
  rw [deriveSegment_sources, derivedAnew_sources]
  rfl

theorem settings_derivedAnew : (derivedAnew ks s).settings = s.settings :=
  congrArg SettingsStore.working (reaction_reports _ _).store

theorem gates_derivedAnew : (derivedAnew ks s).gates = s.gates := congrArg (fun u => u.gates) (derivedAnew_sources ks s)

theorem composer_derivedAnew : (derivedAnew ks s).composer = s.composer :=
  congrArg (fun u => u.composer) (derivedAnew_sources ks s)

/-- A segment whose state did not change is CLOSING or CLOSED as it was. -/
theorem isClosing_derivedAnew {k : Nat} (hk : k ∉ changedIn ks s) :
    (derivedAnew ks s).isClosing k = s.isClosing k := by
  unfold State.isClosing
  rcases derivedAnew_segment ks s k with ⟨-, h⟩ | ⟨d, hd, rfl, hs, r, hr, ha, h⟩
  · rw [h]
  · have same : d.before.state = (s.deriveSegment d.segment r).state := by
      by_contra hc
      refine hk (List.mem_map_of_mem (List.mem_filter.mpr ⟨hd, ?_⟩))
      rw [Rederived.changed, ha]
      exact bne_iff_ne.mpr hc
    rw [h, hs]
    dsimp only
    rw [same]

end

/-- One report of a change leads from its first state to its last. -/
theorem leads_one {α : Type} {change : ReportBody → Option (α × α)} {b : ReportBody} {x y : α}
    (h : change b = some (x, y)) (hne : x ≠ y) : Leads change [b] x y := by
  unfold Leads
  rw [h]
  exact ⟨rfl, hne, rfl⟩

/-- The reports of some derivations lead each segment from its state to the derived one (R95). -/
theorem leads_rederived (v : Vector (Option SegmentState) 8) (ds : List Rederived)
    (hn : (ds.map Rederived.segment).Nodup) (hd : ∀ d ∈ ds, lookup v d.segment = some d.before) (k : Nat) :
    Leads (segmentChange k) (ds.flatMap Rederived.reports) ((lookup v k).map SegmentState.state)
      ((lookup (putDerived v ds) k).map SegmentState.state) := by
  induction ds generalizing v with
  | nil => rfl
  | cons d ds ih =>
    have before := hd d List.mem_cons_self
    rw [List.flatMap_cons]
    refine leads_append (ih _ (List.nodup_cons.mp hn).2 (found_after_put hn hd)) ?_
    have bounds := lookup_bounds v before
    unfold Rederived.reports Rederived.changed
    by_cases hk : k = d.segment
    · subst hk
      rw [before, lookup_putItem_self v _ bounds.1 bounds.2]
      split
      · rename_i hc
        exact leads_one (if_pos rfl) fun h => bne_iff_ne.mp hc (Option.some.inj h)
      · rename_i hc
        have same : d.before.state = d.after.state := by simpa using hc
        exact congrArg some same
    · rw [lookup_putItem_ne v _ hk]
      refine leads_silent fun b hb => ?_
      split at hb
      · obtain rfl := List.mem_singleton.mp hb
        exact if_neg (Ne.symm hk)
      · cases hb

end Sys2Proof.Proofs
end

section
/-! SUPPORT. Signs recomposed and gates moved (R132, R158 to R160): what each leaves to be derived anew. -/

namespace Sys2Proof.Proofs

open Sys2Proof Sys2Proof.Machine Sys2Proof.Laws Sys2Proof.Claims

variable {g : Terms} {ks signs : List Nat} {s t u : State}

/-! ## Deriving -/

theorem mem_announcing {c : Settings} {xs : List Nat} {j : Nat} :
    j ∈ c.announcing xs ↔ ∃ r, lookup c.signs j = some r ∧ ∃ x ∈ r.segments, x ∈ xs := by
  unfold Settings.announcing
  rw [List.mem_filter, mem_numbers]
  cases h : lookup c.signs j with
  | none => simp
  | some r =>
    have bounds := lookup_bounds _ h
    simp [bounds]

theorem SegmentFollows.stands {k : Nat} (h : SegmentFollows s k) :
    (lookup s.segments k).isSome = (lookup s.settings.segments k).isSome := by
  rw [h, Option.isSome_map]

/-- A segment derived anew follows its sources. -/
theorem derivedAnew_follows {k : Nat} (hk : k ∈ ks ∨ SegmentFollows u k)
    (hs : (lookup u.segments k).isSome = (lookup u.settings.segments k).isSome) :
    SegmentFollows (derivedAnew ks u) k := by
  unfold SegmentFollows
  rw [settings_derivedAnew, deriveSegment_derivedAnew]
  rcases derivedAnew_segment ks u k with ⟨away, h⟩ | ⟨d, -, -, -, r, hr, -, h⟩
  · rw [h]
    have undefined : lookup u.settings.segments k = none ∨ lookup u.segments k = none →
        lookup u.segments k = (lookup u.settings.segments k).map (u.deriveSegment k) := by
      intro hn
      have both : lookup u.settings.segments k = none ∧ lookup u.segments k = none := by
        simp only [← Option.isNone_iff_eq_none, ← Option.not_isSome, hs] at hn ⊢
        exact ⟨hn.elim id id, hn.elim id id⟩
      rw [both.1, both.2]
      rfl
    rcases hk with hk | hk
    · exact undefined (away.resolve_left (not_not.mpr hk))
    · exact hk
  · rw [h, hr]
    rfl

theorem Unsettles.derivedAnew (h : Unsettles g ks signs s u) :
    Unsettles g [] (signs ++ u.settings.announcing (changedIn ks u)) s (derivedAnew ks u) where
  awaits := by simp
  derived := fun o k _ hf => by
    by_cases hk : k ∈ ks
    · obtain ⟨segment, record⟩ := h.awaits k hk
      exact derivedAnew_follows (Or.inl hk) ((congrArg Option.isSome segment).trans (hf.stands.trans record.symm))
    · have follows := h.derived o k hk hf
      exact derivedAnew_follows (Or.inr follows) follows.stands
  gatesWhole := fun w k => by
    unfold State.gate
    rw [gates_derivedAnew, settings_derivedAnew]
    exact h.gatesWhole w k
  tables := fun w => by
    have store : (Proofs.derivedAnew ks u).store = u.store := (reaction_reports _ _).store
    unfold State.TablesWhole
    rw [settings_derivedAnew, store]
    exact h.tables w
  images := fun o w j hj hf => by
    obtain ⟨hj, still⟩ := not_or.mp (fun hm => hj (List.mem_append.mpr hm))
    refine imageFollows_congr (by rw [settings_derivedAnew])
      (congrArg (fun c : SignComposer => lookup c.signs j) (composer_derivedAnew ks u)) (fun r c hr _ => ?_)
      (h.images o w j hj hf)
    have closing : ∀ x ∈ r.segments, (Proofs.derivedAnew ks u).isClosing x = u.isClosing x := fun x hx =>
      isClosing_derivedAnew ks u fun hm => still (mem_announcing.mpr ⟨r, hr, x, hx, hm⟩)
    rw [compose_sources, derivedAnew_sources, ← compose_sources]
    have view : SameView u (u.withSegments (Proofs.derivedAnew ks u).segments) j r :=
      ⟨closureSegment_congr rfl rfl closing, fun _ _ => ⟨rfl, rfl⟩, rfl, rfl, rfl, rfl⟩
    exact view.compose _
  marks := fun c => (h.marks c).trans (.of_signs (congrArg SignComposer.signs (composer_derivedAnew ks u)))
  tells := fun w c => (h.tells w c).trans <| by
    have found : ∀ d ∈ u.rederive (ascending 8 ks), lookup u.segments d.segment = some d.before := fun d hd => by
      obtain ⟨-, r, -, h, -⟩ := mem_rederive.mp hd
      exact h
    have segments : (Proofs.derivedAnew ks u).segments = putDerived u.segments (u.rederive (ascending 8 ks)) := by
      unfold Proofs.derivedAnew
      rw [reports_eq_withLine]
      rfl
    refine .of_reports (congrArg (fun u => u.retained.clock) (derivedAnew_sources ks u))
      (reports_records _ (u.withSegments _) u rfl rfl) (fun k => ?_) fun k => ?_
    · rw [segments]
      exact leads_rederived _ _ (rederive_nodup u ks) found k
    · unfold State.gate
      rw [gates_derivedAnew]
      refine leads_silent fun b hb => ?_
      obtain ⟨d, -, hd⟩ := List.mem_flatMap.mp hb
      unfold Rederived.reports at hd
      split at hd
      · obtain rfl := List.mem_singleton.mp hd
        rfl
      · cases hd

/-! ## Recomposing -/

/-- A sign with a record and pages is recomposed; another recomposition changes nothing. -/
theorem recomposeSign_cases (s : State) (k : Nat) : (s.recomposeSign k).1 = s ∨
    ∃ r c d, lookup s.settings.signs k = some r ∧ s.sign k = some c ∧ (s.recomposeSign k).1 = s.withSign k (some d) ∧
      (d.marked = false → c.marked = false ∧ d.image.identity = c.image.identity) := by
  cases hr : lookup s.settings.signs k with
  | none => exact Or.inl (by simp [State.recomposeSign, hr])
  | some r =>
    cases hc : s.sign k with
    | none => exact Or.inl (by simp [State.recomposeSign, hr, hc])
    | some c =>
      obtain ⟨d, he, -, -, -, -, -, -, hm, hi⟩ := recomposeSign_eq s k r c hr hc
      refine Or.inr ⟨r, c, d, rfl, rfl, he, fun h => ?_⟩
      rw [hm, Bool.or_eq_false_iff] at h
      refine ⟨h.1, ?_⟩
      by_contra hne
      rw [hi.mpr hne] at h
      exact Bool.noConfusion h.2

/-- A recomposition changes signs alone. -/
theorem recomposeSign_sources (s : State) (k : Nat) :
    ∃ x, sources (s.recomposeSign k).1 = sources (s.withComposer { s.composer with signs := x }) := by
  rcases recomposeSign_cases s k with h | ⟨-, -, d, -, -, h, -⟩
  · exact ⟨s.composer.signs, by rw [h]; rfl⟩
  · exact ⟨_, by rw [h]; rfl⟩

theorem recomposeSign_store (s : State) (k : Nat) : (s.recomposeSign k).1.store = s.store := by
  rcases recomposeSign_cases s k with h | ⟨-, -, d, -, -, h, -⟩
  · rw [h]
  · rw [h]
    rfl

theorem recomposeSign_keepsImage (s : State) {k j : Nat} (h : s.ImageFollows j) :
    (s.recomposeSign k).1.ImageFollows j := by
  by_cases hj : j = k
  · subst hj
    exact recomposeSign_follows s j
  · rcases recomposeSign_cases s k with e | ⟨-, -, d, -, -, e, -⟩
    · rwa [e]
    · rw [e]
      exact imageFollows_congr (s := s) rfl (lookup_putItem_ne s.composer.signs _ hj) (fun _ _ _ _ => rfl) h

theorem marks_recomposeSign (s : State) (k : Nat) : Marks s (s.recomposeSign k).1 := by
  rcases recomposeSign_cases s k with h | ⟨r, c, d, -, hc, h, hd⟩
  · rw [h]
    exact .of_signs rfl
  · rw [h]
    intro j e he
    rcases lookup_putItem_cases s.composer.signs k j (some d) e he with ⟨rfl, own⟩ | hj
    · obtain rfl := Option.some.inj own
      cases hm : d.marked with
      | true => exact Or.inl rfl
      | false =>
        obtain ⟨unmarked, same⟩ := hd hm
        exact Or.inr ⟨c, hc, unmarked, same⟩
    · exact (Marks.of_signs (s := s) (t := s) rfl) j e hj

theorem unsettles_recomposeSign (s : State) (k : Nat) : Unsettles g [] [] s (s.recomposeSign k).1 := by
  obtain ⟨x, hx⟩ := recomposeSign_sources s k
  have store := recomposeSign_store s k
  have settings : (s.recomposeSign k).1.settings = s.settings := congrArg SettingsStore.working store
  have segments : (s.recomposeSign k).1.segments = s.segments := congrArg (fun u => u.segments) hx
  have gates : (s.recomposeSign k).1.gates = s.gates := congrArg (fun u => u.gates) hx
  have derives : (s.recomposeSign k).1.deriveSegment = s.deriveSegment := by
    rw [deriveSegment_sources, hx]
    rfl
  exact {
    awaits := by simp
    derived := fun _ j _ hf => hf.congr (by rw [segments]) (by rw [settings]) (congrFun derives j)
    gatesWhole := fun w j => by
      unfold State.gate
      rw [gates, settings]
      exact w j
    tables := fun w => by
      unfold State.TablesWhole
      rw [settings, store]
      exact w
    images := fun _ _ _ _ hf => recomposeSign_keepsImage s hf
    marks := fun _ => marks_recomposeSign s k
    tells := fun _ _ => .of_silent (bs := []) (by simp) (congrArg (fun u => u.retained.clock) hx)
      (congrArg recordsOf (recomposeSign_line s k)) segments gates }

/-- Signs recomposed in the order given: those, and those that did, show what their sources give. -/
theorem recomposeAll_images (js marked : List Nat) (s : State) {j : Nat} (h : j ∈ js ∨ s.ImageFollows j) :
    (State.recomposeAll js marked s).1.ImageFollows j := by
  induction js generalizing s marked with
  | nil => exact h.resolve_left List.not_mem_nil
  | cons k js ih =>
    unfold State.recomposeAll
    refine ih _ _ ?_
    rcases h with h | h
    · rcases List.mem_cons.mp h with rfl | h
      · exact Or.inr (recomposeSign_follows s j)
      · exact Or.inl h
    · exact Or.inr (recomposeSign_keepsImage s h)

theorem recomposeAll_sources (js marked : List Nat) (s : State) :
    ∃ x, sources (State.recomposeAll js marked s).1 = sources (s.withComposer { s.composer with signs := x }) := by
  induction js generalizing s marked with
  | nil => exact ⟨s.composer.signs, rfl⟩
  | cons k js ih =>
    obtain ⟨x, hx⟩ := recomposeSign_sources s k
    obtain ⟨y, hy⟩ := ih (if (s.recomposeSign k).2 then marked ++ [k] else marked) (s.recomposeSign k).1
    refine ⟨y, hy.trans ?_⟩
    exact congrArg (fun u : State => u.withComposer { u.composer with signs := y }) hx

theorem recompose_sources (s : State) (js : List Nat) :
    ∃ x, sources (s.recompose js) = sources (s.withComposer { s.composer with signs := x }) := by
  obtain ⟨x, hx⟩ := recomposeAll_sources js [] s
  exact ⟨x, (beside_handMarks _ _).sources.trans hx⟩

theorem recompose_segments (s : State) (js : List Nat) : (s.recompose js).segments = s.segments := by
  obtain ⟨x, hx⟩ := recompose_sources s js
  exact congrArg (fun u => u.segments) hx

theorem recompose_gates (s : State) (js : List Nat) : (s.recompose js).gates = s.gates := by
  obtain ⟨x, hx⟩ := recompose_sources s js
  exact congrArg (fun u => u.gates) hx

theorem recompose_settings (s : State) (js : List Nat) : (s.recompose js).settings = s.settings :=
  (reaction_recompose s js).settings

theorem recompose_images (s : State) (js : List Nat) {j : Nat} (h : j ∈ js ∨ s.ImageFollows j) :
    (s.recompose js).ImageFollows j := by
  have beside := beside_handMarks (State.recomposeAll js [] s).1 (State.recomposeAll js [] s).2
  exact imageFollows_congr (congrArg (lookup · j) beside.signRecords) (beside.sign j)
    (fun r c _ _ => congrFun (congrFun (congrFun beside.compose j) r) c.front) (recomposeAll_images js [] s h)

theorem unsettles_recompose (s : State) (js : List Nat) : Unsettles g [] [] s (s.recompose js) := by
  have all : ∀ (js marked : List Nat) (u : State), Unsettles g [] [] u (State.recomposeAll js marked u).1 := by
    intro js
    induction js with
    | nil => exact fun _ u => .refl u
    | cons k js ih =>
      intro marked u
      unfold State.recomposeAll
      exact (unsettles_recomposeSign u k).trans (ih _ _)
  exact (all js [] s).beside (beside_handMarks _ _)

/-- Recomposing some signs settles them, and leaves the segments as they are. -/
theorem Unsettles.recompose (h : Unsettles g ks signs s u) {rest : List Nat} (js : List Nat)
    (hj : ∀ j ∈ signs, j ∈ rest ∨ j ∈ js) : Unsettles g ks rest s (u.recompose js) where
  awaits := fun k hk => by
    rw [recompose_segments, recompose_settings]
    exact h.awaits k hk
  derived := fun o k hk hf => (unsettles_recompose u js).derived o k List.not_mem_nil (h.derived o k hk hf)
  gatesWhole := fun w => (unsettles_recompose (g := g) u js).gatesWhole (h.gatesWhole w)
  tables := fun w => (unsettles_recompose (g := g) u js).tables (h.tables w)
  images := fun o w j hr hf => by
    by_cases hm : j ∈ js
    · exact recompose_images u js (Or.inl hm)
    · exact recompose_images u js (Or.inr (h.images o w j (fun hs => (hj j hs).elim hr hm) hf))
  marks := fun c => (h.marks c).trans ((unsettles_recompose u js).marks c)
  tells := fun w c => (h.tells w c).trans ((unsettles_recompose u js).tells w c)

/-- An evaluation settles the segments, with the signs of the state changes (R94 to R97). -/
theorem Unsettles.evaluate (h : Unsettles g ks signs s u) : Unsettles g [] signs s (u.evaluate ks).1 := by
  rw [evaluate_eq]
  exact h.derivedAnew.recompose _ fun j hj => List.mem_append.mp hj

end Sys2Proof.Proofs
end

section
/-! SUPPORT. Gates moved and tells answered (R96, R111 to R113, R132). A gate's segment and approach signs are all that read
its state; `Keeps` says that all follows its sources that did, the gates with the tells in force among it. -/

namespace Sys2Proof.Proofs

open Sys2Proof Sys2Proof.Machine Sys2Proof.Laws Sys2Proof.Claims

variable {g : Terms} {ks signs : List Nat} {s t u : State}

/-! ## One gate replaced -/

/-- Two gate states that are the same state differ in raise kind or stop cause at most. -/
theorem sameState_cases {p q : GatePosition} (h : p.sameState q = true) : p = q ∨
    (∃ a b, p = .raising a ∧ q = .raising b) ∨ ∃ a b, p = .stopped a ∧ q = .stopped b := by
  cases p <;> cases q <;> simp [GatePosition.sameState, GatePosition.code] at h ⊢

/-- Two gate states that are the same state are one to every reader. -/
theorem sameState_reads {p q : GatePosition} (h : p.sameState q = true) :
    entryClass p = entryClass q ∧ (p = .warning ↔ q = .warning) ∧ (p = .lowering ↔ q = .lowering) := by
  rcases sameState_cases h with rfl | ⟨a, b, rfl, rfl⟩ | ⟨a, b, rfl, rfl⟩
  · exact ⟨rfl, Iff.rfl, Iff.rfl⟩
  · exact ⟨rfl, by simp, by simp⟩
  · exact ⟨rfl, by simp, by simp⟩

/-- The entry gates of a segment are as they were, where the gate replaced is none of them or keeps its class. -/
theorem entryPositions_withGate {k x : Nat} {r : GateRecord} {old : GateState} (new : GateState)
    (hr : lookup s.settings.gates k = some r) (ho : s.gate k = some old)
    (h : x ≠ r.segment ∨ entryClass old.position = entryClass new.position) :
    ((s.withGate k (some new)).entryPositions x).map entryClass = (s.entryPositions x).map entryClass := by
  unfold State.entryPositions
  rw [List.map_filterMap, List.map_filterMap]
  refine List.filterMap_congr fun i hi => ?_
  obtain ⟨q, hq, hx⟩ := mem_entryGates.mp hi
  by_cases hik : i = k
  · subst hik
    obtain rfl := Option.some.inj (hr.symm.trans hq)
    have bounds := lookup_bounds _ ho
    have before : lookup s.gates i = some old := ho
    have after : lookup (s.withGate i (some new)).gates i = some new :=
      lookup_putItem_self s.gates _ bounds.1 bounds.2
    rw [before, after]
    exact congrArg some (h.resolve_left (not_not.mpr hx.symm)).symm
  · have other : lookup (s.withGate k (some new)).gates i = lookup s.gates i := lookup_putItem_ne s.gates _ hik
    rw [other]

/-- The guarded segments of a sign are as they were, where the gate replaced does not name it or stands or does not stand
in the state as before. -/
theorem guardedBy_withGate {k j : Nat} {p : GatePosition} {r : GateRecord} {old : GateState} (new : GateState)
    (hr : lookup s.settings.gates k = some r) (ho : s.gate k = some old)
    (h : j ∉ r.approach ∨ (old.position = p ↔ new.position = p)) :
    (s.withGate k (some new)).guardedBy j p = s.guardedBy j p := by
  unfold State.guardedBy
  refine List.filterMap_congr fun i hi => ?_
  obtain ⟨q, hq, hj⟩ := mem_approached.mp hi
  by_cases hik : i = k
  · subst hik
    obtain rfl := Option.some.inj (hr.symm.trans hq)
    have bounds := lookup_bounds _ ho
    have before : lookup s.gates i = some old := ho
    have after : lookup (s.withGate i (some new)).gates i = some new :=
      lookup_putItem_self s.gates _ bounds.1 bounds.2
    have record : lookup (s.withGate i (some new)).settings.gates i = some r := hr
    rw [before, after, hr, record]
    dsimp only
    rw [if_congr (h.resolve_left (not_not.mpr hj)) rfl rfl]
  · have other : lookup (s.withGate k (some new)).gates i = lookup s.gates i := lookup_putItem_ne s.gates _ hik
    rw [other]
    rfl

/-- A gate takes a new state, reported where state or stop cause changed (R132). -/
def movedGate (k : Nat) (cause : GateCause) (old new : GateState) (s : State) : State :=
  if old.position = new.position then s.withGate k (some new)
  else (s.withGate k (some new)).report (.gate k (some old.position) (some new.position) new.reversals cause)

theorem changeGateWith_eq {f : GateRecord → State → State} {k : Nat} {r : GateRecord} {old : GateState} (c : GateCause)
    (new : GateState) (hr : lookup s.settings.gates k = some r) (ho : s.gate k = some old) :
    s.changeGateWith f k c new = if old.position.sameState new.position then movedGate k c old new s
      else f r ((movedGate k c old new s).applyOrder (r.order new.position)) := by
  unfold State.changeGateWith
  rw [hr, ho]
  rfl

theorem movedGate_sources (k : Nat) (c : GateCause) (old new : GateState) (s : State) :
    sources (movedGate k c old new s) = sources (s.withGate k (some new)) := by
  unfold movedGate
  split <;> rfl

theorem movedGate_store (k : Nat) (c : GateCause) (old new : GateState) (s : State) :
    (movedGate k c old new s).store = s.store := by
  unfold movedGate
  split <;> rfl

theorem tells_movedGate {k : Nat} (c : GateCause) {old : GateState} (new : GateState) (ho : s.gate k = some old) :
    Tells s (movedGate k c old new s) := by
  have bounds := lookup_bounds _ ho
  have segments : (movedGate k c old new s).segments = s.segments :=
    congrArg (fun u => u.segments) (movedGate_sources k c old new s)
  have gates : ∀ j, (movedGate k c old new s).gate j = lookup (putItem s.gates k (some new)) j := fun j =>
    congrArg (fun u : State => lookup u.gates j) (movedGate_sources k c old new s)
  by_cases same : old.position = new.position
  · have moved : movedGate k c old new s = s.withGate k (some new) := if_pos same
    refine .of_reports (bs := []) (by rw [moved]; rfl) (by rw [moved]; rfl) (fun j => by rw [segments]; rfl) fun j => ?_
    rw [gates]
    by_cases hj : j = k
    · rw [hj, lookup_putItem_self s.gates _ bounds.1 bounds.2, ho]
      exact congrArg some same
    · rw [lookup_putItem_ne s.gates _ hj]
      rfl
  · have moved : movedGate k c old new s = (s.withGate k (some new)).report
        (.gate k (some old.position) (some new.position) new.reversals c) := if_neg same
    refine .of_reports (bs := [.gate k (some old.position) (some new.position) new.reversals c]) (by rw [moved]; rfl)
      (by rw [moved]; rfl) (fun j => ?_) fun j => ?_
    · rw [segments]
      exact leads_silent fun b hb => by
        obtain rfl := List.mem_singleton.mp hb
        rfl
    · rw [gates]
      by_cases hj : j = k
      · rw [hj, lookup_putItem_self s.gates _ bounds.1 bounds.2, ho]
        exact leads_one (if_pos rfl) fun h => same (Option.some.inj h)
      · rw [lookup_putItem_ne s.gates _ hj]
        exact leads_silent fun b hb => by
          obtain rfl := List.mem_singleton.mp hb
          exact if_neg (Ne.symm hj)

/-- A gate moved leaves its segment and its approach signs to be derived anew; and where the state is the same, nothing. -/
theorem unsettles_movedGate {k : Nat} {r : GateRecord} {old : GateState} (c : GateCause) (new : GateState)
    (hr : lookup s.settings.gates k = some r) (ho : s.gate k = some old)
    (h : (r.segment ∈ ks ∧ ∀ j ∈ ascending 16 r.approach, j ∈ signs) ∨ old.position.sameState new.position = true) :
    Unsettles g ks signs s (movedGate k c old new s) := by
  have sourced := movedGate_sources k c old new s
  have store := movedGate_store k c old new s
  have settings : (movedGate k c old new s).settings = s.settings := congrArg SettingsStore.working store
  have segments : (movedGate k c old new s).segments = s.segments := congrArg (fun u => u.segments) sourced
  have composer : (movedGate k c old new s).composer = s.composer := congrArg (fun u => u.composer) sourced
  refine ⟨fun x _ => ⟨by rw [segments], by rw [settings]⟩, fun _ x hx hf => ?_, fun w x => ?_, fun w => ?_,
    fun _ _ j hj hf => ?_, fun _ => .of_signs (congrArg SignComposer.signs composer), fun _ _ => tells_movedGate c new ho⟩
  · refine hf.congr (by rw [segments]) (by rw [settings]) ?_
    rw [deriveSegment_sources, sourced, ← deriveSegment_sources]
    have away : x ≠ r.segment ∨ entryClass old.position = entryClass new.position :=
      h.imp (fun ⟨hm, _⟩ e => hx (e ▸ hm)) fun same => (sameState_reads same).1
    have road : SameRoad s (s.withGate k (some new)) x := ⟨rfl, rfl, rfl, entryPositions_withGate new hr ho away⟩
    exact funext road.deriveSegment
  · have gate : (movedGate k c old new s).gate x = lookup (putItem s.gates k (some new)) x :=
      congrArg (fun u : State => lookup u.gates x) sourced
    rw [gate, settings]
    by_cases hxk : x = k
    · subst hxk
      have bounds := lookup_bounds _ ho
      rw [lookup_putItem_self s.gates _ bounds.1 bounds.2, hr]
      rfl
    · rw [lookup_putItem_ne s.gates _ hxk]
      exact w x
  · unfold State.TablesWhole
    rw [settings, store]
    exact w
  · refine imageFollows_congr (by rw [settings]) (congrArg (fun c : SignComposer => lookup c.signs j) composer)
      (fun q d hq _ => ?_) hf
    have bounds := lookup_bounds _ hq
    have away : j ∉ r.approach ∨ old.position.sameState new.position = true := h.imp_left fun ⟨_, named⟩ hm =>
      hj (named j (mem_ascending.mpr ⟨bounds, hm⟩))
    rw [compose_sources, sourced, ← compose_sources]
    have view : SameView s (s.withGate k (some new)) j q := by
      refine ⟨closureSegment_congr ?_ ?_ fun _ _ => rfl, fun _ _ => ⟨rfl, rfl⟩, rfl, rfl, rfl, rfl⟩
      · exact guardedBy_withGate new hr ho (away.imp_right fun same => (sameState_reads same).2.1)
      · exact guardedBy_withGate new hr ho (away.imp_right fun same => (sameState_reads same).2.2)
    exact view.compose _

/-- A gate taking a new state leaves what its hand-over leaves (R132). -/
theorem unsettles_changeGateWith {f : GateRecord → State → State} (k : Nat) (c : GateCause) (new : GateState)
    (hf : ∀ r w, Unsettles g [r.segment] (ascending 16 r.approach) s w → Unsettles g [] [] s (f r w)) :
    Unsettles g [] [] s (s.changeGateWith f k c new) := by
  cases hr : lookup s.settings.gates k with
  | none =>
    unfold State.changeGateWith
    rw [hr]
    exact .refl s
  | some r =>
    cases ho : s.gate k with
    | none =>
      unfold State.changeGateWith
      rw [hr, ho]
      exact .refl s
    | some old =>
      rw [changeGateWith_eq c new hr ho]
      split
      · rename_i same
        exact unsettles_movedGate c new hr ho (Or.inr same)
      · exact hf r _ ((unsettles_movedGate c new hr ho
          (Or.inl ⟨List.mem_singleton_self _, fun _ h => h⟩)).beside (beside_applyOrder _ _))

/-! ## Tells answered (R112, R113) -/

theorem unsettles_changeQuiet (s : State) (k : Nat) (c : GateCause) (new : GateState) :
    Unsettles g [] [] s (s.changeGateWith handOnQuiet k c new) :=
  unsettles_changeGateWith k c new fun _ _ h => h.evaluate.recompose _ fun _ hj => Or.inr hj

theorem unsettles_answerTell (s : State) (x : Nat × Bool) : Unsettles g [] [] s (s.answerTell x) := by
  unfold State.answerTell
  split
  · split
    · exact unsettles_changeQuiet s _ _ _
    · exact unsettles_changeQuiet s _ _ _
    · exact .refl s
  · exact .refl s

theorem unsettles_answerTells (s : State) (xs : List (Nat × Bool)) : Unsettles g [] [] s (s.answerTells xs) :=
  keep_foldl (P := Unsettles g [] [] s) (fun u x h => h.trans (unsettles_answerTell u x)) xs s (.refl s)

theorem handOver_eq (s : State) (ks signs : List Nat) : s.handOver ks signs =
    ((s.evaluate ks).1.recompose signs).answerTells (s.evaluate ks).2 := by
  unfold State.handOver
  dsimp only
  split <;> rfl

/-- A hand-over settles the segments and signs it is given (R94 to R97). -/
theorem Unsettles.handOver (h : Unsettles g ks signs s u) : Unsettles g [] [] s (u.handOver ks signs) := by
  rw [handOver_eq]
  exact (h.evaluate.recompose _ fun _ hj => Or.inr hj).trans (unsettles_answerTells _ _)

/-! ## Gates and the closure in force -/

/-- A gate state fits a closure in force, or none: it is not UP under one, nor in WARNING without one. -/
def Fits (cif : Bool) (p : GatePosition) : Prop := (p = .up → cif = false) ∧ (p = .warning → cif = true)

/-- A gate's state fits the closure in force of its segment. -/
def GateFollows (s : State) (k : Nat) : Prop :=
  ∀ r g, lookup s.settings.gates k = some r → s.gate k = some g → Fits (s.cif r.segment) g.position

theorem gatesFollow_iff (s : State) : s.GatesFollow ↔ ∀ k, GateFollows s k := Iff.rfl

/-- The closure in force of a segment that follows its sources is that of the list (R89). -/
theorem cif_of_follows {k : Nat} (h : SegmentFollows s k) :
    s.cif k = ((lookup s.settings.segments k).isSome && (s.governing .closure k).isSome) := by
  unfold State.cif
  rw [h]
  cases lookup s.settings.segments k with
  | none => rfl
  | some r => exact Option.isSome_map

/-- Reactions between states whose segments follow their sources change no closure in force. -/
theorem cif_of_reaction (h : Reaction s t) {k : Nat} (hs : SegmentFollows s k) (ht : SegmentFollows t k) :
    t.cif k = s.cif k := by
  have list : t.governing .closure k = s.governing .closure k :=
    congrArg (fun x : Retained => earliest (x.notices.filter (Notice.covers .closure k))) h.retained
  rw [cif_of_follows hs, cif_of_follows ht, h.settings, list]

theorem evaluate_gates (s : State) (ks : List Nat) : (s.evaluate ks).1.gates = s.gates := by
  rw [evaluate_eq]
  exact (recompose_gates _ _).trans (gates_derivedAnew ks s)

/-- Of the gates an answer changes the one told, to the state of the answer. -/
theorem changeQuiet_gates {k : Nat} {r : GateRecord} {old : GateState} (c : GateCause) (new : GateState)
    (hr : lookup s.settings.gates k = some r) (ho : s.gate k = some old) :
    (s.changeGateWith handOnQuiet k c new).gates = putItem s.gates k (some new) := by
  have moved : (movedGate k c old new s).gates = putItem s.gates k (some new) :=
    congrArg (fun u => u.gates) (movedGate_sources k c old new s)
  rw [changeGateWith_eq c new hr ho]
  split
  · exact moved
  · exact (recompose_gates _ _).trans ((evaluate_gates _ _).trans moved)

/-- What a gate becomes when it is told (R112, R113). -/
theorem answerTell_gate (s : State) (x : Nat × Bool) (j : Nat) : (s.answerTell x).gate j = s.gate j ∨
    (j = x.1 ∧ ∃ h, (s.answerTell x).gate j = some h ∧ ((x.2 = true ∧ h.position = .warning) ∨
      (x.2 = false ∧ h.position = .up))) := by
  have answered : ∀ {r old c new}, lookup s.settings.gates x.1 = some r → s.gate x.1 = some old →
      (s.changeGateWith handOnQuiet x.1 c new).gate j = s.gate j ∨
        (j = x.1 ∧ (s.changeGateWith handOnQuiet x.1 c new).gate j = some new) := by
    intro r old c new hr ho
    unfold State.gate
    rw [changeQuiet_gates c new hr ho]
    by_cases hj : j = x.1
    · have bounds := lookup_bounds _ ho
      subst hj
      exact Or.inr ⟨rfl, lookup_putItem_self s.gates _ bounds.1 bounds.2⟩
    · exact Or.inl (lookup_putItem_ne s.gates _ hj)
  unfold State.answerTell
  split
  · rename_i hr ho
    split
    · rename_i hb
      exact (answered hr ho).imp_right fun ⟨hj, hg⟩ => ⟨hj, _, hg, Or.inl ⟨hb, rfl⟩⟩
    · rename_i hb
      exact (answered hr ho).imp_right fun ⟨hj, hg⟩ => ⟨hj, _, hg, Or.inr ⟨hb, rfl⟩⟩
    · exact Or.inl rfl
  · exact Or.inl rfl

/-- A gate that has been told the closure in force fits it. -/
theorem answerTell_fits {j : Nat} {b : Bool} {r : GateRecord} {h : GateState}
    (hr : lookup s.settings.gates j = some r) (hh : (s.answerTell (j, b)).gate j = some h) : Fits b h.position := by
  have other : ∀ p : GatePosition, ¬ (p = .up ∧ b = true) → ¬ (p = .warning ∧ b = false) → Fits b p := by
    intro p hu hw
    exact ⟨fun e => Bool.eq_false_iff.mpr fun hb => hu ⟨e, hb⟩, fun e => by simpa [e] using hw⟩
  cases ho : s.gate j with
  | none =>
    rcases answerTell_gate s (j, b) j with same | ⟨-, h', hg, hp⟩
    · rw [same, ho] at hh
      cases hh
    · obtain rfl := Option.some.inj (hg.symm.trans hh)
      rcases hp with ⟨rfl, hp⟩ | ⟨rfl, hp⟩ <;> simp [Fits, hp]
  | some old =>
    have bounds := lookup_bounds _ ho
    have put : ∀ c new, (s.changeGateWith handOnQuiet j c new).gate j = some new := fun c new => by
      unfold State.gate
      rw [changeQuiet_gates c new hr ho]
      exact lookup_putItem_self s.gates _ bounds.1 bounds.2
    unfold State.answerTell at hh
    simp only [hr, ho] at hh
    split at hh
    · rw [put] at hh
      cases hh
      simp [Fits, GateState.resting]
    · rw [put] at hh
      cases hh
      simp [Fits, GateState.resting]
    · rename_i hup hwarn
      rw [ho] at hh
      cases hh
      exact other _ (fun ⟨e, hb⟩ => hup e hb) fun ⟨e, hb⟩ => hwarn e hb

end Sys2Proof.Proofs
end

section
/-! SUPPORT. Hand-overs settle the gates too (R96, R111 to R113, R132), and what a whole operation keeps: `Keeps`. -/

namespace Sys2Proof.Proofs

open Sys2Proof Sys2Proof.Machine Sys2Proof.Laws Sys2Proof.Claims

variable {g : Terms} {ks signs : List Nat} {s t u : State}

/-! ## Hand-overs and gates -/

/-- Gates that are told the closures in force fit them once all have answered. -/
theorem answerTells_gates (xs : List (Nat × Bool)) (s : State) (hs : s.SegmentsFollow)
    (hx : ∀ x ∈ xs, ∀ r, lookup s.settings.gates x.1 = some r → x.2 = s.cif r.segment)
    (hg : ∀ j, GateFollows s j ∨ j ∈ xs.map Prod.fst) : (s.answerTells xs).GatesFollow := by
  induction xs generalizing s with
  | nil => exact fun j => (hg j).resolve_right List.not_mem_nil
  | cons x xs ih =>
    have reaction : Reaction s (s.answerTell x) := reaction_answerTell s x
    have follows : (s.answerTell x).SegmentsFollow := fun k =>
      (unsettles_answerTell (g := ⟨True, False, False, False⟩) s x).derived trivial k List.not_mem_nil (hs k)
    have cif : ∀ k, (s.answerTell x).cif k = s.cif k := fun k => cif_of_reaction reaction (hs k) (follows k)
    refine ih (s.answerTell x) follows (fun y hy r hr => ?_) fun j => ?_
    · rw [reaction.settings] at hr
      rw [cif]
      exact hx y (List.mem_cons_of_mem x hy) r hr
    · by_cases hj : j = x.1
      · refine Or.inl fun r h hr hh => ?_
        rw [reaction.settings] at hr
        rw [cif, ← hx x List.mem_cons_self r (hj ▸ hr)]
        exact answerTell_fits (b := x.2) hr (hj ▸ hh)
      · have same := (answerTell_gate s x j).resolve_right fun h => hj h.1
        refine (hg j).imp (fun hf r h hr hh => ?_) fun hm => (List.mem_cons.mp hm).resolve_left hj
        rw [reaction.settings] at hr
        rw [cif]
        exact hf r h hr (same ▸ hh)

/-- A segment that was derived is in force closed as it was derived. -/
theorem cif_rederived {d : Rederived} (hd : d ∈ s.rederive (ascending 8 ks)) :
    (derivedAnew ks s).cif d.segment = d.after.toldCif := by
  obtain ⟨hm, r, hr, hs, ha⟩ := mem_rederive.mp hd
  have follows := derivedAnew_follows (ks := ks) (u := s) (Or.inl (mem_ascending.mp hm).2) (by rw [hr, hs]; rfl)
  unfold SegmentFollows at follows
  rw [settings_derivedAnew, deriveSegment_derivedAnew, hr] at follows
  unfold State.cif
  rw [follows, ha]
  rfl

/-- After a derivation the gates that do not fit the closure in force of their segment are told. -/
theorem derivedAnew_gate (hd : ∀ k d, lookup s.segments k = some d → d.toldCif = d.closure.isSome) {j : Nat}
    (h : GateFollows s j) : GateFollows (derivedAnew ks s) j ∨
      j ∈ ((s.rederive (ascending 8 ks)).flatMap s.settings.cifTells).map Prod.fst := by
  cases hr : lookup s.settings.gates j with
  | none =>
    refine Or.inl fun r _ hr' => ?_
    rw [settings_derivedAnew, hr] at hr'
    cases hr'
  | some r =>
    have kept : (derivedAnew ks s).cif r.segment = s.cif r.segment → GateFollows (derivedAnew ks s) j := by
      intro cif r' h' hr' hh'
      rw [settings_derivedAnew, hr] at hr'
      cases hr'
      rw [cif]
      unfold State.gate at hh'
      rw [gates_derivedAnew] at hh'
      exact h r h' hr hh'
    rcases derivedAnew_segment ks s r.segment with ⟨-, same⟩ | ⟨d, hm, hseg, before, -⟩
    · exact Or.inl (kept (by unfold State.cif; rw [same]))
    · have now : s.cif r.segment = d.before.toldCif := by
        unfold State.cif
        rw [before, hd _ _ before]
      by_cases same : d.before.toldCif = d.after.toldCif
      · refine Or.inl (kept ?_)
        rw [now, same, ← cif_rederived hm, hseg]
      · refine Or.inr (List.mem_map.mpr ⟨(j, d.after.toldCif), List.mem_flatMap.mpr ⟨d, hm, ?_⟩, rfl⟩)
        unfold Settings.cifTells
        rw [if_neg same]
        exact List.mem_map.mpr ⟨j, mem_entryGates.mpr ⟨r, hr, hseg.symm⟩, rfl⟩

/-- A hand-over leaves every gate with the closure in force of its segment, where it finds them so. -/
theorem handOver_gates (signs : List Nat) (hf : ∀ k, k ∉ ks → SegmentFollows s k)
    (hs : ∀ k, (lookup s.segments k).isSome = (lookup s.settings.segments k).isSome)
    (hd : ∀ k d, lookup s.segments k = some d → d.toldCif = d.closure.isSome) (hg : s.GatesFollow) :
    (s.handOver ks signs).GatesFollow := by
  rw [handOver_eq, evaluate_eq]
  dsimp only
  have derived : (derivedAnew ks s).SegmentsFollow := fun k => by
    by_cases hk : k ∈ ks
    · exact derivedAnew_follows (Or.inl hk) (hs k)
    · exact derivedAnew_follows (Or.inr (hf k hk)) (hs k)
  have settings : ∀ js, (((derivedAnew ks s).recompose js).recompose signs).settings = s.settings := fun js =>
    (recompose_settings _ _).trans ((recompose_settings _ _).trans (settings_derivedAnew ks s))
  have follows : ∀ js, (((derivedAnew ks s).recompose js).recompose signs).SegmentsFollow := fun js k =>
    ((unsettles_recompose (g := ⟨True, False, False, False⟩) _ js).trans (unsettles_recompose _ signs)).derived trivial k
      List.not_mem_nil (derived k)
  have segments : ∀ js, (((derivedAnew ks s).recompose js).recompose signs).segments = (derivedAnew ks s).segments :=
    fun js => (recompose_segments _ _).trans (recompose_segments _ _)
  have gates : ∀ js, (((derivedAnew ks s).recompose js).recompose signs).gates = (derivedAnew ks s).gates :=
    fun js => (recompose_gates _ _).trans (recompose_gates _ _)
  have cif : ∀ js k, (((derivedAnew ks s).recompose js).recompose signs).cif k = (derivedAnew ks s).cif k :=
    fun js k => by
      unfold State.cif
      rw [segments]
  refine answerTells_gates _ _ (follows _) (fun x hx r hr => ?_) fun j => ?_
  · obtain ⟨d, hm, hx⟩ := List.mem_flatMap.mp hx
    unfold Settings.cifTells at hx
    split at hx
    · cases hx
    · obtain ⟨i, hi, rfl⟩ := List.mem_map.mp hx
      obtain ⟨q, hq, hseg⟩ := mem_entryGates.mp hi
      rw [settings, hq] at hr
      cases hr
      rw [cif, hseg, cif_rederived hm]
  · refine (derivedAnew_gate hd (hg j)).imp_left fun h r x hr hx => ?_
    rw [settings, ← settings_derivedAnew ks s] at hr
    unfold State.gate at hx
    rw [gates] at hx
    rw [cif]
    exact h r x hr hx

/-! ## What an operation keeps -/

/-- `Unsettles`, with the gates: they fit the closures in force that they have been told. -/
structure Upsets (g : Terms) (ks signs : List Nat) (s u : State) : Prop extends Unsettles g ks signs s u where
  gates : g.once → s.TablesWhole → s.SegmentsFollow → s.GatesFollow → u.GatesFollow

/-- An operation after which all follows its sources that did before it. -/
abbrev Keeps (g : Terms) (s t : State) : Prop := Upsets g [] [] s t

/-- A hand-over settles what awaits it. -/
theorem Upsets.handOver (h : Upsets g ks signs s u) : Keeps g s (u.handOver ks signs) where
  toUnsettles := h.toUnsettles.handOver
  gates := fun o w hs hg => by
    have derived : ∀ k, k ∉ ks → SegmentFollows u k := fun k hk => h.derived o k hk (hs k)
    refine handOver_gates signs derived (fun k => ?_) (fun k d hd => ?_) (h.gates o w hs hg)
    · by_cases hk : k ∈ ks
      · obtain ⟨segment, record⟩ := h.awaits k hk
        rw [segment, record]
        exact SegmentFollows.stands (hs k)
      · exact (derived k hk).stands
    · have toldOf : ∀ {v : State}, SegmentFollows v k → lookup v.segments k = some d → d.toldCif = d.closure.isSome := by
        intro v hv hd
        rw [hv] at hd
        obtain ⟨r, -, rfl⟩ := Option.map_eq_some_iff.mp hd
        rfl
      by_cases hk : k ∈ ks
      · exact toldOf (hs k) ((h.awaits k hk).1 ▸ hd)
      · exact toldOf (derived k hk) hd

theorem Keeps.segmentsFollow (h : Keeps g s t) (o : g.once) (hs : s.SegmentsFollow) : t.SegmentsFollow := fun k =>
  h.derived o k List.not_mem_nil (hs k)

theorem Beside.keeps (h : Beside s t) : Keeps g s t where
  toUnsettles := h.unsettles
  gates := fun _ _ _ hg k r x hr hx => by
    rw [h.cif]
    rw [h.gateRecords] at hr
    rw [h.gate] at hx
    exact hg k r x hr hx

theorem Keeps.refl (s : State) : Keeps g s s := (Beside.refl s).keeps

theorem Keeps.upsets (h : Keeps g s t) (k : Upsets g ks signs t u)
    (hk : ∀ k ∈ ks, lookup t.segments k = lookup s.segments k ∧
      (lookup t.settings.segments k).isSome = (lookup s.settings.segments k).isSome) : Upsets g ks signs s u where
  toUnsettles := h.toUnsettles.after k.toUnsettles hk
  gates := fun o w hs hg => k.gates o (h.tables w) (h.segmentsFollow o hs) (h.gates o w hs hg)

theorem Keeps.trans (h : Keeps g s t) (k : Keeps g t u) : Keeps g s u := Keeps.upsets h k (by simp)

theorem Keeps.foldl {α : Type} {f : State → α → State} (hf : ∀ s x, Keeps g s (f s x)) (xs : List α) (s : State) :
    Keeps g s (xs.foldl f s) :=
  keep_foldl (P := Keeps g s) (fun u x h => h.trans (hf u x)) xs s (.refl s)

theorem Keeps.ite {c : Prop} [Decidable c] (ht : c → Keeps g s t) (hu : ¬ c → Keeps g s u) :
    Keeps g s (if c then t else u) := by
  split
  · exact ht ‹_›
  · exact hu ‹_›

theorem Upsets.beside (h : Upsets g ks signs s t) (k : Beside t u) : Upsets g ks signs s u where
  toUnsettles := h.toUnsettles.beside k
  gates := fun o w hs hg => by
    intro j r x hr hx
    rw [k.cif]
    rw [k.gateRecords] at hr
    rw [k.gate] at hx
    exact h.gates o w hs hg j r x hr hx

/-- What operations beside the sources come before leaves what it leaves after them. -/
theorem Beside.upsets (h : Beside s t) (k : Upsets g ks signs t u) : Upsets g ks signs s u :=
  Keeps.upsets h.keeps k fun _ _ => ⟨by rw [h.segments], by rw [h.segmentRecords]⟩

/-- Signs alone await, and are recomposed. -/
theorem Upsets.recompose (h : Upsets g [] signs s u) : Keeps g s (u.recompose signs) where
  toUnsettles := h.toUnsettles.recompose signs fun _ hj => Or.inr hj
  gates := fun o w hs hg j r x hr hx => by
    unfold State.gate at hx
    unfold State.cif
    rw [recompose_settings] at hr
    rw [recompose_gates] at hx
    rw [recompose_segments]
    exact h.gates o w hs hg j r x hr hx

end Sys2Proof.Proofs
end

section
/-! SUPPORT. Gates that take new states, gates that review their holds, and the settling of the blocks (R110 to R128, R132,
R173): nothing is left to be derived anew. -/

namespace Sys2Proof.Proofs

open Sys2Proof Sys2Proof.Machine Sys2Proof.Laws Sys2Proof.Claims

variable {g : Terms} {ks signs : List Nat}

/-! ## A gate takes a new state (R132) -/

/-- Neither UP nor in WARNING a gate fits any closure in force. -/
theorem fits_away {cif : Bool} {p : GatePosition} (hu : p ≠ .up) (hw : p ≠ .warning) : Fits cif p :=
  ⟨fun h => absurd h hu, fun h => absurd h hw⟩

/-- The state that a gate's lines give it fits the closure in force (R111). -/
theorem fits_derivedPosition (key up down cif : Bool) : Fits cif (derivedPosition key up down cif) := by
  unfold derivedPosition Fits
  cases key with
  | true => simp
  | false => cases up <;> cases down <;> cases cif <;> simp

theorem upsets_movedGate {s : State} {k : Nat} {r : GateRecord} {old : GateState} (c : GateCause) (new : GateState)
    (hr : lookup s.settings.gates k = some r) (ho : s.gate k = some old)
    (h : (r.segment ∈ ks ∧ ∀ j ∈ ascending 16 r.approach, j ∈ signs) ∨ old.position.sameState new.position = true)
    (hf : s.GatesFollow → Fits (s.cif r.segment) new.position) : Upsets g ks signs s (movedGate k c old new s) where
  toUnsettles := unsettles_movedGate c new hr ho h
  gates := fun _ _ _ hg j q x hq hx => by
    have sourced := movedGate_sources k c old new s
    have cif : (movedGate k c old new s).cif = s.cif := by
      rw [cif_sources, sourced]
      rfl
    have settings : (movedGate k c old new s).settings = s.settings :=
      congrArg SettingsStore.working (movedGate_store k c old new s)
    have gate : (movedGate k c old new s).gate j = lookup (putItem s.gates k (some new)) j :=
      congrArg (fun u : State => lookup u.gates j) sourced
    rw [cif]
    rw [settings] at hq
    rw [gate] at hx
    by_cases hj : j = k
    · subst hj
      have bounds := lookup_bounds _ ho
      rw [lookup_putItem_self s.gates _ bounds.1 bounds.2] at hx
      obtain rfl := Option.some.inj hx
      obtain rfl := Option.some.inj (hr.symm.trans hq)
      exact hf hg
    · rw [lookup_putItem_ne s.gates _ hj] at hx
      exact hg j q x hq hx

/-- A gate that fits the closure in force takes its new state. -/
theorem keeps_changeGate (s : State) (k : Nat) (c : GateCause) (new : GateState)
    (hf : ∀ r, lookup s.settings.gates k = some r → Fits (s.cif r.segment) new.position) :
    Keeps g s (s.changeGate k c new) := by
  cases hr : lookup s.settings.gates k with
  | none =>
    unfold State.changeGate State.changeGateWith
    rw [hr]
    exact .refl s
  | some r =>
    cases ho : s.gate k with
    | none =>
      unfold State.changeGate State.changeGateWith
      rw [hr, ho]
      exact .refl s
    | some old =>
      unfold State.changeGate
      rw [changeGateWith_eq c new hr ho]
      split
      · rename_i same
        exact upsets_movedGate c new hr ho (Or.inr same) fun _ => hf r hr
      · have moved : Upsets g [r.segment] (ascending 16 r.approach) s (movedGate k c old new s) :=
          upsets_movedGate c new hr ho (Or.inl ⟨List.mem_singleton_self _, fun _ h => h⟩) fun _ => hf r hr
        exact (moved.beside (beside_applyOrder _ _)).handOver

section
variable (s : State) (k : Nat)

/-- A gate taking a state that is neither UP nor WARNING. -/
theorem keeps_changeAway (c : GateCause) (new : GateState) (hu : new.position ≠ .up) (hw : new.position ≠ .warning) :
    Keeps g s (s.changeGate k c new) := keeps_changeGate s k c new fun _ _ => fits_away hu hw

/-- A gate taking the state its lines give it (R111). -/
theorem keeps_deriveGate (c : GateCause) {r : GateRecord} (hr : lookup s.settings.gates k = some r) :
    Keeps g s (s.changeGate k c (s.deriveGate r)) := by
  refine keeps_changeGate s k c _ fun q hq => ?_
  obtain rfl := Option.some.inj (hr.symm.trans hq)
  exact fits_derivedPosition _ _ _ _

/-! ## Holds (R114 to R117) -/

theorem keeps_loweringTest : Keeps g s (s.loweringTest k) := by
  unfold State.loweringTest
  split
  · exact Keeps.ite (fun _ => keeps_changeAway s k _ _ nofun nofun) fun _ => .refl s
  · exact .refl s

/-- A hold start changes nothing that is derived. -/
theorem keeps_withHold {r : GateRecord} {old : GateState} (hr : lookup s.settings.gates k = some r)
    (ho : s.gate k = some old) (start : Option Nat) :
    Keeps g s (s.withGate k (some { old with holdStart := start })) := by
  have moved : movedGate k .hold old { old with holdStart := start } s =
      s.withGate k (some { old with holdStart := start }) := if_pos rfl
  rw [← moved]
  refine upsets_movedGate _ _ hr ho (Or.inr ?_) fun hg => hg k r old hr ho
  simp [GatePosition.sameState]

theorem keeps_reviewHold : Keeps g s (s.reviewHold k) := by
  unfold State.reviewHold
  split
  · rename_i hr ho
    exact Keeps.ite (fun _ => (keeps_withHold s k hr ho _).trans (keeps_loweringTest _ k)) fun _ => .refl s
  · exact .refl s

theorem keeps_tellSign : Keeps g s (s.tellSign k) := Keeps.foldl keeps_reviewHold _ s

/-! ## Settling -/

theorem keeps_settle : Keeps g s s.settle := by
  have tells : ∀ u : State, Keeps g u u.giveTells := fun u =>
    (beside_withStrings u { u.strings with tells := [] }).keeps.trans (Keeps.foldl keeps_tellSign u.strings.tells _)
  have round : ∀ u : State, Keeps g u u.settleRound := fun u => (tells u).trans (beside_runArbiters _).keeps
  exact ((round s).trans (round _)).trans (round _)

/-! ## Change events of a gate's lines (R119 to R128) -/

theorem keeps_bothSwitches (x : GateState) : Keeps g s (s.bothSwitches k x) :=
  Keeps.ite (fun _ => keeps_changeAway s k _ _ nofun nofun) fun _ => .refl s

theorem keeps_downSwitchRose : Keeps g s (s.downSwitchRose k) := by
  unfold State.downSwitchRose
  split
  · rename_i x _ _
    refine Keeps.ite (fun _ => keeps_bothSwitches s k _) fun _ => ?_
    cases x.position with
    | up | warning | lowering => exact keeps_changeAway s k _ _ nofun nofun
    | raising _ => exact keeps_changeAway s k _ _ nofun nofun
    | stopped cause =>
      cases cause with
      | position | forced => exact keeps_changeAway s k _ _ nofun nofun
      | switches | timeout | obstruction => exact .refl s
    | down | inLocal => exact .refl s
  · exact .refl s

theorem keeps_foundUp {r : GateRecord} (hr : lookup s.settings.gates k = some r) (x : GateState) :
    Keeps g s (s.foundUp k r x) := by
  refine Keeps.ite (fun _ => keeps_changeAway s k _ _ nofun nofun) fun open_ => ?_
  refine keeps_changeGate s k _ _ fun q hq => ?_
  obtain rfl := Option.some.inj (hr.symm.trans hq)
  have fits : Fits (s.cif r.segment) .up := ⟨fun _ => Bool.eq_false_iff.mpr open_, nofun⟩
  exact fits

theorem keeps_upLimit {r : GateRecord} (hr : lookup s.settings.gates k = some r) (x : GateState) (kind : RaiseKind) :
    Keeps g s (s.upLimit k r x kind) := by
  have own : ∀ {p : GatePosition}, Fits (s.cif r.segment) p →
      ∀ q, lookup s.settings.gates k = some q → Fits (s.cif q.segment) p := fun h q hq => by
    obtain rfl := Option.some.inj (hr.symm.trans hq)
    exact h
  unfold State.upLimit
  refine Keeps.ite (fun closed => ?_) fun open_ => ?_
  · cases kind with
    | requested => exact keeps_changeGate s k _ _ (own (p := .warning) ⟨nofun, fun _ => closed⟩)
    | obstruction =>
      exact (keeps_changeGate s k _ _ (own (p := .warning) ⟨nofun, fun _ => closed⟩)).trans (keeps_loweringTest _ k)
  · exact keeps_changeGate s k _ _ (own (p := .up) ⟨fun _ => Bool.eq_false_iff.mpr open_, nofun⟩)

theorem keeps_upSwitchRose : Keeps g s (s.upSwitchRose k) := by
  unfold State.upSwitchRose
  split
  · rename_i r x hr _
    refine Keeps.ite (fun _ => keeps_bothSwitches s k _) fun _ => ?_
    cases x.position with
    | raising kind => exact keeps_upLimit s k hr x kind
    | lowering => exact keeps_changeAway s k _ _ nofun nofun
    | down => exact keeps_foundUp s k hr x
    | stopped cause =>
      cases cause with
      | position | forced => exact keeps_foundUp s k hr x
      | switches | timeout | obstruction => exact .refl s
    | up | warning | inLocal => exact .refl s
  · exact .refl s

theorem keeps_presenceRose : Keeps g s (s.presenceRose k) := by
  unfold State.presenceRose
  split
  · exact Keeps.ite (fun _ => Keeps.ite (fun _ => keeps_changeAway s k _ _ nofun nofun)
      fun _ => keeps_changeAway s k _ _ nofun nofun) fun _ => .refl s
  · exact .refl s

theorem keeps_keyFell : Keeps g s (s.keyFell k) := by
  unfold State.keyFell
  split
  · rename_i r x hr _
    exact Keeps.ite (fun _ => keeps_deriveGate s k _ hr) fun _ => .refl s
  · exact .refl s

theorem keeps_travelExpired : Keeps g s (s.travelExpired k) := by
  unfold State.travelExpired
  split
  · exact keeps_changeAway s k _ _ nofun nofun
  · exact .refl s

theorem keeps_presenceChanged (high : Bool) : Keeps g s (s.presenceChanged k high) := by
  have timed : ∀ o o', Beside s (match o, o' with
      | some (r : GateRecord), some (z : ClearZone) => s.withZone k (z.presence s.now r.clearHold high)
      | _, _ => s) := by
    intro o o'
    split
    · exact beside_withZone s k _
    · exact .refl s
  exact (timed _ _).keeps.trans (Keeps.ite (fun _ => keeps_presenceRose _ k) fun _ => .refl _)

theorem keeps_deliverChange (f : InputFunction) (high : Bool) : Keeps g s (s.deliverChange f high) := by
  cases f with
  | unused | vaneLine _ | vaneOk _ => exact .refl s
  | presence k => exact keeps_presenceChanged s k high
  | upSwitch k => exact Keeps.ite (fun _ => keeps_upSwitchRose s k) fun _ => .refl s
  | downSwitch k => exact Keeps.ite (fun _ => keeps_downSwitchRose s k) fun _ => .refl s
  | key k => exact Keeps.ite (fun _ => keeps_changeAway s k _ _ nofun nofun) fun _ => keeps_keyFell s k
  | counter k =>
    unfold State.deliverChange
    dsimp only
    split
    · exact Keeps.ite (fun _ => (beside_withChannel s k _).keeps) fun _ => .refl s
    · exact .refl s

theorem keeps_acceptChange (line : Nat) (c : Candidate) : Keeps g s (s.acceptChange line c) :=
  (beside_withInput s line _).keeps.trans (keeps_deliverChange _ _ _)

end

end Sys2Proof.Proofs
end

section
/-! SUPPORT. The sources that a command changes before it hands on what they give (R51 to R54, R58, R61 to R63, R70, R74,
R75, R78, R79, R83, R101): notices, figures, paths and the records of segments. Segments and signs that do not read the
change follow their sources as before. -/

namespace Sys2Proof.Proofs

open Sys2Proof Sys2Proof.Machine Sys2Proof.Laws Sys2Proof.Claims

variable {g : Terms} {ks signs : List Nat} {s u : State}

/-! ## Sources revised -/

/-- From `s` to `u` the sources are revised: state records stay, and but for the segments `ks` and the signs `signs` what is
derived from the sources stays too. -/
structure Revises (g : Terms) (ks signs : List Nat) (s u : State) : Prop where
  segments : u.segments = s.segments
  gates : u.gates = s.gates
  composed : u.composer.signs = s.composer.signs
  gateRecords : u.settings.gates = s.settings.gates
  signRecords : u.settings.signs = s.settings.signs
  defined : ∀ k, (lookup u.settings.segments k).isSome = (lookup s.settings.segments k).isSome
  roads : g.once → ∀ k, (lookup u.settings.segments k).isSome → k ∉ ks →
    lookup u.settings.segments k = lookup s.settings.segments k ∧ SameRoad s u k
  views : g.once → s.TablesWhole → ∀ j r, j ∉ signs → lookup s.settings.signs j = some r → SameView s u j r
  tables : s.TablesWhole → u.TablesWhole
  clock : u.retained.clock = s.retained.clock
  records : ∃ bs, (∀ b ∈ bs, ¬ OfRoad b) ∧ recordsOf u.line = recordsOf (s.reports bs).line

theorem Revises.upsets (h : Revises g ks signs s u) : Upsets g ks signs s u where
  awaits := fun k _ => ⟨by rw [h.segments], h.defined k⟩
  derived := fun o k hk hf => by
    by_cases hd : (lookup u.settings.segments k).isSome
    · obtain ⟨record, road⟩ := h.roads o k hd hk
      exact hf.congr (by rw [h.segments]) record (funext road.deriveSegment)
    · have undefined : lookup u.settings.segments k = none := Option.not_isSome_iff_eq_none.mp hd
      have before : lookup s.settings.segments k = none := by
        rw [← Option.not_isSome_iff_eq_none, ← h.defined k]
        exact hd
      unfold SegmentFollows at hf ⊢
      rw [h.segments, undefined, hf, before]
      rfl
  gatesWhole := fun w k => by
    unfold State.gate
    rw [h.gates, h.gateRecords]
    exact w k
  tables := h.tables
  images := fun o w j hj hf => imageFollows_congr (by rw [h.signRecords]) (by unfold State.sign; rw [h.composed])
    (fun r c hr _ => (h.views o w j r hj hr).compose c.front) hf
  marks := fun _ => .of_signs h.composed
  tells := fun _ _ => have ⟨_, silent, records⟩ := h.records
    .of_silent silent h.clock records h.segments h.gates
  gates := fun _ _ _ hg k r x hr hx => by
    unfold State.gate at hx
    rw [h.gateRecords] at hr
    rw [h.gates] at hx
    unfold State.cif
    rw [h.segments]
    exact hg k r x hr hx

theorem announcing_nil (c : Settings) : c.announcing [] = [] :=
  List.eq_nil_iff_forall_not_mem.mpr fun j hj => by
    obtain ⟨r, -, x, -, hx⟩ := mem_announcing.mp hj
    cases hx

/-- Segments handed on with the signs that announce them; without segments nothing is handed on. -/
theorem handSegments_eq (s : State) (ks : List Nat) :
    s.handSegments ks = s.handOver ks (s.settings.announcing ks) := by
  cases ks with
  | nil =>
    rw [announcing_nil]
    rfl
  | cons k ks => rfl

theorem handTouched_eq (s : State) (ks : List Nat) : s.handTouched ks =
    s.handOver (ascending 8 ks) (s.settings.announcing (ascending 8 ks)) := by
  rw [← handSegments_eq]
  unfold State.handTouched State.handSegments
  cases ascending 8 ks <;> rfl

/-- A sign that announces none of some segments announces no defined one of them. -/
theorem not_mem_of_not_announcing {c : Settings} (hn : c.NamesDefined) {j x : Nat} {r : SignRecord}
    (hr : lookup c.signs j = some r) (hj : j ∉ c.announcing (ascending 8 ks)) (hx : x ∈ r.segments) : x ∉ ks := by
  intro hk
  obtain ⟨q, hq⟩ := Option.isSome_iff_exists.mp ((hn.2 j r hr).2 x hx)
  exact hj (mem_announcing.mpr ⟨r, hr, x, hx, mem_ascending.mpr ⟨lookup_bounds _ hq, hk⟩⟩)

/-! ## Notices (R70, R74, R75, R78, R79, R83) -/

/-- Two lists hold the same candidates to govern the segments that are not touched (R79, R80). -/
def TouchesOnly (ks : List Nat) (l m : List Notice) : Prop :=
  ∀ kind k, k ∉ ks → m.filter (Notice.covers kind k) = l.filter (Notice.covers kind k)

/-- The list changed, the touched segments await their derivation and the signs that announce them theirs. -/
theorem upsets_withNotices (s : State) (l : List Notice) (h : g.once → TouchesOnly ks s.retained.notices l) :
    Upsets g (ascending 8 ks) (s.settings.announcing (ascending 8 ks)) s (s.withNotices l) := by
  have governing : g.once → ∀ kind k, k ∉ ks → (s.withNotices l).governing kind k = s.governing kind k :=
    fun o kind k hk => congrArg earliest (h o kind k hk)
  refine Revises.upsets ⟨rfl, rfl, rfl, rfl, rfl, fun _ => rfl, fun o k hd hk => ⟨rfl, ?_⟩, fun o w j r hj hr => ?_, id,
    rfl, ⟨[], by simp, rfl⟩⟩
  · obtain ⟨q, hq⟩ := Option.isSome_iff_exists.mp hd
    have away : k ∉ ks := fun hm => hk (mem_ascending.mpr ⟨lookup_bounds _ hq, hm⟩)
    exact ⟨governing o _ k away, governing o _ k away, rfl, rfl⟩
  · have away : ∀ x ∈ r.segments, x ∉ ks := fun x hx => not_mem_of_not_announcing w.1.1 hr hj hx
    refine ⟨rfl, fun k hk => ⟨governing o _ k (away k (closureSegment_mem w.1.1 hr hk)), rfl⟩, rfl, rfl, ?_, rfl⟩
    exact shownRestriction_congr fun x hx => governing o _ x (away x hx)

/-- The list changed and its reports queued, the touched segments are handed on. -/
theorem keeps_handTouched (s : State) (l : List Notice) (bs : List ReportBody)
    (h : g.once → TouchesOnly ks s.retained.notices l) (hb : ∀ b ∈ bs, ¬ OfRoad b) :
    Keeps g s (((s.withNotices l).reports bs).handTouched ks) := by
  rw [handTouched_eq, (reaction_reports _ bs).settings]
  exact ((upsets_withNotices s l h).beside (beside_reports _ bs hb)).handOver

theorem notRoad_notice {bs : List ReportBody} (h : ∀ b ∈ bs, ∃ n event, b = Notice.report n event) :
    ∀ b ∈ bs, ¬ OfRoad b := by
  intro b hb
  obtain ⟨n, event, rfl⟩ := h b hb
  exact id

/-- Reading the candidates record by record. -/
theorem filter_filterMap_congr {f : Notice → Option Notice} {p : Notice → Bool} {l : List Notice}
    (h : ∀ n ∈ l, (f n).filter p = if p n then some n else none) : (l.filterMap f).filter p = l.filter p := by
  induction l with
  | nil => rfl
  | cons n l ih =>
    have first := h n List.mem_cons_self
    have rest := ih fun m hm => h m (List.mem_cons_of_mem n hm)
    rw [List.filterMap_cons]
    cases hf : f n with
    | none =>
      have away : p n = false := by simpa [hf] using first
      rw [List.filter_cons_of_neg (by simp [away])]
      exact rest
    | some m =>
      rw [hf, Option.filter_some] at first
      rw [List.filter_cons, List.filter_cons, rest]
      by_cases hm : p m = true
      · by_cases hn : p n = true
        · have same : m = n := by simpa [hm, hn] using first
          rw [same]
        · simp [hm, hn] at first
      · by_cases hn : p n = true
        · simp [hm, hn] at first
        · simp [hm, hn]

/-- A record walked is a candidate for the segments it does not touch as it was (R70, R79). -/
theorem walk_filter (now : Nat) (kind : NoticeKind) (k : Nat) (n : Notice) (hk : k ∉ (n.walk now).touched) :
    ((n.walk now).after).filter (Notice.covers kind k) = if n.covers kind k then some n else none := by
  have active_of_covers : ∀ m : Notice, m.covers kind k = true → m.isActive = true ∧ k ∈ m.segments := fun m hm => by
    simp only [Notice.covers, Bool.and_eq_true, List.contains_iff_mem] at hm
    exact ⟨hm.1.1, hm.2⟩
  unfold Notice.walk at hk ⊢
  by_cases ha : n.isActive = true
  · have asleep : n.activated now = none := by simp [Notice.activated, ha]
    simp only [asleep, Option.getD_none, Option.isSome_none, Bool.false_eq_true, if_false, ha, if_true] at hk ⊢
    split at hk
    · rename_i hdue
      have away : ¬ n.covers kind k = true := fun hc => hk (active_of_covers n hc).2
      simp [hdue, away]
    · rename_i hdue
      simp only [hdue, Bool.false_eq_true, if_false]
      rfl
  · have away : ¬ n.covers kind k = true := fun hc => ha (active_of_covers n hc).1
    rw [if_neg away]
    cases hact : n.activated now with
    | none =>
      simp only [Option.getD_none, Option.isSome_none, Bool.false_eq_true, if_false]
      split
      · rfl
      · simp [away]
    | some m =>
      have active : m.isActive = true := by
        unfold Notice.activated at hact
        split at hact
        · cases hact
          rfl
        · cases hact
      simp only [hact, Option.getD_some, Option.isSome_some, if_true, active] at hk ⊢
      split
      · rfl
      · rename_i hdue
        simp only [hdue, Bool.false_eq_true, if_false] at hk
        have awake : ¬ m.covers kind k = true := fun hc => hk (active_of_covers m hc).2
        simp [awake]

theorem touchesOnly_walk (now : Nat) (l : List Notice) : TouchesOnly ((l.map fun n => n.walk now).flatMap Walked.touched)
    l ((l.map fun n => n.walk now).filterMap Walked.after) := by
  intro kind k hk
  rw [List.filterMap_map]
  refine filter_filterMap_congr fun n hn => walk_filter now kind k n fun hm => hk ?_
  exact List.mem_flatMap.mpr ⟨n.walk now, List.mem_map_of_mem hn, hm⟩

/-- A record that is no candidate is none where it is put. -/
theorem filter_insertNotice {p : Notice → Bool} {n : Notice} (hn : ¬ p n = true) (l : List Notice) :
    (insertNotice n l).filter p = l.filter p := by
  induction l with
  | nil => simp [insertNotice, hn]
  | cons m l ih =>
    unfold insertNotice
    split
    · rw [List.filter_cons_of_neg hn]
    · rw [List.filter_cons, List.filter_cons, ih]

/-- A record withdrawn takes no candidate with it but itself. -/
theorem filter_withoutNotice {p : Notice → Bool} {k : Nat} {l : List Notice} (h : ∀ m ∈ l, m.number = k → ¬ p m = true) :
    (withoutNotice k l).filter p = l.filter p := by
  unfold withoutNotice
  rw [List.filter_filter]
  refine List.filter_congr fun m hm => ?_
  by_cases hp : p m = true
  · have other : m.number ≠ k := fun e => h m hm e hp
    simp [hp, other]
  · simp [hp]

/-- In a list with no number twice the record of a number is the one that is found. -/
theorem eq_found {l : List Notice} (hn : (l.map Notice.number).Nodup) {m n : Notice} (hm : m ∈ l) (hf : n ∈ l)
    (h : m.number = n.number) : m = n := List.inj_on_of_nodup_map hn hm hf h

theorem touchesOnly_without {l : List Notice} (hn : (l.map Notice.number).Nodup) {n : Notice} (hm : n ∈ l) :
    TouchesOnly (if n.isActive then n.segments else []) l (withoutNotice n.number l) := by
  intro kind k hk
  refine filter_withoutNotice fun m hml hnum hc => ?_
  obtain rfl := eq_found hn hml hm hnum
  simp only [Notice.covers, Bool.and_eq_true, List.contains_iff_mem] at hc
  obtain ⟨⟨active, -⟩, covered⟩ := hc
  rw [active] at hk
  exact hk covered

theorem touchesOnly_post {l : List Notice} (hn : (l.map Notice.number).Nodup) (n : Notice) :
    TouchesOnly (touchedByPost (findNotice n.number l) n) l (insertNotice n (withoutNotice n.number l)) := by
  intro kind k hk
  have away : ∀ m : Notice, m.covers kind k = true → ¬ (m.isActive = true ∧ k ∈ m.segments → k ∈
      touchedByPost (findNotice n.number l) n) := fun m hc himp => by
    simp only [Notice.covers, Bool.and_eq_true, List.contains_iff_mem] at hc
    exact hk (himp ⟨hc.1.1, hc.2⟩)
  rw [filter_insertNotice fun hc => away n hc fun ⟨active, covered⟩ => ?_]
  · refine filter_withoutNotice fun m hm hnum hc => away m hc fun ⟨active, covered⟩ => ?_
    have found : findNotice n.number l = some m := by
      cases hf : findNotice n.number l with
      | none => exact absurd hnum (findNotice_none hf m hm)
      | some o =>
        obtain ⟨ho, hon⟩ := findNotice_some hf
        rw [eq_found hn hm ho (hnum.trans hon.symm)]
    unfold touchedByPost
    rw [found, if_pos (by simp [wasActive, active])]
    exact List.mem_append_left _ covered
  · unfold touchedByPost
    rw [if_pos (by simp [active])]
    exact List.mem_append_right _ covered

theorem keeps_clockWalk (s : State) (now : Nat) : Keeps g s (s.clockWalk now) := by
  refine keeps_handTouched s _ _ (fun _ => touchesOnly_walk now s.retained.notices) (notRoad_notice fun b hb => ?_)
  obtain ⟨x, hx, hb⟩ := List.mem_flatMap.mp hb
  obtain ⟨n, -, rfl⟩ := List.mem_map.mp hx
  unfold Notice.walk at hb
  split at hb <;> grind

theorem keeps_askClosure (s : State) (k : Nat) : Keeps g s (s.askClosure k) := by
  unfold State.askClosure
  refine Keeps.ite (fun _ => keeps_handTouched s _ [_] (fun _ kind j hj => ?_) (notRoad_notice fun b hb => ?_))
    fun _ => .refl s
  · refine filter_insertNotice (fun hc => hj ?_) _
    simp only [Notice.covers, Bool.and_eq_true, List.contains_iff_mem] at hc
    exact hc.2
  · exact ⟨_, _, List.mem_singleton.mp hb⟩

theorem keeps_post (s : State) (n : Notice) (h : g.once → (s.retained.notices.map Notice.number).Nodup) :
    Keeps g s (s.post n) := by
  refine keeps_handTouched s _ _ (fun o => touchesOnly_post (h o) n) (notRoad_notice fun b hb => ?_)
  unfold reportsOfPost at hb
  split at hb
  · exact ⟨_, _, List.mem_singleton.mp hb⟩
  · cases hb

theorem keeps_withdraw (s : State) {n : Notice} (hn : n ∈ s.retained.notices)
    (h : g.once → (s.retained.notices.map Notice.number).Nodup) : Keeps g s (s.withdraw n) :=
  keeps_handTouched s _ [_] (fun o => touchesOnly_without (h o) hn)
    (notRoad_notice fun _ hb => ⟨_, _, List.mem_singleton.mp hb⟩)

end Sys2Proof.Proofs
end

section
/-! SUPPORT. Paths and their figures change (R51 to R54, R58, R61 to R63): the segments they threaten are handed on, with the
signs that announce them, and all else follows its sources as before. -/

namespace Sys2Proof.Proofs

open Sys2Proof Sys2Proof.Machine Sys2Proof.Laws Sys2Proof.Claims

variable {g : Terms} {ks signs : List Nat} {s u : State}

/-! ## Levels (R61, R91, R150) -/

/-- A path threatens a segment. -/
def Threatens (c : Settings) (j x : Nat) : Prop := ∃ q, lookup c.paths j = some q ∧ x ∈ q.segments

theorem threatening_eq_filter (c : Settings) (xs : List Nat) [∀ j, Decidable (∃ x ∈ xs, Threatens c j x)] :
    c.threatening xs = (numbers 12).filter fun j => decide (∃ x ∈ xs, Threatens c j x) := by
  refine List.filter_congr fun j _ => ?_
  rw [Bool.eq_iff_iff, decide_eq_true_iff]
  unfold Threatens
  cases lookup c.paths j with
  | none => simp
  | some q =>
    simp only [Option.some.injEq, exists_eq_left', List.any_eq_true, List.contains_iff_mem]
    exact exists_congr fun x => and_comm

/-- A path counts for a segment as it did: it threatens it or not as before, and if it does, with the effective level it
had. -/
def CountsAsBefore (s u : State) (j x : Nat) : Prop :=
  (Threatens u.settings j x ↔ Threatens s.settings j x) ∧
    (Threatens s.settings j x → (u.figures j).effective = (s.figures j).effective)

theorem highest_congr {xs : List Nat} (h : ∀ j, ∀ x ∈ xs, CountsAsBefore s u j x) : u.highest xs = s.highest xs := by
  classical
  have same : u.settings.threatening xs = s.settings.threatening xs := by
    rw [threatening_eq_filter, threatening_eq_filter]
    exact List.filter_congr fun j _ => decide_eq_decide.mpr
      (exists_congr fun x => and_congr_right fun hx => (h j x hx).1)
  rw [highest_eq, highest_eq, same]
  refine congrArg (List.foldl max 0) (List.map_congr_left fun j hj => ?_)
  obtain ⟨q, hq, x, hx, hm⟩ := mem_threatening.mp hj
  exact (h j x hx).2 ⟨q, hq, hm⟩

/-- The path records and the figures replaced. -/
def withPathTable (records : Vector (Option PathRecord) 12) (figures : Vector PathFigures 12) (s : State) : State :=
  (s.change fun c => { c with paths := records }).withRetained { s.retained with paths := figures }

/-- The segments for which no path counts otherwise than before, and the signs that announce no other, are settled. -/
theorem upsets_withPathTable (s : State) (records : Vector (Option PathRecord) 12) (figures : Vector PathFigures 12)
    (h : ∀ j x, 1 ≤ x ∧ x ≤ 8 → x ∉ ks → CountsAsBefore s (withPathTable records figures s) j x) :
    Upsets g ks (s.settings.announcing ks) s (withPathTable records figures s) := by
  refine Revises.upsets ⟨rfl, rfl, rfl, rfl, rfl, fun _ => rfl, fun _ k hd hk => ⟨rfl, rfl, rfl, ?_, rfl⟩,
    fun _ w j r hj hr => ⟨rfl, fun _ _ => ⟨rfl, rfl⟩, rfl, ?_, rfl, rfl⟩, id, rfl, ⟨[], by simp, rfl⟩⟩
  · obtain ⟨q, hq⟩ := Option.isSome_iff_exists.mp hd
    exact highest_congr fun j x hx => List.mem_singleton.mp hx ▸ h j k (lookup_bounds _ hq) hk
  · refine highest_congr fun i x hx => ?_
    obtain ⟨q, hq⟩ := Option.isSome_iff_exists.mp ((w.1.1.2 j r hr).2 x hx)
    exact h i x (lookup_bounds _ hq) fun hm => hj (mem_announcing.mpr ⟨r, hr, x, hx, hm⟩)

/-! ## Changes of E (R54, R58, R61 to R63) -/

theorem mem_threatenedBy {c : Settings} {ps : List Nat} {x : Nat} :
    x ∈ c.threatenedBy ps ↔ (1 ≤ x ∧ x ≤ 8) ∧ ∃ j ∈ ps, Threatens c j x := by
  unfold Settings.threatenedBy
  rw [mem_ascending]
  refine and_congr_right fun bounds => ?_
  simp only [List.mem_flatMap, mem_threatens, bounds, and_self, true_and, Threatens]

/-- Changes of E are reported, handed on, and the triggers ask for their closures. -/
theorem handLevels_eq (rises : List Rise) (s : State) : s.handLevels rises =
    ((rises.filter fun r => r.before < 4 && r.after == 4).map Rise.path).foldl (fun s k => s.trigger k)
      ((s.reports (rises.map Rise.report)).handOver (s.settings.threatenedBy (rises.map Rise.path))
        (s.settings.announcing (s.settings.threatenedBy (rises.map Rise.path)))) := by
  cases rises with
  | nil =>
    have nothing : s.settings.threatenedBy (([] : List Rise).map Rise.path) = [] :=
      List.eq_nil_iff_forall_not_mem.mpr fun x hx => by
        obtain ⟨-, j, hj, -⟩ := mem_threatenedBy.mp hx
        cases hj
    rw [nothing, announcing_nil]
    rfl
  | cons r rises =>
    have settings : (s.reports ((r :: rises).map Rise.report)).settings = s.settings := (reaction_reports _ _).settings
    unfold State.handLevels
    dsimp only
    rw [settings]

/-- New figures are taken and their changes of E handed on; the figures of other paths count as before. -/
theorem keeps_handLevels (s : State) (figures : Vector PathFigures 12) (rises : List Rise)
    (h : ∀ j, j ∉ rises.map Rise.path →
      ((withPathTable s.settings.paths figures s).figures j).effective = (s.figures j).effective) :
    Keeps g s ((withPathTable s.settings.paths figures s).handLevels rises) := by
  have asked : ∀ (u : State) k, Keeps g u (u.trigger k) := fun u k => Keeps.foldl keeps_askClosure _ u
  have levels : ∀ b ∈ rises.map Rise.report, ¬ OfRoad b := by
    intro b hb
    obtain ⟨r, -, rfl⟩ := List.mem_map.mp hb
    exact id
  rw [handLevels_eq]
  refine Keeps.trans (Upsets.handOver ?_) (Keeps.foldl asked _ _)
  refine (upsets_withPathTable s s.settings.paths figures fun j x bounds hx => ⟨Iff.rfl, fun threat => ?_⟩).beside
    (beside_reports _ _ levels)
  exact h j fun hj => hx (mem_threatenedBy.mpr ⟨bounds, j, hj, threat⟩)

theorem path_of_riseOf {k : Nat} {before after : PathFigures} (h : k ∉ (riseOf k before after).map Rise.path) :
    after.effective = before.effective := by
  unfold riseOf at h
  split at h
  · exact Eq.symm ‹_›
  · exact absurd (List.mem_singleton_self k) h

theorem keeps_postFloor (s : State) (k level duration : Nat) : Keeps g s (s.postFloor k level duration) := by
  refine keeps_handLevels s _ _ fun j hj => ?_
  by_cases hjk : j = k
  · subst hjk
    by_cases bounds : 1 ≤ j ∧ j ≤ 12
    · exact (congrArg PathFigures.effective (figures_withFigures_self s _ bounds.1 bounds.2)).trans (path_of_riseOf hj)
    · have outside : putItem s.retained.paths j (postedFigures s j level duration) = s.retained.paths := by
        unfold putItem
        split
        · rfl
        · exact Vector.setIfInBounds_eq_of_size_le (by omega)
      exact congrArg PathFigures.effective (figures_congr outside j)
  · exact congrArg PathFigures.effective (figures_withFigures_ne s _ hjk)

/-! ## The step end (R23, R42, R43, R54) -/

theorem keeps_takeIndices (s : State) (w : StepWeather) :
    Keeps g s (s.takeIndices ((entries s.settings.paths).map (s.pathEntry w))) := by
  rw [takeIndices_eq]
  refine keeps_handLevels s _ _ fun j hj => ?_
  show ((figuresTaken w s).figures j).effective = (s.figures j).effective
  cases hr : lookup s.settings.paths j with
  | none => rw [figures_figuresTaken_none hr]
  | some r =>
    rw [figures_figuresTaken_some hr]
    refine path_of_riseOf (k := j) fun hm => hj ?_
    obtain ⟨x, hx, e⟩ := List.mem_map.mp hm
    exact List.mem_map.mpr ⟨x, List.mem_flatMap.mpr ⟨(j, r), mem_entries.mpr hr, hx⟩, e⟩

/-! ## DEFINE_PATH and REMOVE_PATH (R51 to R53) -/

/-- Another path counts as before where its record and its figures stay. -/
theorem countsAsBefore_of_same {j x : Nat} (hr : lookup u.settings.paths j = lookup s.settings.paths j)
    (hf : u.figures j = s.figures j) : CountsAsBefore s u j x := by
  refine ⟨?_, fun _ => congrArg PathFigures.effective hf⟩
  unfold Threatens
  rw [hr]

/-- A path that threatens a segment neither before nor after counts for it as before. -/
theorem countsAsBefore_of_neither {j x : Nat} (hs : ¬ Threatens s.settings j x) (hu : ¬ Threatens u.settings j x) :
    CountsAsBefore s u j x := ⟨iff_of_false hu hs, fun h => absurd h hs⟩

theorem keeps_putPath (s : State) {k : Nat} (r : PathRecord) (hk : 1 ≤ k ∧ k ≤ 12) : Keeps g s (s.putPath k r) := by
  have settled : Upsets g (changedSegments (lookup s.settings.paths k) r)
      (s.settings.announcing (changedSegments (lookup s.settings.paths k) r)) s (pathPlaced k r s) := by
    have table : pathPlaced k r s = withPathTable (putItem s.settings.paths k (some r))
        (pathPlaced k r s).retained.paths s := by
      unfold pathPlaced
      split <;> rfl
    rw [table]
    refine upsets_withPathTable s _ _ fun j x bounds hx => ?_
    rw [← table]
    by_cases hj : j = k
    · subst hj
      have record : lookup (pathPlaced j r s).settings.paths j = some r := by
        rw [paths_pathPlaced]
        exact lookup_putItem_self s.settings.paths _ hk.1 hk.2
      have after : Threatens (pathPlaced j r s).settings j x ↔ x ∈ r.segments := by simp [Threatens, record]
      unfold changedSegments at hx
      cases hq : lookup s.settings.paths j with
      | none =>
        rw [hq] at hx
        refine countsAsBefore_of_neither (fun ⟨q, h, _⟩ => ?_) fun hm => hx (mem_ascending.mpr ⟨bounds, after.mp hm⟩)
        rw [hq] at h
        cases h
      | some q =>
        have before : Threatens s.settings j x ↔ x ∈ q.segments := by simp [Threatens, hq]
        rw [hq] at hx
        dsimp only at hx
        split at hx
        · rename_i same
          refine ⟨by rw [after, before, same], fun _ => ?_⟩
          rw [figures_pathPlaced_self hk.1 hk.2, hq]
          rfl
        · refine countsAsBefore_of_neither (fun hm => hx ?_) fun hm => hx ?_
          · exact mem_ascending.mpr ⟨bounds, List.mem_append_left _ (before.mp hm)⟩
          · exact mem_ascending.mpr ⟨bounds, List.mem_append_right _ (after.mp hm)⟩
    · refine countsAsBefore_of_same ?_ (figures_pathPlaced_ne hj)
      rw [paths_pathPlaced, lookup_putItem_ne s.settings.paths _ hj]
  have signs : (pathPlaced k r s).settings.signs = s.settings.signs := by
    unfold pathPlaced
    split <;> rfl
  rw [putPath_eq, handSegments_eq]
  have announcing : (pathPlaced k r s).settings.announcing = s.settings.announcing := by
    unfold Settings.announcing
    rw [signs]
  rw [announcing]
  exact settled.handOver

theorem keeps_dropPath (s : State) {k : Nat} {r : PathRecord} (hr : lookup s.settings.paths k = some r) :
    Keeps g s (s.dropPath k r) := by
  have bounds := lookup_bounds _ hr
  rw [dropPath_eq, handSegments_eq]
  refine Upsets.handOver (upsets_withPathTable s (putItem s.settings.paths k none)
    (putItem s.retained.paths k PathFigures.cleared) fun j x hx8 hx => ?_)
  by_cases hj : j = k
  · subst hj
    refine countsAsBefore_of_neither (fun ⟨q, hq, hm⟩ => hx ?_) fun ⟨q, hq, _⟩ => ?_
    · obtain rfl := Option.some.inj (hr.symm.trans hq)
      exact mem_ascending.mpr ⟨hx8, hm⟩
    · exact absurd ((lookup_putItem_self s.settings.paths none bounds.1 bounds.2).symm.trans hq) nofun
  · exact countsAsBefore_of_same (lookup_putItem_ne s.settings.paths none hj) (figures_withFigures_ne s _ hj)

end Sys2Proof.Proofs
end

section
/-! SUPPORT. Segments and gates defined, redefined and removed (R99 to R102, R106 to R108). -/

namespace Sys2Proof.Proofs

open Sys2Proof Sys2Proof.Machine Sys2Proof.Laws Sys2Proof.Claims

variable {g : Terms} {ks signs : List Nat}

/-! ## Settings that stay whole (R88, R102, R105) -/

theorem tables_change {s : State} {f : Settings → Settings} (h : s.settings.Whole → (f s.settings).Whole) :
    s.TablesWhole → (s.change f).TablesWhole := fun ⟨working, saved, write⟩ => ⟨h working, saved, write⟩

theorem isSome_putItem {α : Type} {n : Nat} (v : Vector (Option α) n) (k : Nat) (x : α) {j : Nat}
    (h : (lookup v j).isSome = true) : (lookup (putItem v k (some x)) j).isSome = true := by
  by_cases hj : j = k
  · subst hj
    obtain ⟨y, hy⟩ := Option.isSome_iff_exists.mp h
    have bounds := lookup_bounds v hy
    rw [lookup_putItem_self v _ bounds.1 bounds.2]
    rfl
  · rw [lookup_putItem_ne v _ hj]
    exact h

theorem whole_setSegment {c : Settings} {k : Nat} {r : SegmentRecord}
    (hl : 1 ≤ r.caution ∧ r.caution ≤ r.permit ∧ r.permit ≤ 4) (h : c.Whole) : (c.setSegment k (some r)).Whole := by
  obtain ⟨⟨gates, signs⟩, levels⟩ := h
  refine ⟨⟨fun j q hq => ?_, fun j q hq => ?_⟩, fun j q hq => ?_⟩
  · obtain ⟨segment, approach⟩ := gates j q hq
    exact ⟨isSome_putItem c.segments k r segment, approach⟩
  · obtain ⟨profile, segments⟩ := signs j q hq
    exact ⟨profile, fun x hx => isSome_putItem c.segments k r (segments x hx)⟩
  · rcases lookup_putItem_cases c.segments k j (some r) q hq with ⟨-, own⟩ | other
    · exact Option.some.inj own ▸ hl
    · exact levels j q other

/-! ## A segment redefined (R101) -/

theorem keeps_redefineSegment (s : State) {k : Nat} {old r : SegmentRecord}
    (ho : lookup s.settings.segments k = some old) (hl : 1 ≤ r.caution ∧ r.caution ≤ r.permit ∧ r.permit ≤ 4) :
    Keeps g s (s.redefineSegment k old r) := by
  have bounds := lookup_bounds _ ho
  have record : ∀ j, j ≠ k →
      lookup (s.change (Settings.setSegment k (some r))).settings.segments j = lookup s.settings.segments j :=
    fun j hj => lookup_putItem_ne s.settings.segments _ hj
  have own : lookup (s.change (Settings.setSegment k (some r))).settings.segments k = some r :=
    lookup_putItem_self s.settings.segments _ bounds.1 bounds.2
  refine Upsets.handOver (Revises.upsets ⟨rfl, rfl, rfl, rfl, rfl, fun j => ?_, fun _ j _ hj => ?_,
    fun _ w j q hj hq => ⟨rfl, fun x hx => ⟨rfl, ?_⟩, rfl, rfl, rfl, rfl⟩, tables_change (whole_setSegment hl), rfl,
    ⟨[], by simp, rfl⟩⟩)
  · by_cases hj : j = k
    · rw [hj, own, ho]
      rfl
    · rw [record j hj]
  · exact ⟨record j fun e => hj (List.mem_singleton.mpr e), rfl, rfl, rfl, rfl⟩
  · unfold Settings.segmentName
    by_cases hxk : x = k
    · subst hxk
      rw [own, ho]
      split at hj
      · exact Eq.symm ‹_›
      · exact absurd (mem_announcing.mpr ⟨q, hq, x, closureSegment_mem w.1.1 hq hx, List.mem_singleton_self x⟩) hj
    · rw [record x hxk]

/-! ## A segment made or taken away (R100, R102) -/

/-- Record and state record of a segment replaced. -/
def segmentPut (k : Nat) (r : Option SegmentRecord) (d : Option SegmentState) (s : State) : State :=
  (s.change (Settings.setSegment k r)).withSegments (putItem s.segments k d)

/-- A segment that no gate guards and no sign announces is put, and reported. -/
theorem keeps_segmentPut (s : State) {k h : Nat} {r : Option SegmentRecord} {before : Option RoadState} {c : Option Nat}
    (hk : 1 ≤ k ∧ k ≤ 8) (tables : s.TablesWhole → (segmentPut k r (r.map (s.deriveSegment k)) s).TablesWhole)
    (away : s.TablesWhole → (∀ j q, lookup s.settings.gates j = some q → q.segment ≠ k) ∧
      ∀ j q, lookup s.settings.signs j = some q → k ∉ q.segments)
    (tells : g.whole → (lookup s.segments k).map SegmentState.state = before)
    (hne : before ≠ (r.map (s.deriveSegment k)).map SegmentState.state) :
    Keeps g s ((segmentPut k r (r.map (s.deriveSegment k)) s).report
      (.segment k before ((r.map (s.deriveSegment k)).map SegmentState.state) h c)) := by
  generalize hd : r.map (s.deriveSegment k) = d at tables hne ⊢
  have other : ∀ j, j ≠ k → lookup (putItem s.segments k d) j = lookup s.segments j := fun j hj =>
    lookup_putItem_ne s.segments d hj
  refine ⟨⟨by simp, fun _ j _ hf => ?_, id, tables, fun _ w j _ hf => ?_, fun _ => .of_signs rfl, fun w _ => ?_⟩,
    fun _ w _ hg j q x hq hx => ?_⟩
  · by_cases hj : j = k
    · subst hj
      have record : lookup (putItem s.settings.segments j r) j = r := lookup_putItem_self _ _ hk.1 hk.2
      have state : lookup (putItem s.segments j d) j = d := lookup_putItem_self _ _ hk.1 hk.2
      show lookup (putItem s.segments j d) j = (lookup (putItem s.settings.segments j r) j).map (s.deriveSegment j)
      rw [record, state, hd]
    · exact hf.congr (other j hj) (lookup_putItem_ne s.settings.segments _ hj) rfl
  · refine imageFollows_congr (s := s) rfl rfl (fun q e hq _ => ?_) hf
    have unnamed : ∀ x ∈ q.segments, x ≠ k := fun x hx e => (away w).2 j q hq (e ▸ hx)
    have view : SameView s (segmentPut k r d s) j q := by
      refine ⟨closureSegment_congr rfl rfl fun x hx => ?_, fun x hx => ⟨rfl, ?_⟩, rfl, rfl, rfl, rfl⟩
      · unfold State.isClosing
        rw [show lookup (segmentPut k r d s).segments x = lookup s.segments x from other x (unnamed x hx)]
      · have defined := unnamed x (closureSegment_mem w.1.1 hq hx)
        exact congrArg (fun o => match o with
          | some (r : SegmentRecord) => r.nameEntry
          | none => 0) (lookup_putItem_ne s.settings.segments r defined)
    exact view.compose _
  · refine .of_reports (bs := [.segment k before (d.map SegmentState.state) h c]) rfl rfl (fun j => ?_)
      fun j => leads_silent fun b hb => by
        obtain rfl := List.mem_singleton.mp hb
        rfl
    show Leads _ _ _ ((lookup (putItem s.segments k d) j).map SegmentState.state)
    by_cases hj : j = k
    · subst hj
      rw [lookup_putItem_self s.segments d hk.1 hk.2, tells w]
      exact leads_one (if_pos rfl) hne
    · rw [other j hj]
      exact leads_silent fun b hb => by
        obtain rfl := List.mem_singleton.mp hb
        exact if_neg (Ne.symm hj)
  · have cif : ((segmentPut k r d s).report (.segment k before (d.map SegmentState.state) h c)).cif q.segment =
        s.cif q.segment := by
      unfold State.cif
      exact congrArg (fun o => match o with
        | some (g : SegmentState) => g.closure.isSome
        | none => false) (other q.segment ((away w).1 j q hq))
    rw [cif]
    exact hg j q x hq hx

theorem keeps_newSegment (s : State) {k : Nat} {r : SegmentRecord} (hk : 1 ≤ k ∧ k ≤ 8)
    (hn : lookup s.settings.segments k = none) (hl : 1 ≤ r.caution ∧ r.caution ≤ r.permit ∧ r.permit ≤ 4)
    (hs : g.whole → lookup s.segments k = none) : Keeps g s (s.newSegment k r) := by
  refine keeps_segmentPut s (r := some r) hk (tables_change (whole_setSegment hl))
    (fun w => ⟨fun j q hq e => ?_, fun j q hq hm => ?_⟩) (fun w => by rw [hs w]; rfl) nofun
  · have defined := (w.1.1.1 j q hq).1
    rw [e, hn] at defined
    cases defined
  · have defined := (w.1.1.2 j q hq).2 k hm
    rw [hn] at defined
    cases defined

theorem keeps_dropSegment (s : State) {k : Nat} {r : SegmentRecord} (hr : lookup s.settings.segments k = some r)
    (hn : s.segmentNamed k = false)
    (hs : g.whole → (lookup s.segments k).map SegmentState.state = some .free) : Keeps g s (s.dropSegment k) := by
  obtain ⟨-, gates, signs, -⟩ := (segmentNamed_eq_false s k).mp hn
  have other : ∀ j, j ≠ k → lookup (putItem s.settings.segments k none) j = lookup s.settings.segments j :=
    fun j hj => lookup_putItem_ne _ _ hj
  refine keeps_segmentPut s (r := none) (lookup_bounds _ hr) (tables_change ?_) (fun _ => ⟨gates, signs⟩) hs nofun
  rintro ⟨⟨guarded, announced⟩, levels⟩
  refine ⟨⟨fun j q hq => ?_, fun j q hq => ?_⟩, fun j q hq => ?_⟩
  · obtain ⟨segment, approach⟩ := guarded j q hq
    refine ⟨?_, approach⟩
    show (lookup (putItem s.settings.segments k none) q.segment).isSome = true
    rw [other q.segment (gates j q hq)]
    exact segment
  · obtain ⟨profile, segments⟩ := announced j q hq
    refine ⟨profile, fun x hx => ?_⟩
    show (lookup (putItem s.settings.segments k none) x).isSome = true
    rw [other x fun e => signs j q hq (e ▸ hx)]
    exact segments x hx
  · rcases lookup_putItem_cases s.settings.segments k j none q hq with ⟨-, own⟩ | kept
    · cases own
    · exact levels j q kept

/-- A segment that no record names and that follows its sources is FREE: nothing closes it, no gate stands in it and no path
threatens it (R93, R102). -/
theorem free_of_unnamed {s : State} {k : Nat} {r : SegmentRecord} (hr : lookup s.settings.segments k = some r)
    (hn : s.segmentNamed k = false) (hl : 1 ≤ r.caution) (hf : SegmentFollows s k) :
    (lookup s.segments k).map SegmentState.state = some .free := by
  obtain ⟨paths, gates, -, notices⟩ := (segmentNamed_eq_false s k).mp hn
  have governed : ∀ kind, s.governing kind k = none := fun kind => by
    have nobody : s.retained.notices.filter (Notice.covers kind k) = [] := List.filter_eq_nil_iff.mpr fun n hm hc => by
      simp only [Notice.covers, Bool.and_eq_true, List.contains_iff_mem] at hc
      exact notices n hm hc.2
    unfold State.governing
    rw [nobody]
    rfl
  have unguarded : s.entryPositions k = [] := List.eq_nil_iff_forall_not_mem.mpr fun p hp => by
    obtain ⟨j, q, x, hq, hseg, -⟩ := mem_entryPositions.mp hp
    exact gates j q hq hseg
  have unthreatened : s.highest [k] = 0 := by
    have nobody : s.settings.threatening [k] = [] := List.eq_nil_iff_forall_not_mem.mpr fun j hj => by
      obtain ⟨q, hq, x, hx, hm⟩ := mem_threatening.mp hj
      exact paths j q hq (List.mem_singleton.mp hx ▸ hm)
    rw [highest_eq, nobody]
    rfl
  rw [hf, hr]
  unfold State.deriveSegment
  simp only [governed, unguarded, unthreatened, Option.map_some, Option.map_none, Option.isSome_none]
  have below : ¬ r.caution ≤ 0 := by omega
  simp [roadState, below]

end Sys2Proof.Proofs
end

section
/-! SUPPORT. Gates defined, redefined and removed (R106 to R108): the segments and approach signs of the old record and the
new one are handed on. -/

namespace Sys2Proof.Proofs

open Sys2Proof Sys2Proof.Machine Sys2Proof.Laws Sys2Proof.Claims

variable {g : Terms} {ks signs : List Nat}

/-- Record and state of a gate replaced. -/
def gatePut (k : Nat) (r : Option GateRecord) (x : Option GateState) (s : State) : State :=
  (s.change (Settings.setGate k r)).withGate k x

section
variable {s : State} {k : Nat} {r : Option GateRecord} {x : Option GateState}

theorem gateRecord_gatePut_ne {j : Nat} (hj : j ≠ k) :
    lookup (gatePut k r x s).settings.gates j = lookup s.settings.gates j := lookup_putItem_ne s.settings.gates r hj

theorem gate_gatePut_ne {j : Nat} (hj : j ≠ k) : (gatePut k r x s).gate j = s.gate j := lookup_putItem_ne s.gates x hj

theorem gateRecord_gatePut_self (hk : 1 ≤ k ∧ k ≤ 8) : lookup (gatePut k r x s).settings.gates k = r :=
  lookup_putItem_self s.settings.gates r hk.1 hk.2

theorem gate_gatePut_self (hk : 1 ≤ k ∧ k ≤ 8) : (gatePut k r x s).gate k = x :=
  lookup_putItem_self s.gates x hk.1 hk.2

/-- A segment that neither record of a gate names has the entry gates it had. -/
theorem entryPositions_gatePut (hk : 1 ≤ k ∧ k ≤ 8) {y : Nat}
    (h : ∀ q, lookup s.settings.gates k = some q ∨ r = some q → q.segment ≠ y) :
    (gatePut k r x s).entryPositions y = s.entryPositions y := by
  have gates : (gatePut k r x s).settings.entryGates y = s.settings.entryGates y := by
    unfold Settings.entryGates
    refine List.filter_congr fun j _ => ?_
    by_cases hj : j = k
    · subst hj
      have away : ∀ o : Option GateRecord, (∀ q, o = some q → q.segment ≠ y) → (match o with
          | some q => q.segment == y
          | none => false) = false := by
        intro o ho
        cases o with
        | none => rfl
        | some q => exact beq_eq_false_iff_ne.mpr (ho q rfl)
      rw [gateRecord_gatePut_self hk]
      exact (away r fun q hq => h q (Or.inr hq)).trans (away _ fun q hq => h q (Or.inl hq)).symm
    · rw [gateRecord_gatePut_ne hj]
  unfold State.entryPositions
  rw [gates]
  refine List.filterMap_congr fun j hj => ?_
  obtain ⟨q, hq, hy⟩ := mem_entryGates.mp hj
  have other : j ≠ k := fun e => h q (Or.inl (e ▸ hq)) hy
  exact congrArg (Option.map GateState.position) (gate_gatePut_ne other)

/-- A sign that neither record of a gate names has the guarded segments it had. -/
theorem guardedBy_gatePut (hk : 1 ≤ k ∧ k ≤ 8) {j : Nat} (p : GatePosition)
    (h : ∀ q, lookup s.settings.gates k = some q ∨ r = some q → j ∉ q.approach) :
    (gatePut k r x s).guardedBy j p = s.guardedBy j p := by
  have gates : (gatePut k r x s).settings.approached j = s.settings.approached j := by
    unfold Settings.approached
    refine List.filter_congr fun i _ => ?_
    by_cases hi : i = k
    · subst hi
      have away : ∀ o : Option GateRecord, (∀ q, o = some q → j ∉ q.approach) → (match o with
          | some q => q.approach.contains j
          | none => false) = false := by
        intro o ho
        cases o with
        | none => rfl
        | some q => simpa using ho q rfl
      rw [gateRecord_gatePut_self hk]
      exact (away r fun q hq => h q (Or.inr hq)).trans (away _ fun q hq => h q (Or.inl hq)).symm
    · rw [gateRecord_gatePut_ne hi]
  unfold State.guardedBy
  rw [gates]
  refine List.filterMap_congr fun i hi => ?_
  obtain ⟨q, hq, hj⟩ := mem_approached.mp hi
  have other : i ≠ k := fun e => h q (Or.inl (e ▸ hq)) hj
  have record : lookup (gatePut k r x s).settings.gates i = lookup s.settings.gates i := gateRecord_gatePut_ne other
  have state : lookup (gatePut k r x s).gates i = lookup s.gates i := gate_gatePut_ne other
  rw [record, state]

/-- A gate put with a state that fits leaves the segments and the signs of the old record and the new one to be derived
anew. -/
theorem upsets_gatePut (hk : 1 ≤ k ∧ k ≤ 8) (hx : x.isSome = r.isSome)
    (segments : ∀ q, lookup s.settings.gates k = some q ∨ r = some q → 1 ≤ q.segment ∧ q.segment ≤ 8 → q.segment ∈ ks)
    (named : ∀ q, lookup s.settings.gates k = some q ∨ r = some q → ∀ j ∈ q.approach, 1 ≤ j ∧ j ≤ 16 → j ∈ signs)
    (fits : ∀ q y, r = some q → x = some y → Fits (s.cif q.segment) y.position)
    (tables : s.TablesWhole → (gatePut k r x s).TablesWhole) {bs : List ReportBody}
    (silent : ∀ j, ∀ b ∈ bs, segmentChange j b = none)
    (tells : g.whole → ∀ j, Leads (gateChange j) bs ((s.gate j).map GateState.position)
      (((gatePut k r x s).gate j).map GateState.position)) :
    Upsets g ks signs s ((gatePut k r x s).reports bs) := by
  have sourced : sources ((gatePut k r x s).reports bs) = sources (gatePut k r x s) := by
    rw [reports_eq_withLine]
    rfl
  have store : ((gatePut k r x s).reports bs).store = (gatePut k r x s).store := (reaction_reports _ bs).store
  have settings : ((gatePut k r x s).reports bs).settings = (gatePut k r x s).settings :=
    congrArg SettingsStore.working store
  have gates : ((gatePut k r x s).reports bs).gates = (gatePut k r x s).gates := congrArg (fun u => u.gates) sourced
  have states : ((gatePut k r x s).reports bs).segments = s.segments := congrArg (fun u => u.segments) sourced
  have composer : ((gatePut k r x s).reports bs).composer = s.composer := congrArg (fun u => u.composer) sourced
  have cif : ((gatePut k r x s).reports bs).cif = s.cif := by
    rw [cif_sources, sourced]
    rfl
  refine ⟨⟨fun j _ => ⟨by rw [states], by rw [settings]; rfl⟩, fun _ j hj hf => ?_, fun w j => ?_, fun w => ?_,
    fun _ _ j hj hf => ?_, fun _ => .of_signs (congrArg SignComposer.signs composer), fun w _ => ?_⟩,
    fun _ _ _ hg j q y hq hy => ?_⟩
  · by_cases hd : (lookup s.settings.segments j).isSome
    · obtain ⟨q, hq⟩ := Option.isSome_iff_exists.mp hd
      refine hf.congr (by rw [states]) (by rw [settings]; rfl) ?_
      rw [deriveSegment_sources, sourced, ← deriveSegment_sources]
      have away : ∀ q, lookup s.settings.gates k = some q ∨ r = some q → q.segment ≠ j := fun p hp e =>
        hj (e ▸ segments p hp (e ▸ lookup_bounds _ hq))
      have road : SameRoad s (gatePut k r x s) j :=
        ⟨rfl, rfl, rfl, congrArg _ (entryPositions_gatePut hk away)⟩
      exact funext road.deriveSegment
    · have undefined := Option.not_isSome_iff_eq_none.mp hd
      unfold SegmentFollows at hf ⊢
      have record : lookup ((gatePut k r x s).reports bs).settings.segments j = none := by
        rw [settings]
        exact undefined
      rw [states, record, hf, undefined]
      rfl
  · unfold State.gate
    rw [gates, settings]
    by_cases hj : j = k
    · subst hj
      have state : lookup (gatePut j r x s).gates j = x := gate_gatePut_self hk
      rw [state, gateRecord_gatePut_self hk]
      exact hx
    · have state : lookup (gatePut k r x s).gates j = lookup s.gates j := gate_gatePut_ne hj
      rw [state, gateRecord_gatePut_ne hj]
      exact w j
  · unfold State.TablesWhole
    rw [settings, store]
    exact tables w
  · refine imageFollows_congr (by rw [settings]; rfl) (congrArg (fun c : SignComposer => lookup c.signs j) composer)
      (fun q d hq _ => ?_) hf
    have away : ∀ p, lookup s.settings.gates k = some p ∨ r = some p → j ∉ p.approach := fun p hp hm =>
      hj (named p hp j hm (lookup_bounds _ hq))
    rw [compose_sources, sourced, ← compose_sources]
    have view : SameView s (gatePut k r x s) j q :=
      ⟨closureSegment_congr (guardedBy_gatePut hk _ away) (guardedBy_gatePut hk _ away) fun _ _ => rfl,
        fun _ _ => ⟨rfl, rfl⟩, rfl, rfl, rfl, rfl⟩
    exact view.compose _
  · refine .of_reports (congrArg (fun u => u.retained.clock) sourced) (reports_records _ (gatePut k r x s) s rfl rfl)
      (fun j => ?_) fun j => ?_
    · rw [states]
      exact leads_silent (silent j)
    · unfold State.gate
      rw [gates]
      exact tells w j
  · rw [cif]
    rw [settings] at hq
    unfold State.gate at hy
    rw [gates] at hy
    by_cases hj : j = k
    · subst hj
      rw [gateRecord_gatePut_self hk] at hq
      exact fits q y hq ((gate_gatePut_self hk).symm.trans hy)
    · rw [gateRecord_gatePut_ne hj] at hq
      exact hg j q y hq ((gate_gatePut_ne hj).symm.trans hy)

/-- Reports that tell how one gate came to its state lead every gate to its own. -/
theorem leads_gatePut (hk : 1 ≤ k ∧ k ≤ 8) {bs : List ReportBody} (others : ∀ j, j ≠ k → ∀ b ∈ bs, gateChange j b = none)
    (own : Leads (gateChange k) bs ((s.gate k).map GateState.position) (x.map GateState.position)) (j : Nat) :
    Leads (gateChange j) bs ((s.gate j).map GateState.position)
      (((gatePut k r x s).gate j).map GateState.position) := by
  by_cases hj : j = k
  · rw [hj, gate_gatePut_self hk]
    exact own
  · rw [gate_gatePut_ne hj]
    exact leads_silent (others j hj)

end

/-! ## DEFINE_GATE (R106, R107) -/

/-- What a gate record names is defined, and its approach signs announce its segment (R105, R106). -/
def NamesGate (c : Settings) (r : GateRecord) : Prop :=
  (lookup c.segments r.segment).isSome = true ∧ r.approach ≠ [] ∧
    ∀ j ∈ r.approach, ∃ q, lookup c.signs j = some q ∧ r.segment ∈ q.segments

theorem whole_setGate {c : Settings} {k : Nat} {r : Option GateRecord} (hr : ∀ q, r = some q → NamesGate c q)
    (h : c.Whole) : (c.setGate k r).Whole := by
  obtain ⟨⟨gates, signs⟩, levels⟩ := h
  refine ⟨⟨fun j q hq => ?_, signs⟩, levels⟩
  rcases lookup_putItem_cases c.gates k j r q hq with ⟨-, own⟩ | other
  · exact hr q own
  · exact gates j q other

theorem gateDefined_leads (k : Nat) (before : Option GatePosition) (after : GateState) :
    (∀ j, ∀ b ∈ gateDefined k before after, segmentChange j b = none) ∧
      (∀ j, j ≠ k → ∀ b ∈ gateDefined k before after, gateChange j b = none) ∧
      Leads (gateChange k) (gateDefined k before after) before (some after.position) := by
  unfold gateDefined
  split
  · exact ⟨by simp, by simp, ‹_›⟩
  · refine ⟨fun j b hb => ?_, fun j hj b hb => ?_, leads_one (if_pos rfl) ‹_›⟩
    · obtain rfl := List.mem_singleton.mp hb
      rfl
    · obtain rfl := List.mem_singleton.mp hb
      exact if_neg (Ne.symm hj)

/-- Reports queued after an operation beside the sources. -/
theorem beside_reports_reports {v w : State} (hs : sources w = sources v) (hl : recordsOf w.line = recordsOf v.line)
    (ht : w.store = v.store) (bs : List ReportBody) : Beside (v.reports bs) (w.reports bs) := by
  have clock : w.retained.clock = v.retained.clock := congrArg (fun u => u.retained.clock) hs
  have store : (w.reports bs).store = (v.reports bs).store :=
    (reaction_reports w bs).store.trans (ht.trans (reaction_reports v bs).store.symm)
  have reported : ∀ u : State, sources (u.reports bs) = sources u := fun u => by
    rw [reports_eq_withLine]
    rfl
  refine .of_records (by rw [reported, reported, hs]) (reports_records bs w v hl clock) fun whole => ?_
  have same : ∀ u : State, u.TablesWhole = (u.store.working.Whole ∧ (∀ c, u.store.saved = some c → c.Whole) ∧
      ∀ x, u.store.write = some x → x.copy.Whole) := fun _ => rfl
  rw [same, store]
  exact whole

/-- A gate's record and state before they are handed on (R107). -/
def gateSet (k : Nat) (r : GateRecord) (s : State) : State :=
  let s' := ((s.change (Settings.setGate k (some r))).applyOrder (droppedOutputs (lookup s.settings.gates k) r))
  s'.withZone k (s'.zoneAfter k (lookup s.settings.gates k) r)

theorem putGate_eq (s : State) (k : Nat) (r : GateRecord) : s.putGate k r =
    handGateRecord (lookup s.settings.gates k) r
      ((((gateSet k r s).withGate k (some ((gateSet k r s).deriveGate r))).applyOrder
        (r.order ((gateSet k r s).deriveGate r).position)).reports
          (gateDefined k ((s.gate k).map GateState.position) ((gateSet k r s).deriveGate r))) := rfl

theorem keeps_putGate (s : State) {k : Nat} {r : GateRecord} (hk : 1 ≤ k ∧ k ≤ 8) (hr : NamesGate s.settings r) :
    Keeps g s (s.putGate k r) := by
  have fit : Fits (s.cif r.segment) ((gateSet k r s).deriveGate r).position := fits_derivedPosition _ _ _ _
  rw [putGate_eq]
  generalize (gateSet k r s).deriveGate r = x at fit ⊢
  obtain ⟨roadSilent, others, own⟩ := gateDefined_leads k ((s.gate k).map GateState.position) x
  have put : ∀ ks signs,
      (∀ q, lookup s.settings.gates k = some q ∨ some r = some q → 1 ≤ q.segment ∧ q.segment ≤ 8 → q.segment ∈ ks) →
      (∀ q, lookup s.settings.gates k = some q ∨ some r = some q → ∀ j ∈ q.approach, 1 ≤ j ∧ j ≤ 16 → j ∈ signs) →
      Upsets g ks signs s ((((gateSet k r s).withGate k (some x)).applyOrder (r.order x.position)).reports
        (gateDefined k ((s.gate k).map GateState.position) x)) := by
    intro ks signs segments named
    refine (upsets_gatePut (r := some r) (x := some x) hk rfl segments named (fun q y hq hy => ?_)
      (tables_change (whole_setGate fun q hq => Option.some.inj hq ▸ hr)) roadSilent
      fun _ => leads_gatePut hk others own).beside (beside_reports_reports (v := gatePut k (some r) (some x) s)
        (w := ((gateSet k r s).withGate k (some x)).applyOrder (r.order x.position)) rfl rfl rfl _)
    obtain rfl := Option.some.inj hq
    obtain rfl := Option.some.inj hy
    exact fit
  cases hq : lookup s.settings.gates k with
  | none =>
    refine (put [r.segment] (ascending 16 r.approach) (fun q h _ => ?_) fun q h j hj bounds => ?_).handOver
    · obtain rfl : r = q := Option.some.inj (h.resolve_left (by simp [hq]))
      exact List.mem_singleton_self _
    · obtain rfl : r = q := Option.some.inj (h.resolve_left (by simp [hq]))
      exact mem_ascending.mpr ⟨bounds, hj⟩
  | some old =>
    have either : ∀ q, lookup s.settings.gates k = some q ∨ some r = some q → q = old ∨ q = r := fun q h =>
      h.imp (fun h => Option.some.inj (h.symm.trans hq)) fun h => (Option.some.inj h).symm
    refine (put (ascending 8 [old.segment, r.segment]) (ascending 16 (old.approach ++ r.approach)) (fun q h bounds => ?_)
      fun q h j hj bounds => ?_).handOver
    · refine mem_ascending.mpr ⟨bounds, ?_⟩
      rcases either q h with rfl | rfl
      · exact List.mem_cons_self
      · exact List.mem_cons_of_mem _ (List.mem_singleton_self _)
    · refine mem_ascending.mpr ⟨bounds, ?_⟩
      rcases either q h with rfl | rfl
      · exact List.mem_append_left _ hj
      · exact List.mem_append_right _ hj

/-! ## REMOVE_GATE (R108) -/

theorem keeps_dropGate (s : State) {k : Nat} {r : GateRecord} (hr : lookup s.settings.gates k = some r)
    (hg : g.whole → s.gate k ≠ none) : Keeps g s (s.dropGate k r) := by
  have hk := lookup_bounds _ hr
  have either : ∀ q, lookup s.settings.gates k = some q ∨ none = some q → q = r := fun q h =>
    Option.some.inj ((h.resolve_right nofun).symm.trans hr)
  refine Upsets.handOver ?_
  refine (upsets_gatePut (r := none) (x := none) (bs := [.gate k ((s.gate k).map GateState.position) none 0 .define]) hk
    rfl (fun q h _ => ?_) (fun q h j hj bounds => ?_) (fun _ _ h => nomatch h)
    (tables_change (whole_setGate fun _ h => nomatch h)) (fun j b hb => ?_)
    fun w => leads_gatePut hk (fun j hj b hb => ?_) ?_).beside (beside_reports_reports (v := gatePut k none none s)
      (w := (((gatePut k none none s).applyOrder (r.outputs.map fun l => (l, false))).withZone k .idle))
      rfl rfl rfl [_])
  · rw [either q h]
    exact List.mem_singleton_self _
  · rw [either q h] at hj
    exact mem_ascending.mpr ⟨bounds, hj⟩
  · obtain rfl := List.mem_singleton.mp hb
    rfl
  · obtain rfl := List.mem_singleton.mp hb
    exact if_neg (Ne.symm hj)
  · refine leads_one (if_pos rfl) ?_
    simpa using hg w

end Sys2Proof.Proofs
end

section
/-! SUPPORT. Signs and what they show are changed (R135 to R139, R142, R145, R146, R154, R167): the signs that read the change
are recomposed, and all else follows its sources as before. -/

namespace Sys2Proof.Proofs

open Sys2Proof Sys2Proof.Machine Sys2Proof.Laws Sys2Proof.Claims

variable {g : Terms} {signs : List Nat} {s t u : State}

/-! ## Signs awaiting their recomposition -/

/-- Two changes one after the other, each leaving at most the same signs to be recomposed. -/
theorem Upsets.chain (h : Upsets g [] signs s t) (k : Upsets g [] signs t u) : Upsets g [] signs s u where
  awaits := by simp
  derived := fun o x hx hf => k.derived o x hx (h.derived o x hx hf)
  gatesWhole := fun w => k.gatesWhole (h.gatesWhole w)
  tables := fun w => k.tables (h.tables w)
  images := fun o w j hj hf => k.images o (h.tables w) j hj (h.images o w j hj hf)
  marks := fun c => (h.marks c).trans (k.marks c)
  tells := fun w c => (h.tells w c).trans (k.tells w c)
  gates := fun o w hs hg => k.gates o (h.tables w) (fun x => h.derived o x List.not_mem_nil (hs x)) (h.gates o w hs hg)

/-- One sign that awaits is recomposed. -/
theorem Upsets.recomposeSign {k : Nat} (h : Upsets g [] [k] s u) : Keeps g s (u.recomposeSign k).1 := by
  have step := unsettles_recomposeSign (g := g) u k
  obtain ⟨x, hx⟩ := recomposeSign_sources u k
  refine ⟨⟨by simp, fun o j hj hf => step.derived o j hj (h.derived o j hj hf), fun w => step.gatesWhole (h.gatesWhole w),
    fun w => step.tables (h.tables w), fun o w j _ hf => ?_, fun c => (h.marks c).trans (step.marks c),
    fun w c => (h.tells w c).trans (step.tells w c)⟩, fun o w hs hg j r y hr hy => ?_⟩
  · by_cases hj : j = k
    · rw [hj]
      exact recomposeSign_follows u k
    · exact recomposeSign_keepsImage u (h.images o w j (by simpa using hj) hf)
  · have settings : (u.recomposeSign k).1.settings = u.settings :=
      congrArg SettingsStore.working (recomposeSign_store u k)
    have gates : (u.recomposeSign k).1.gates = u.gates := congrArg (fun u => u.gates) hx
    have gate : (u.recomposeSign k).1.gate j = u.gate j := congrArg (lookup · j) gates
    have cif : (u.recomposeSign k).1.cif = u.cif := by
      rw [cif_sources, hx]
      rfl
    rw [settings] at hr
    rw [gate] at hy
    rw [cif]
    exact h.gates o w hs hg j r y hr hy

/-- What leaves nothing to be recomposed leaves at most some signs. -/
theorem Keeps.weaken (h : Keeps g s t) : Upsets g [] signs s t :=
  ⟨⟨h.awaits, h.derived, h.gatesWhole, h.tables, fun o w j _ hf => h.images o w j List.not_mem_nil hf, h.marks, h.tells⟩,
    h.gates⟩

/-! ## What the Sign Composer holds for one sign -/

theorem sign_withSign_cases (s : State) {k j : Nat} {d e : SignState} (h : (s.withSign k (some d)).sign j = some e) :
    (j = k ∧ e = d) ∨ s.sign j = some e :=
  (lookup_putItem_cases s.composer.signs k j (some d) e h).imp_left fun ⟨hj, hd⟩ => ⟨hj, (Option.some.inj hd).symm⟩

/-- Pages or mark of a sign change: its image stays, and it awaits its recomposition where its front page changes. -/
theorem upsets_withSign {k : Nat} {c d : SignState} (hc : s.sign k = some c) (hi : d.image = c.image)
    (hf : k ∈ signs ∨ d.front = c.front) (hm : ¬ g.confirms → d.marked = c.marked) :
    Upsets g [] signs s (s.withSign k (some d)) := by
  refine ⟨⟨by simp, fun _ _ _ h => h, id, id, fun _ _ j hj h r e hr he => ?_, fun nc j e he => ?_,
    fun _ _ => .of_silent (bs := []) (by simp) rfl rfl rfl rfl⟩, fun _ _ _ h => h⟩
  · rw [compose_withSign]
    rcases sign_withSign_cases s he with ⟨rfl, rfl⟩ | he
    · rw [hi, hf.resolve_left hj]
      exact h r c hr hc
    · exact h r e hr he
  · rcases sign_withSign_cases s he with ⟨rfl, rfl⟩ | he
    · cases hmark : c.marked with
      | true => exact Or.inl ((hm nc).trans hmark)
      | false => exact Or.inr ⟨c, hc, hmark, by rw [hi]⟩
    · exact Marks.of_signs (s := s) (t := s) rfl j e he

/-- Record and held data of a sign replaced. -/
def signPut (k : Nat) (r : Option SignRecord) (d : Option SignState) (s : State) : State :=
  (s.change (Settings.setSign k r)).withSign k d

/-- Neither a composition nor a derivation reads a sign's record or what is held for it. -/
theorem compose_signPut (s : State) (k : Nat) (r : Option SignRecord) (d : Option SignState) (j : Nat) (q : SignRecord)
    (front : Page) : (signPut k r d s).compose j q front = s.compose j q front := by
  have view : SameView s (signPut k r d s) j q := by
    refine ⟨?_, fun _ _ => ⟨rfl, rfl⟩, rfl, rfl, rfl, rfl⟩
    rfl
  exact view.compose front

theorem segmentFollows_signPut {k j : Nat} {r : Option SignRecord} {d : Option SignState} (h : SegmentFollows s j) :
    SegmentFollows (signPut k r d s) j := by
  have road : SameRoad s (signPut k r d s) j := ⟨rfl, rfl, rfl, rfl⟩
  exact h.congr rfl rfl (funext road.deriveSegment)

/-- A sign is put: the others show what they did, and it itself is marked unless it was there with its identity. -/
theorem upsets_signPut {k : Nat} {r : Option SignRecord} {d : Option SignState} (hk : 1 ≤ k ∧ k ≤ 16)
    (tables : s.TablesWhole → (signPut k r d s).TablesWhole)
    (image : k ∈ signs ∨ ∀ q e, r = some q → d = some e → e.image = s.compose k q e.front)
    (marks : ∀ e, d = some e → e.marked = true ∨
      ∃ c, s.sign k = some c ∧ c.marked = false ∧ e.image.identity = c.image.identity) :
    Upsets g [] signs s (signPut k r d s) := by
  have record : ∀ j, j ≠ k → lookup (putItem s.settings.signs k r) j = lookup s.settings.signs j := fun j hj =>
    lookup_putItem_ne s.settings.signs r hj
  have held : ∀ j, j ≠ k → (signPut k r d s).sign j = s.sign j := fun j hj => lookup_putItem_ne s.composer.signs d hj
  have own : (signPut k r d s).sign k = d := lookup_putItem_self s.composer.signs d hk.1 hk.2
  have silent : Tells s (signPut k r d s) := .of_silent (bs := []) (by simp) rfl rfl rfl rfl
  refine ⟨⟨by simp, fun _ _ _ h => segmentFollows_signPut h, id, tables, fun _ _ j hj h => ?_, fun _ j e he => ?_,
    fun _ _ => silent⟩, fun _ _ _ h => h⟩
  · by_cases hjk : j = k
    · subst hjk
      intro q e hq he
      have recorded : lookup (putItem s.settings.signs j r) j = some q := hq
      rw [lookup_putItem_self s.settings.signs r hk.1 hk.2] at recorded
      rw [own] at he
      rw [compose_signPut, image.resolve_left hj q e recorded he]
      exact ⟨rfl, rfl, compose_slots s j q e.front⟩
    · exact imageFollows_congr (s := s) (record j hjk) (held j hjk) (fun q c _ _ => compose_signPut s k r d j q c.front) h
  · by_cases hjk : j = k
    · subst hjk
      exact marks e (own.symm.trans he)
    · rw [held j hjk] at he
      exact Marks.of_signs (s := s) (t := s) rfl j e he

/-! ## DEFINE_SIGN and REMOVE_SIGN (R135 to R137, R175, R176) -/

theorem whole_setSign {c : Settings} {k : Nat} {r : SignRecord} (hn : SignNamesDefined c r) (hf : SignFree c k r)
    (h : c.Whole) : (c.setSign k (some r)).Whole := by
  obtain ⟨⟨gates, signs⟩, levels⟩ := h
  refine ⟨⟨fun j q hq => ?_, fun j q hq => ?_⟩, levels⟩
  · obtain ⟨segment, some_, approach⟩ := gates j q hq
    refine ⟨segment, some_, fun x hx => ?_⟩
    obtain ⟨p, hp, hm⟩ := approach x hx
    by_cases hxk : x = k
    · subst hxk
      have bounds := lookup_bounds _ hp
      exact ⟨r, lookup_putItem_self c.signs _ bounds.1 bounds.2, hf.2 j q hq hx⟩
    · exact ⟨p, (lookup_putItem_ne c.signs _ hxk).trans hp, hm⟩
  · rcases lookup_putItem_cases c.signs k j (some r) q hq with ⟨-, own⟩ | other
    · exact Option.some.inj own ▸ hn
    · exact signs j q other

theorem keeps_newSign (s : State) {k : Nat} {r : SignRecord} (hk : 1 ≤ k ∧ k ≤ 16)
    (hn : SignNamesDefined s.settings r) (hf : SignFree s.settings k r) : Keeps g s (s.newSign k r) := by
  have put : Keeps g s (signPut k (some r) (some ⟨.transparent, .transparent, s.compose k r .transparent, true⟩) s) := by
    refine upsets_signPut hk (tables_change (whole_setSign hn hf)) (Or.inr fun q e hq he => ?_) fun e he => ?_
    · cases hq
      cases he
      rfl
    · cases he
      exact Or.inl rfl
  have handed : s.newSign k r = ((signPut k (some r)
      (some ⟨.transparent, .transparent, s.compose k r .transparent, true⟩) s).withPanel k
        (some PanelRecord.fresh)).handMarks [k] := rfl
  rw [handed]
  exact (put.beside (beside_withPanel _ k _)).beside (beside_handMarks _ [k])

theorem beside_reportSign (s : State) (k : Nat) (e : SignEvent) : Beside s (s.reportSign k e) := by
  unfold State.reportSign
  split
  · exact beside_report s _ id
  · exact .refl s

theorem keeps_movePanel (s : State) (k : Nat) : Keeps g s (s.movePanel k) := by
  have fresh := (beside_orphan s k).trans (beside_withPanel (s.orphan k) k (some PanelRecord.fresh))
  exact Keeps.trans (fresh.trans (Beside.ite (beside_reportSign _ k .moved) (.refl _))).keeps (keeps_tellSign _ k)

theorem keeps_redefineSign (s : State) {k : Nat} {old r : SignRecord} {c : SignState} (hk : 1 ≤ k ∧ k ≤ 16)
    (hc : s.sign k = some c) (hn : SignNamesDefined s.settings r) (hf : SignFree s.settings k r) :
    Keeps g s (s.redefineSign k old r c) := by
  have put : Upsets g [] [k] s (signPut k (some r) (some (c.refit r (r.movedFrom old))) s) := by
    refine upsets_signPut hk (tables_change (whole_setSign hn hf)) (Or.inl (List.mem_singleton_self k)) fun e he => ?_
    cases he
    cases hm : c.marked with
    | true => exact Or.inl (by simp [SignState.refit, hm])
    | false => exact Or.inr ⟨c, hc, hm, rfl⟩
  have moved : ∀ u : State, Keeps g u (if r.movedFrom old then u.movePanel k else u) := fun u =>
    Keeps.ite (fun _ => keeps_movePanel u k) fun _ => .refl u
  exact (put.recomposeSign.trans (moved _)).beside (beside_handMarks _ _)

theorem keeps_dropSign (s : State) {k : Nat} (hk : 1 ≤ k ∧ k ≤ 16)
    (hn : ∀ j q, lookup s.settings.gates j = some q → k ∉ q.approach) : Keeps g s (s.dropSign k) := by
  have drop : ∀ u : State, u.settings = s.settings → Keeps g u
      (((u.orphan k).change (Settings.withoutSign k)).withSign k none) := by
    intro u hu
    have orphaned := beside_orphan u k
    refine orphaned.upsets ?_
    have gates : (u.orphan k).settings.gates = s.settings.gates := orphaned.gateRecords.trans (by rw [hu])
    refine Upsets.beside (t := signPut k none none (u.orphan k)) (upsets_signPut hk (tables_change ?_)
      (Or.inr fun _ _ h => nomatch h) fun _ h => nomatch h) ?_
    · rintro ⟨⟨guarded, announced⟩, levels⟩
      refine ⟨⟨fun j q hq => ?_, fun j q hq => ?_⟩, levels⟩
      · obtain ⟨segment, some_, approach⟩ := guarded j q hq
        refine ⟨segment, some_, fun x hx => ?_⟩
        obtain ⟨p, hp, hm⟩ := approach x hx
        have other : x ≠ k := fun e => hn j q (gates ▸ hq) (e ▸ hx)
        exact ⟨p, (lookup_putItem_ne (u.orphan k).settings.signs _ other).trans hp, hm⟩
      · rcases lookup_putItem_cases (u.orphan k).settings.signs k j none q hq with ⟨-, own⟩ | other
        · cases own
        · exact announced j q other
    · exact .of_records rfl rfl id
  have reported : Beside s (if s.inFault k then s.reportSign k .removed else s) :=
    Beside.ite (beside_reportSign s k .removed) (.refl s)
  have settings : (if s.inFault k then s.reportSign k .removed else s).settings = s.settings := by
    split
    · unfold State.reportSign
      split <;> rfl
    · rfl
  exact (reported.upsets (drop _ settings)).beside (beside_withPanel _ k none)

/-! ## Profiles (R138, R139) -/

theorem upsets_setProfile {k : Nat} {r : Option ProfileRecord} (hf : ∀ j ∈ s.settings.following k, j ∈ signs)
    (tables : s.settings.Whole → (s.settings.setProfile k r).Whole) :
    Upsets g [] signs s (s.change (Settings.setProfile k r)) := by
  refine Revises.upsets ⟨rfl, rfl, rfl, rfl, rfl, fun _ => rfl, fun _ _ _ _ => ⟨rfl, rfl, rfl, rfl, rfl⟩,
    fun _ _ j q hj hq => ⟨rfl, fun _ _ => ⟨rfl, rfl⟩, ?_, rfl, rfl, rfl⟩, tables_change tables, rfl, ⟨[], by simp, rfl⟩⟩
  have other : q.profile ≠ k := fun e => hj (hf j (mem_following.mpr ⟨q, hq, e⟩))
  exact congrArg (Option.getD · _) (lookup_putItem_ne s.settings.profiles r other)

theorem keeps_putProfile (s : State) (k : Nat) (r : ProfileRecord) : Keeps g s (s.putProfile k r) := by
  refine Upsets.recompose (upsets_setProfile (fun _ h => h) ?_)
  rintro ⟨⟨gates, signs⟩, levels⟩
  exact ⟨⟨gates, fun j q hq => (signs j q hq).imp_left (isSome_putItem s.settings.profiles k r)⟩, levels⟩

theorem keeps_dropProfile (s : State) {k : Nat} (hn : ∀ j q, lookup s.settings.signs j = some q → q.profile ≠ k) :
    Keeps g s (s.change (Settings.setProfile k none)) := by
  refine upsets_setProfile (fun j hj => ?_) ?_
  · obtain ⟨q, hq, e⟩ := mem_following.mp hj
    exact absurd e (hn j q hq)
  · rintro ⟨⟨gates, signs⟩, levels⟩
    refine ⟨⟨gates, fun j q hq => (signs j q hq).imp_left fun h => ?_⟩, levels⟩
    show (lookup (putItem s.settings.profiles k none) q.profile).isSome = true
    rw [lookup_putItem_ne s.settings.profiles _ (hn j q hq)]
    exact h

/-! ## Pages (R145, R146) -/

theorem upsets_changePages {f : SignRecord → SignState → SignState} (hi : ∀ r c, (f r c).image = c.image)
    (hm : ∀ r c, (f r c).marked = c.marked) (ks : List Nat)
    (hf : ∀ k ∈ ks, 1 ≤ k ∧ k ≤ 16 → k ∈ signs ∨ ∀ r c, (f r c).front = c.front) (s : State) :
    Upsets g [] signs s (ks.foldl (State.changePages f) s) := by
  induction ks generalizing s with
  | nil => exact (Keeps.refl s).weaken
  | cons k ks ih =>
    refine Upsets.chain (t := s.changePages f k) ?_ (ih (fun j hj => hf j (List.mem_cons_of_mem k hj)) _)
    unfold State.changePages
    split
    · rename_i r c hr hc
      exact upsets_withSign hc (hi r c) ((hf k List.mem_cons_self (lookup_bounds _ hc)).imp_right fun h => h r c)
        fun _ => hm r c
    · exact (Keeps.refl s).weaken

theorem keeps_writePages (s : State) (page : Page) (ks : List Nat) :
    Keeps g s (ks.foldl (State.changePages (writeBack page)) s) :=
  upsets_changePages (f := writeBack page) (fun _ _ => rfl) (fun _ _ => rfl) ks (fun _ _ _ => Or.inr fun _ _ => rfl) s

theorem keeps_swapPages (s : State) (ks : List Nat) :
    Keeps g s ((ks.foldl (State.changePages swapPages) s).recompose (ascending 16 ks)) :=
  Upsets.recompose (upsets_changePages (f := swapPages) (fun _ _ => rfl) (fun _ _ => rfl) ks
    (fun _ hk bounds => Or.inl (mem_ascending.mpr ⟨bounds, hk⟩)) s)

end Sys2Proof.Proofs
end

section
/-! SUPPORT. Texts and readouts change (R142, R154): a sign that draws none of what changed shows what it showed. -/

namespace Sys2Proof.Proofs

open Sys2Proof Sys2Proof.Machine Sys2Proof.Laws Sys2Proof.Claims

variable {g : Terms} {s u : State}

/-- What a draft's lines are drawn from. -/
def LinesFrom (P : LineSource → Prop) (ls : List (Option (Layer × LineSource))) : Prop :=
  ∀ layer src, some (layer, src) ∈ ls → P src

/-- What a line of a sign reads (R157). -/
def drawnLine (s : State) (length : Nat) (l : Option (Layer × LineSource)) : List Code :=
  match l with
  | some (_, src) => fitLine length (s.sourceText src)
  | none => fitLine length []

/-- The image of a draft whose lines read as given (R158). -/
def imageOf (segment : Option Nat) (d : Draft) (lines : List (List Code)) : Image :=
  let cells := d.cells.map fun c => (c.map Prod.snd).getD 0
  ⟨cells, lines, ⟨d.cells.map (Option.map Prod.fst), d.lines, segment⟩, imageIdentity segment cells lines⟩

theorem render_eq (s : State) (n : Nat) (x : Option Nat) (d : Draft) :
    s.render n x d = imageOf x d (d.lines.map (drawnLine s n)) := by
  have cells : (d.cells.map fun c : Option (Layer × Nat) => (c.map Prod.snd).getD 0) = (s.render n x d).cells :=
    List.map_congr_left fun c _ => by cases c <;> rfl
  unfold imageOf
  dsimp only
  rw [cells]
  rfl

/-- A draft that draws its lines from sources with the same texts renders to the same image. -/
theorem render_congr {d : Draft} (n : Nat) (x : Option Nat)
    (h : LinesFrom (fun src => u.sourceText src = s.sourceText src) d.lines) : u.render n x d = s.render n x d := by
  have lines : d.lines.map (drawnLine u n) = d.lines.map (drawnLine s n) := by
    refine List.map_congr_left fun l hl => ?_
    cases l with
    | none => rfl
    | some x => exact congrArg (fitLine n) (h x.1 x.2 hl)
  rw [render_eq, render_eq, lines]

/-! ## TEXT_LOAD (R142) -/

theorem storeTexts_of_outside (texts : Vector (List Code) 256) (entry : Nat) (ts : List (List Code)) {n : Nat}
    (h : n < entry ∨ entry + ts.length ≤ n) : (storeTexts texts entry ts)[n]? = texts[n]? := by
  induction ts generalizing texts entry with
  | nil => rfl
  | cons t ts ih =>
    rw [List.length_cons] at h
    rw [storeTexts, ih _ _ (by omega), Vector.getElem?_setIfInBounds_ne (by omega)]

/-- An entry that a load does not change holds the text it held. -/
theorem storeTexts_of_unchanged {texts : Vector (List Code) 256} {entry n : Nat} {ts : List (List Code)}
    (h : n ∉ changedEntries texts (storeTexts texts entry ts) entry (min ts.length (256 - entry))) :
    (storeTexts texts entry ts)[n]? = texts[n]? := by
  by_cases inside : entry ≤ n ∧ n < entry + ts.length ∧ n < 256
  · by_contra hne
    refine h (List.mem_filter.mpr ⟨List.mem_range'_1.mpr ?_, bne_iff_ne.mpr (Ne.symm hne)⟩)
    omega
  · by_cases out : 256 ≤ n
    · rw [Vector.getElem?_eq_none out, Vector.getElem?_eq_none out]
    · exact storeTexts_of_outside texts entry ts (by omega)

/-- The settings with other texts. -/
def withTexts (texts : Vector (List Code) 256) (s : State) : State := s.change fun c => { c with texts := texts }

/-- A line source that draws on none of the changed entries has the text it had. -/
theorem sourceText_withTexts {texts : Vector (List Code) 256} {es : List Nat}
    (h : ∀ n, n ∉ es → texts[n]? = s.settings.texts[n]?) {src : LineSource} (hd : src.drawsOn es = false) :
    (withTexts texts s).sourceText src = s.sourceText src := by
  have text : ∀ n, es.contains n = false → (withTexts texts s).settings.text n = s.settings.text n := fun n hn =>
    congrArg (Option.getD · []) (h n (by simpa using hn))
  cases src with
  | entry n => exact text n hd
  | temperature => exact congrArg (· ++ _) (text 253 hd)
  | wind => exact congrArg (· ++ _) (text 254 hd)

theorem keeps_loadTexts (s : State) (entry : Nat) (ts : List (List Code)) : Keeps g s (s.loadTexts entry ts) := by
  have unchanged := fun n => storeTexts_of_unchanged (texts := s.settings.texts) (entry := entry) (n := n) (ts := ts)
  generalize hes : changedEntries s.settings.texts (storeTexts s.settings.texts entry ts) entry
    (min ts.length (256 - entry)) = es at unchanged
  have drawn : s.loadTexts entry ts = (withTexts (storeTexts s.settings.texts entry ts) s).recompose (s.drawing es) := by
    rw [← hes]
    rfl
  rw [drawn]
  generalize storeTexts s.settings.texts entry ts = texts at unchanged
  have road : ∀ k, SameRoad s (withTexts texts s) k := fun k => ⟨rfl, rfl, rfl, rfl⟩
  refine Upsets.recompose ⟨⟨by simp, fun _ k _ h => h.congr rfl rfl (funext (road k).deriveSegment), id,
    tables_change id, fun _ _ j hj hf => ?_, fun _ => .of_signs rfl,
    fun _ _ => .of_silent (bs := []) (by simp) rfl rfl rfl rfl⟩, fun _ _ _ h => h⟩
  refine imageFollows_congr (s := s) rfl rfl (fun r c hr hc => ?_) hf
  obtain ⟨-, claims, -⟩ := hf r c hr hc
  have lines : c.image.claims.lines = (s.draft j r c.front).lines := congrArg Claims.lines claims
  have bounds := lookup_bounds _ hc
  have undrawn : (c.image.claims.lines.any fun l => match l with
      | some x => x.2.drawsOn es
      | none => false) = false := by
    by_contra hd
    refine hj (List.mem_filter.mpr ⟨mem_numbers.mpr bounds, ?_⟩)
    rw [hc]
    exact Bool.eq_true_of_not_eq_false hd
  rw [lines] at undrawn
  refine render_congr _ _ fun layer src hm => sourceText_withTexts unchanged ?_
  exact Bool.eq_false_iff.mpr (List.any_eq_false.mp undrawn _ hm)

/-! ## Readouts (R43, R153, R154) -/

theorem claimAt_from {P : LineSource → Prop} {x : Layer × LineSource} (hx : P x.2) (i : Nat)
    (ls : List (Option (Layer × LineSource))) (h : LinesFrom P ls) : LinesFrom P (claimAt i x ls) := by
  intro layer src hm
  have either : some (layer, src) = some x ∨ some (layer, src) ∈ ls := by
    clear h
    fun_induction claimAt i x ls with
    | case1 => exact Or.inr hm
    | case2 => grind
    | case3 => grind
    | case4 => grind
  rcases either with e | hm
  · obtain rfl := Option.some.inj e
    exact hx
  · exact h layer src hm

theorem claimFirst_from {P : LineSource → Prop} {x : Layer × LineSource} (hx : P x.2)
    (ls : List (Option (Layer × LineSource))) (h : LinesFrom P ls) : LinesFrom P (claimFirst x ls) := by
  intro layer src hm
  have either : some (layer, src) = some x ∨ some (layer, src) ∈ ls := by
    clear h
    fun_induction claimFirst x ls with
    | case1 => exact Or.inr hm
    | case2 => grind
    | case3 => grind
  rcases either with e | hm
  · obtain rfl := Option.some.inj e
    exact hx
  · exact h layer src hm

theorem claimPage_from {P : LineSource → Prop} (hx : ∀ n, P (.entry n)) (contents : List (Option Nat))
    (ls : List (Option (Layer × LineSource))) (h : LinesFrom P ls) :
    LinesFrom P (claimPage (fun n => (.base, .entry n)) contents ls) := by
  intro layer src hm
  have either : (∃ n, src = .entry n) ∨ some (layer, src) ∈ ls := by
    clear h
    fun_induction claimPage (fun n => ((.base : Layer), LineSource.entry n)) contents ls with
    | case1 => exact Or.inr hm
    | case2 => exact Or.inr hm
    | case3 rest c cs ih => cases c <;> grind
    | case4 => grind
  rcases either with ⟨n, rfl⟩ | hm
  · exact hx n
  · exact h layer src hm

/-- Without the weather layer a sign draws its lines from text entries (R148 to R153). -/
theorem draft_lines_from {P : LineSource → Prop} (hx : ∀ n, P (.entry n)) (s : State) (j : Nat) (r : SignRecord)
    (front : Page) (hw : (s.settings.profileOf r).weather = false) : LinesFrom P (s.draft j r front).lines := by
  have closure : ∀ style o d, LinesFrom P d.lines → LinesFrom P (closureLayer s style o d).lines := by
    intro style o d hd
    cases o with
    | none => exact hd
    | some k =>
      have top := claimAt_from (x := (.closure, .entry (closureText (s.governing .closure k)))) (hx _) 0 _ hd
      cases style with
      | top => exact top
      | full =>
        exact claimAt_from (x := (.closure, .entry _)) (hx _) 2 _ (claimAt_from (x := (.closure, .entry _)) (hx _) 1 _ top)
  have pair : ∀ (d : Draft) layer p e, LinesFrom P d.lines → LinesFrom P (d.claimPair layer p e).lines :=
    fun d layer p e hd => claimFirst_from (x := (layer, .entry e)) (hx e) _ hd
  have hazard : ∀ p d, LinesFrom P d.lines → LinesFrom P (hazardLayer s p r d).lines := by
    intro p d hd
    unfold hazardLayer
    dsimp only
    split
    · exact pair _ _ _ _ hd
    · exact hd
  have restriction : ∀ p d, LinesFrom P d.lines → LinesFrom P (restrictionLayer s p r d).lines := by
    intro p d hd
    unfold restrictionLayer
    split
    · split
      · exact pair _ _ _ _ hd
      · exact hd
    · exact hd
  have base : ∀ p d, LinesFrom P d.lines → LinesFrom P (baseLayer p front d).lines := by
    intro p d hd
    unfold baseLayer
    split
    · exact claimPage_from hx _ _ hd
    · exact hd
  have empty : LinesFrom P (Draft.empty r).lines := fun layer src hm => by
    cases List.eq_of_mem_replicate hm
  unfold State.draft weatherLayer
  dsimp only
  rw [if_neg (by simp [hw])]
  exact base _ _ (restriction _ _ (hazard _ _ (closure _ _ _ empty)))

theorem keeps_takeReadouts (s : State) (x : StepRecord) : Keeps g s (s.takeReadouts x) := by
  have road : ∀ k, SameRoad s (withReadouts x s) k := fun k => ⟨rfl, rfl, rfl, rfl⟩
  have weather : Upsets g [] s.settings.weatherSigns s (withReadouts x s) := by
    refine ⟨⟨by simp, fun _ k _ h => h.congr rfl rfl (funext (road k).deriveSegment), id, id, fun _ _ j hj hf => ?_,
      fun _ => .of_signs rfl, fun _ _ => .of_silent (bs := []) (by simp) rfl rfl rfl rfl⟩, fun _ _ _ h => h⟩
    refine imageFollows_congr (s := s) rfl rfl (fun r c hr hc => ?_) hf
    have off : (s.settings.profileOf r).weather = false := by
      by_contra hw
      refine hj (List.mem_filter.mpr ⟨mem_numbers.mpr (lookup_bounds _ hr), ?_⟩)
      rw [hr]
      exact Bool.eq_true_of_not_eq_false hw
    exact render_congr _ _ (draft_lines_from (fun _ => rfl) s j r c.front off)
  exact weather.recompose

end Sys2Proof.Proofs
end

section
/-! SUPPORT. The station line and the strings work beside the sources (R165 to R169, R180 to R182, R191 to R193); a
confirmation takes the mark off a sign, and the step end takes new figures and readouts (R23, R43, R54, R167). -/

namespace Sys2Proof.Proofs

open Sys2Proof Sys2Proof.Machine Sys2Proof.Laws Sys2Proof.Claims

variable {g : Terms} (s : State)

/-! ## The station line -/

theorem beside_checkSilence : Beside s s.checkSilence := by
  unfold State.checkSilence
  refine Beside.ite ((beside_withLine s { s.line with attended := false } ?_).trans (beside_report _ _ id)) (.refl s)
  rfl

theorem beside_setLink (limit : Nat) (auto : AutoClose) : Beside s (s.setLink limit auto) :=
  (beside_change s (fun c => { c with silenceLimit := limit, autoClose := auto }) rfl).trans (beside_checkSilence _)

theorem beside_heard : Beside s s.heard := by
  have attended : Beside s ((s.withLine { s.line with attended := true }).report (.linkAttended s.silence)) := by
    refine (beside_withLine s { s.line with attended := true } ?_).trans (beside_report _ _ id)
    rfl
  exact (Beside.ite (.refl s) attended).trans (beside_withLine _ _ rfl)

theorem beside_receiveByte (b : Byte) : Beside s (s.receiveByte b) := by
  unfold State.receiveByte
  dsimp only
  have taken : ∀ r, Beside s (s.withLine { s.line with receiver := r, lastByte := s.now }) := fun r =>
    beside_withLine s _ rfl
  split
  · exact taken _
  · exact (taken _).trans ((beside_heard _).trans (beside_joinQueue _ _))

theorem beside_receiveBytes (bs : List Byte) : Beside s (s.receiveBytes bs) := by
  unfold State.receiveBytes
  split
  · exact .refl s
  · exact (Beside.ite (beside_dropFrame s) (.refl s)).trans (Beside.foldl beside_receiveByte _ _)

/-! ## The step end -/

theorem keeps_endStep : Keeps g s s.endStep := by
  have closed : Beside s ((s.closeStep s.stepRecord).emptyChannels.report s.stepRecord.report) :=
    Beside.trans (t := (s.closeStep s.stepRecord).emptyChannels) (.of_records rfl rfl id) (beside_report _ _ id)
  obtain ⟨w, hw⟩ : ∃ w, s.stepRecord.entries = (entries s.settings.paths).map (s.pathEntry w) := ⟨_, rfl⟩
  have entered : s.stepRecord.entries =
      (entries ((s.closeStep s.stepRecord).emptyChannels.report s.stepRecord.report).settings.paths).map
        (((s.closeStep s.stepRecord).emptyChannels.report s.stepRecord.report).pathEntry w) := by
    rw [hw, closed.pathRecords]
    unfold State.pathEntry State.figures
    rw [closed.figures]
  refine closed.keeps.trans (Keeps.trans (t := ((s.closeStep s.stepRecord).emptyChannels.report
    s.stepRecord.report).takeIndices s.stepRecord.entries) ?_ (keeps_takeReadouts _ _))
  rw [entered]
  exact keeps_takeIndices _ w

/-! ## Strings -/

/-- A confirmation takes no more than the mark (R167). -/
theorem confirm_image (c : SignState) (sent : Image) :
    (c.confirm sent).image = c.image ∧ (c.confirm sent).front = c.front := by
  unfold SignState.confirm
  split
  · exact ⟨rfl, rfl⟩
  · exact ⟨rfl, rfl⟩

theorem keeps_succeed (hg : g.confirms) (x : StringId) (a : Attempt) : Keeps g s (s.succeed x a) := by
  unfold State.succeed
  split
  · exact (beside_endTransfer s x).keeps
  · split
    · rename_i p c _ hc
      have shown := beside_withPanel s a.sign (some (p.confirm a.sent s.now))
      have confirmed : Keeps g (s.withPanel a.sign (some (p.confirm a.sent s.now)))
          ((s.withPanel a.sign (some (p.confirm a.sent s.now))).withSign a.sign (some (c.confirm a.sent))) :=
        upsets_withSign hc (confirm_image c a.sent).1 (Or.inr (confirm_image c a.sent).2) (absurd hg)
      refine Keeps.trans (shown.keeps.trans confirmed) ?_
      exact Keeps.trans (Beside.ite (beside_reportSign _ _ _) (.refl _)).keeps
        ((keeps_tellSign _ _).trans (beside_endTransfer _ x).keeps)
    · exact (beside_endTransfer s x).keeps

theorem keeps_failAttempt (x : StringId) (a : Attempt) (c : Failure) : Keeps g s (s.failAttempt x a c) := by
  unfold State.failAttempt
  split
  · exact (beside_endTransfer s x).keeps
  · split
    · exact (beside_endTransfer s x).keeps
    · have failed := fun p => (beside_withPanel s a.sign p).keeps (g := g)
      refine Keeps.ite (fun _ => (failed _).trans (beside_endTransfer _ x).keeps) fun _ => ?_
      refine Keeps.ite (fun _ => (failed _).trans (beside_beginAttempt _ x _ _).keeps) fun _ => ?_
      exact ((failed _).trans (beside_reportSign _ _ _).keeps).trans
        ((keeps_tellSign _ _).trans (beside_endTransfer _ x).keeps)

theorem keeps_takeVerdict (hg : g.confirms) (x : StringId) (a : Attempt) (windowEnd : Moment) (v : Verdict) :
    Keeps g s (s.takeVerdict x a windowEnd v) := by
  cases v with
  | reading received => exact (beside_withTransfer s x _).keeps
  | success => exact keeps_succeed s hg x a
  | failed cause => exact keeps_failAttempt s x a cause

theorem keeps_stringByte (hg : g.confirms) (x : StringId) (b : Option Byte) : Keeps g s (s.stringByte x b) := by
  unfold State.stringByte
  split
  · exact .refl s
  · split
    · exact .refl s
    · exact Keeps.ite (fun _ => .refl s) fun _ => keeps_takeVerdict s hg x _ _ _

theorem keeps_stringBytes (hg : g.confirms) (x : StringId) (bs : List (Option Byte)) : Keeps g s (s.stringBytes x bs) :=
  Keeps.foldl (fun u b => keeps_stringByte u hg x b) bs s

theorem keeps_windowEnds (x : StringId) : Keeps g s (s.windowEnds x) := by
  unfold State.windowEnds
  split
  · exact .refl s
  · split
    · exact .refl s
    · exact Keeps.ite (fun _ => keeps_failAttempt s x _ _) fun _ => .refl s

end Sys2Proof.Proofs
end

section
/-! SUPPORT. What the requests keep (R18, R50 to R53, R58, R69, R73, R78, R99 to R102, R106 to R108, R129, R130, R135 to
R146, R193, R201): each is refused, or its checks give what its effect needs. -/

namespace Sys2Proof.Proofs

open Sys2Proof Sys2Proof.Machine Sys2Proof.Laws Sys2Proof.Claims

/-! ## What is given where a command is carried out -/

/-- What the terms promise of a state: no notice number twice, and all whole. -/
structure Given (g : Terms) (s : State) : Prop where
  numbers : g.once → (s.retained.notices.map Notice.number).Nodup
  whole : g.whole → s.GatesWhole ∧ s.SegmentsFollow ∧ s.TablesWhole

theorem Given.beside {g : Terms} {s t : State} (h : Given g s) (k : Beside s t) : Given g t where
  numbers := fun o => by rw [k.notices]; exact h.numbers o
  whole := fun w => by
    obtain ⟨gates, segments, tables⟩ := h.whole w
    exact ⟨k.keeps.gatesWhole (g := g) gates, (k.keeps (g := ⟨True, False, False, False⟩)).segmentsFollow trivial segments,
      k.tables tables⟩

/-! ## Checks that are met -/

theorem met_of_firstUnmet_none {checks : List Condition} (h : FirstUnmet checks none) : ∀ c ∈ checks, c.met := by
  induction checks with
  | nil => simp
  | cons c rest ih =>
    obtain ⟨-, e⟩ | ⟨met, later⟩ := h
    · cases e
    · exact List.forall_mem_cons.mpr ⟨met, ih later⟩

/-- Where no check is found unmet, each is met. -/
theorem met_of_finds {checks : List Condition} (h : Finds none checks) : ∀ c ∈ checks, c.met := by
  obtain ⟨o, ho⟩ := exists_firstUnmet checks
  rw [h o ho] at ho
  exact met_of_firstUnmet_none ho

theorem segmentRefusal_none {f : List Byte} (h : segmentRefusal f = none) :
    (1 ≤ byteAt f 0 ∧ byteAt f 0 ≤ 8) ∧
      1 ≤ (segmentOf f).caution ∧ (segmentOf f).caution ≤ (segmentOf f).permit ∧ (segmentOf f).permit ≤ 4 := by
  have met := met_of_finds (h ▸ finds_segment f)
  simp only [List.forall_mem_cons, needs] at met
  obtain ⟨-, ⟨low, high, levels⟩, -⟩ := met
  exact ⟨⟨low, high⟩, levels⟩

theorem pathRefusal_none {c : Settings} {f : List Byte} (h : pathRefusal c f = none) :
    1 ≤ byteAt f 0 ∧ byteAt f 0 ≤ 12 := by
  have met := met_of_finds (h ▸ finds_path c f)
  simp only [List.forall_mem_cons, needs] at met
  obtain ⟨-, ⟨⟨low, high, -⟩, -⟩, -⟩ := met
  exact ⟨low, high⟩

/-- A record that DEFINE GATE accepts names what is defined, and a sign at least. -/
theorem namesGate_of_accepted {s : State} {f : List Byte} (h : s.gateRefusal f = none) :
    NamesGate s.settings (gateOf f) := by
  have met := met_of_finds (h ▸ finds_gate s f (still := ¬ ((lookup s.settings.gates (byteAt f 0)).isSome &&
    s.gateInMotion (byteAt f 0)) = true) not_not.symm)
  simp only [List.forall_mem_cons, needs] at met
  obtain ⟨size, ⟨-, low, high⟩, ⟨segment, signs⟩, announces, -⟩ := met
  refine ⟨segment, fun empty => ?_, fun j hj => ?_⟩
  · have count : (gateOf f).approach.length = min (byteAt f 13) 3 := bytesAt_length (by omega)
    rw [empty, List.length_nil] at count
    omega
  · obtain ⟨q, hq⟩ := Option.isSome_iff_exists.mp (signs j hj)
    obtain hn := announces j hj
    exact ⟨q, hq, by simpa [hq] using hn⟩

theorem checkSign_ok {c : Settings} {f : List Byte} {r : SignRecord} (h : checkSign c f = .ok r) :
    (1 ≤ byteAt f 0 ∧ byteAt f 0 ≤ 16) ∧ SignNamesDefined c r ∧ SignFree c (byteAt f 0) r := by
  unfold checkSign at h
  split at h
  · cases h
  · split at h
    · cases h
    · rename_i q _
      split at h
      · cases h
      · rename_i range
        split at h
        · cases h
        · rename_i names
          split at h
          · cases h
          · rename_i free
            obtain rfl : q = r := by injection h
            obtain ⟨low, high, -⟩ := not_not.mp ((not_iff_of (signInRange_iff (byteAt f 0) q)).not.mp range)
            exact ⟨⟨low, high⟩, not_not.mp ((signNames_iff _ _).not.mp names),
              (signFree_iff _ _ _).mp (Bool.eq_false_iff.mpr free)⟩

/-! ## The requests -/

section
variable {g : Terms} (f : List Byte) {s : State}

theorem keeps_removeItem {α : Type} {n k : Nat} {table : Vector (Option α) n} {act : α → State → State × Answer}
    (h : ∀ r, lookup table k = some r → Keeps g s (act r s).1) : Keeps g s (removeItem k table act s).1 :=
  keep_removeItem (P := Keeps g s) h (.refl s)

theorem keeps_noticePost (hg : Given g s) : Keeps g s (carryNoticePost f s).1 := by
  unfold carryNoticePost
  split
  · exact .refl s
  · split
    · exact .refl s
    · exact keeps_post s _ hg.numbers

theorem keeps_noticeWithdraw (hg : Given g s) : Keeps g s (carryNoticeWithdraw f s).1 := by
  unfold carryNoticeWithdraw
  split
  · exact .refl s
  · split
    · exact .refl s
    · exact keeps_withdraw s (findNotice_some ‹_›).1 hg.numbers

theorem keeps_pathFloor (s : State) : Keeps g s (carryPathFloor f s).1 := by
  unfold carryPathFloor
  split
  · exact .refl s
  · exact keeps_postFloor s _ _ _

theorem keeps_definePath (s : State) : Keeps g s (carryDefinePath f s).1 := by
  unfold carryDefinePath
  split
  · exact .refl s
  · exact keeps_putPath s _ (pathRefusal_none ‹_›)

theorem keeps_removePath (k : Nat) (s : State) : Keeps g s (carryRemovePath k s).1 :=
  keeps_removeItem fun _ hr => keeps_dropPath s hr

theorem keeps_putSegment (hg : Given g s) {k : Nat} {r : SegmentRecord} (hk : 1 ≤ k ∧ k ≤ 8)
    (hl : 1 ≤ r.caution ∧ r.caution ≤ r.permit ∧ r.permit ≤ 4) : Keeps g s (s.putSegment k r) := by
  unfold State.putSegment
  split
  · rename_i undefined
    refine keeps_newSegment s hk undefined hl fun w => ?_
    obtain ⟨-, follows, -⟩ := hg.whole w
    exact (follows k).trans (by rw [undefined]; rfl)
  · exact keeps_redefineSegment s ‹_› hl

theorem keeps_defineSegment (hg : Given g s) : Keeps g s (carryDefineSegment f s).1 := by
  unfold carryDefineSegment
  split
  · exact .refl s
  · obtain ⟨bounds, levels⟩ := segmentRefusal_none ‹_›
    exact keeps_putSegment hg bounds levels

theorem keeps_removeSegment (hg : Given g s) (k : Nat) : Keeps g s (carryRemoveSegment k s).1 := by
  refine keeps_removeItem fun r hr => ?_
  split
  · exact .refl s
  · rename_i unnamed
    have hn : s.segmentNamed k = false := Bool.eq_false_iff.mpr unnamed
    refine keeps_dropSegment s hr hn fun w => ?_
    obtain ⟨-, follows, ⟨-, levels⟩, -⟩ := hg.whole w
    exact free_of_unnamed hr hn (levels k r hr).1 (follows k)

theorem keeps_defineGate (s : State) : Keeps g s (carryDefineGate f s).1 := by
  unfold carryDefineGate
  split
  · exact .refl s
  · rename_i accepted
    obtain ⟨bounds, -⟩ := gateRefusal_none accepted
    exact keeps_putGate s bounds (namesGate_of_accepted accepted)

theorem keeps_removeGate (hg : Given g s) (k : Nat) : Keeps g s (carryRemoveGate k s).1 := by
  refine keeps_removeItem fun r hr => ?_
  split
  · exact .refl s
  · refine keeps_dropGate s hr fun w none => ?_
    obtain ⟨gates, -⟩ := hg.whole w
    have both := gates k
    rw [none, hr] at both
    cases both

theorem keeps_gateRequest {act : Nat → GateRecord → GateState → State → State × Answer}
    (h : ∀ k r x, lookup s.settings.gates k = some r → s.gate k = some x → Keeps g s (act k r x s).1) :
    Keeps g s (gateRequest f act s).1 := by
  unfold gateRequest
  split
  · exact .refl s
  · split
    · exact .refl s
    · split
      · exact h _ _ _ ‹_› ‹_›
      · exact .refl s

theorem keeps_gateRaise (s : State) : Keeps g s (carryGateRaise f s).1 := by
  refine keeps_gateRequest f fun k r x _ _ => ?_
  unfold raiseGate
  split
  · exact .refl s
  · split
    · exact .refl s
    · split
      · exact .refl s
      · exact keeps_changeAway s k _ _ nofun nofun

theorem keeps_gateClear (s : State) : Keeps g s (carryGateClear f s).1 := by
  refine keeps_gateRequest f fun k r x hr _ => ?_
  unfold clearGate
  split
  · exact .refl s
  · exact keeps_deriveGate s k _ hr

theorem keeps_putSign {k : Nat} {r : SignRecord} (hk : 1 ≤ k ∧ k ≤ 16) (hn : SignNamesDefined s.settings r)
    (hf : SignFree s.settings k r) : Keeps g s (s.putSign k r) := by
  unfold State.putSign
  split
  · exact keeps_redefineSign s hk ‹_› hn hf
  · exact keeps_newSign s hk hn hf

theorem keeps_defineSign (s : State) : Keeps g s (carryDefineSign f s).1 := by
  unfold carryDefineSign
  split
  · exact .refl s
  · obtain ⟨bounds, names, free⟩ := checkSign_ok ‹_›
    exact keeps_putSign bounds names free

theorem keeps_removeSign (k : Nat) (s : State) : Keeps g s (carryRemoveSign k s).1 := by
  refine keeps_removeItem fun r hr => ?_
  split
  · exact keeps_dropSign s (lookup_bounds _ hr) ((approached_isEmpty_iff _ _).mp ‹_›)
  · exact .refl s

theorem keeps_defineProfile (s : State) : Keeps g s (carryDefineProfile f s).1 := by
  unfold carryDefineProfile
  split
  · exact .refl s
  · split
    · exact .refl s
    · split
      · exact .refl s
      · exact keeps_putProfile s _ _

theorem keeps_removeProfile (k : Nat) (s : State) : Keeps g s (carryRemoveProfile k s).1 := by
  refine keeps_removeItem fun r _ => ?_
  split
  · exact keeps_dropProfile s ((following_isEmpty_iff _ _).mp ‹_›)
  · exact .refl s

theorem keeps_defineGroup (s : State) : Keeps g s (carryDefineGroup f s).1 := by
  unfold carryDefineGroup
  split
  · exact .refl s
  · exact (beside_change s _ rfl).keeps

theorem keeps_removeGroup (k : Nat) (s : State) : Keeps g s (carryRemoveGroup k s).1 :=
  keeps_removeItem fun _ _ => (beside_change s _ rfl).keeps

theorem keeps_pageWrite (s : State) : Keeps g s (carryPageWrite f s).1 := by
  unfold carryPageWrite
  split
  · exact .refl s
  · split
    · split
      · exact .refl s
      · exact keeps_writePages s _ _
    · exact .refl s

theorem keeps_pageSwap (s : State) : Keeps g s (carryPageSwap f s).1 := by
  unfold carryPageSwap
  split
  · exact .refl s
  · split
    · exact .refl s
    · split
      · exact .refl s
      · exact keeps_swapPages s _

theorem keeps_textLoad (s : State) : Keeps g s (carryTextLoad f s).1 := by
  unfold carryTextLoad
  split
  · exact .refl s
  · split
    · exact .refl s
    · exact keeps_loadTexts s _ _

theorem keeps_calibrate (s : State) : Keeps g s (carryCalibrate f s).1 := by
  unfold carryCalibrate
  split
  · exact .refl s
  · rename_i new _
    exact ((beside_change s (fun c => { c with calibration := new }) rfl).trans (beside_withField _ _)).keeps

theorem keeps_linkSet (s : State) : Keeps g s (carryLinkSet f s).1 := by
  unfold carryLinkSet
  split
  · exact .refl s
  · split
    · exact .refl s
    · split
      · exact .refl s
      · exact (beside_setLink s _ _).keeps

theorem keeps_restart (s : State) : Keeps g s (carryRestart f s).1 := by
  unfold carryRestart
  split
  · exact .refl s
  · split
    · exact .refl s
    · rename_i kind _
      exact (beside_withLine s { s.line with restartDue := some kind } rfl).keeps

/-! ## Queries -/

theorem keeps_queryStatus (s : State) : Keeps g s (carryQueryStatus f s).1 :=
  keep_carryQueryStatus (P := Keeps g s) f s (.refl s)

theorem keeps_queryNotices (s : State) : Keeps g s (carryQueryNotices f s).1 :=
  keep_carryQueryNotices (P := Keeps g s) f s (.refl s)

theorem keeps_queryStep (s : State) : Keeps g s (carryQueryStep f s).1 :=
  keep_carryQueryStep (P := Keeps g s) f s (.refl s)

theorem keeps_queryText (s : State) : Keeps g s (carryQueryText f s).1 :=
  keep_carryQueryText (P := Keeps g s) f s (.refl s)

theorem keeps_queryItem {α : Type} {n : Nat} (table : Vector (Option α) n) (reply : Nat → α → List Byte) (s : State) :
    Keeps g s (queryItem f table reply s).1 := keep_queryItem (P := Keeps g s) (.refl s)

end

end Sys2Proof.Proofs
end

section
/-! SUPPORT. The walk through the commands, made once: but for the setting of the clock, which comes first, every command
that neither starts the part nor cuts its supply is an operation that `Keeps`. -/

namespace Sys2Proof.Proofs

open Sys2Proof Sys2Proof.Machine Sys2Proof.Laws Sys2Proof.Claims

/-- The clock is set, and what follows keeps what every operation keeps. -/
def Acted (g : Terms) (s t : State) : Prop := ∃ c, Keeps g (s.withClock c) t

/-- A moment, a frame taken and the like: beside the sources whatever the clock. -/
def Quietly (s t : State) : Prop := ∀ c, Beside (s.withClock c) (t.withClock c)

variable {g : Terms} {s t u : State}

theorem Keeps.acted (h : Keeps g s t) : Acted g s t := ⟨s.retained.clock, h⟩

theorem Acted.refl (s : State) : Acted g s s := (Keeps.refl s).acted

theorem Acted.trans (h : Acted g s t) (k : Keeps g t u) : Acted g s u := h.imp fun _ h => h.trans k

theorem Quietly.acted (h : Quietly s t) (k : Acted g t u) : Acted g s u := k.imp fun c k => (h c).keeps.trans k

theorem quietly_elapse (s : State) (m : Moment) : Quietly s (s.elapse m) := fun _ => .of_records rfl rfl id

theorem quietly_popFrame (s : State) : Quietly s s.popFrame := fun _ => .of_records rfl rfl id

theorem quietly_pending (s : State) (rest : List Instr) : Quietly s { s with pending := rest } := fun _ =>
  .of_records rfl rfl id

theorem Given.quietly (h : Given g s) (k : Quietly s t) : Given g t :=
  have unset : Given g (t.withClock none) := Given.beside (s := s.withClock none) ⟨h.numbers, h.whole⟩ (k none)
  ⟨unset.numbers, unset.whole⟩

/-! ## Events and requests -/

theorem acted_event {m : Moment} {f : State → State} (hg : Given g s) (hf : ∀ u, Given g u → Acted g u (f u))
    (e : event m f s = .next t) : Acted g s t := by
  cases hp : s.powered with
  | false =>
    rw [event_unpowered m f s hp] at e
    cases e
    exact .refl s
  | true =>
    rw [event_powered m f s hp] at e
    cases e
    have effect := hf _ (hg.quietly (quietly_elapse s m))
    exact (quietly_elapse s m).acted ((effect.trans (keeps_settle _)).trans (beside_kick _).keeps)

/-- An event that does not set the clock. -/
theorem acted_calm {m : Moment} {f : State → State} (hg : Given g s) (hf : ∀ u, Keeps g u (f u))
    (e : event m f s = .next t) : Acted g s t := acted_event hg (fun u _ => (hf u).acted) e

theorem acted_carryOut {kind tag : Byte} {f : State → State × Answer} (hg : Given g s)
    (hf : ∀ u, Given g u → Acted g u (f u).1) : Acted g s (s.carryOut kind tag f) := by
  have carried := hf _ (hg.quietly (quietly_popFrame s))
  exact (quietly_popFrame s).acted ((carried.trans (keeps_settle _)).trans (beside_placeReply _ _).keeps)

theorem acted_request {m : Moment} {kind tag : Byte} {fields : List Byte} {f : State → State × Answer}
    (hg : Given g s) (hf : ∀ u, Given g u → Acted g u (f u).1) (e : request m kind tag fields f s = .next t) :
    Acted g s t := by
  refine acted_event hg (fun u hu => ?_) e
  split
  · exact acted_carryOut hu hf
  · exact .refl u

theorem acted_calmRequest {m : Moment} {kind tag : Byte} {fields : List Byte} {f : State → State × Answer}
    (hg : Given g s) (hf : ∀ u, Given g u → Keeps g u (f u).1) (e : request m kind tag fields f s = .next t) :
    Acted g s t := acted_request hg (fun u hu => (hf u hu).acted) e

theorem acted_removal {m : Moment} {item : Nat} {tag : Byte} {fields : List Byte} {f : Nat → State → State × Answer}
    (hg : Given g s) (hf : ∀ k u, Given g u → Keeps g u (f k u).1) (e : removal m item tag fields f s = .next t) :
    Acted g s t := by
  unfold removal at e
  split at e
  · refine acted_calmRequest hg (fun u hu => ?_) e
    unfold carryRemoval
    split
    · exact .refl u
    · split
      · exact .refl u
      · exact hf _ u hu
  · exact acted_calm hg (fun u => .refl u) e

/-! ## The clock (R68 to R70) -/

theorem acted_setClock (s : State) (new : Nat) : Acted g s (s.setClock new) := by
  refine ⟨some new, ?_⟩
  have set : Keeps g (s.withClock (some new)) { s.withClock (some new) with clockNext := s.now + usPerSecond } :=
    Beside.keeps (.of_records rfl rfl id)
  exact set.trans (Keeps.ite (fun _ => keeps_clockWalk _ new) fun _ => .refl _)

theorem acted_tick (s : State) : Acted g s s.tick := by
  unfold State.tick
  split
  · exact .refl s
  · rename_i time _
    have next : ∀ c, Keeps g (s.withClock c) (State.withClock c { s with clockNext := s.clockNext + usPerSecond }) :=
      fun c => Beside.keeps (.of_records rfl rfl id)
    dsimp only
    split
    · exact ⟨some (time + 1), (next _).trans (keeps_clockWalk _ _)⟩
    · exact ⟨s.retained.clock, next _⟩

theorem acted_timeSet (f : List Byte) (s : State) : Acted g s (carryTimeSet f s).1 := by
  unfold carryTimeSet
  split
  · exact .refl s
  · split
    · exact .refl s
    · exact acted_setClock s _

theorem acted_clockTick {m : Moment} (hg : Given g s) (e : execClockTick m s = .next t) : Acted g s t := by
  unfold execClockTick at e
  split at e
  · refine acted_event hg (fun u _ => ?_) e
    split
    · exact acted_tick u
    · exact .refl u
  · cases e
    exact ⟨_, .refl _⟩

/-! ## The line, the store and the field -/

/-- Records leave the buffer with the end of a report frame; nothing else that is kept changes (R189). -/
theorem keeps_reportsGone (hg : g.sends) (s : State) : Keeps g s s.reportsGone :=
  ⟨⟨by simp, fun _ _ _ h => h, id, id, fun _ _ _ _ h => h, fun _ => .of_signs rfl, fun _ hs => absurd hg hs⟩,
    fun _ _ _ h => h⟩

theorem beside_replyGone (h : s.line.restartDue = none) : Beside s s.replyGone := by
  unfold State.replyGone
  split
  · rename_i r rest _ _
    have gone : Beside s (s.withLine { s.line with transmitter := .free, outbox := rest }) := beside_withLine s _ rfl
    rw [h]
    exact gone.ite gone
  · exact .refl s

theorem acted_replySent {m : Moment} (h : s.line.restartDue = none) (e : execReplySent m s = .next t) :
    Acted g s t := by
  cases e
  split
  · refine (quietly_elapse s m).acted (Keeps.acted ?_)
    exact ((beside_replyGone (s := s.elapse m) h).keeps.trans (keeps_settle _)).trans (beside_goOn _).keeps
  · exact .refl s

theorem acted_pin {m : Moment} {f : State → State} {line : Nat} {high : Bool} (hg : Given g s)
    (hf : ∀ u, Beside u (f u)) (e : (if s.powered then event m f s else .next (s.withPin line high)) = .next t) :
    Acted g s t := by
  split at e
  · exact acted_calm hg (fun u => (hf u).keeps) e
  · cases e
    exact (beside_withPin s line high).keeps.acted

theorem keeps_savesSettings (tag : Byte) (fields : List Byte) (hg : Given g s) :
    Acted g s (if s.takes ⟨kindSaveSettings, tag :: fields⟩ then
      if fields.isEmpty then s.popFrame.beginSave tag else s.carryOut kindSaveSettings tag (refuse .malformed)
    else s) := by
  split
  · split
    · exact ((beside_popFrame s).trans (beside_beginSave _ tag)).keeps.acted
    · exact acted_carryOut hg fun u _ => .refl u
  · exact .refl s

theorem acted_storeWriteEnd {m : Moment} {accepted : Bool} (hg : Given g s)
    (e : execStoreWriteEnd m accepted s = .next t) : Acted g s t := by
  refine acted_calm hg (fun u => Beside.keeps ?_) e
  split
  · exact .refl u
  · exact (beside_saveDone u _ ‹_›).ite (beside_saveFailed u)

theorem acted_storeWriteTimeout {m : Moment} (hg : Given g s) (e : execStoreWriteTimeout m s = .next t) :
    Acted g s t := by
  refine acted_calm hg (fun u => Beside.keeps ?_) e
  split
  · exact .refl u
  · exact (beside_saveFailed u).ite (.refl u)

theorem acted_changeEvent {m : Moment} {line : Nat} (hg : Given g s) (e : execChangeEvent m line s = .next t) :
    Acted g s t := by
  refine acted_calm hg (fun u => ?_) e
  split
  · exact keeps_acceptChange u line _
  · exact .refl u

theorem beside_sampledOnce (s : State) : Beside s (sampledOnce s) := .of_records rfl rfl id

/-! ## Every command -/

/-- A command that starts the part, or cuts its supply. -/
def Begins (i : Instr) (s : State) : Prop :=
  (∃ kept phase, i = .start kept phase) ∨ (s.powered = true ∧ ∃ m cut, i = .supplyLoss m cut) ∨
    (s.line.restartDue ≠ none ∧ ∃ m, i = .replySent m)

/-- The walk through the commands. -/
theorem acted_exec {i : Instr} (e : exec i s = .next t) (hg : Given g s) (hb : ¬ Begins i s)
    (hc : ∀ m x bytes, i = .shownFrameReceived m x bytes → g.confirms) (hs : ∀ m, i = .reportFrameSent m → g.sends) :
    Acted g s t := by
  cases i with
  | timeSet m tag f => exact acted_request hg (fun u _ => acted_timeSet f u) e
  | noticePost m tag f => exact acted_calmRequest hg (fun u => keeps_noticePost f) e
  | noticeWithdraw m tag f => exact acted_calmRequest hg (fun u => keeps_noticeWithdraw f) e
  | pathFloor m tag f => exact acted_calmRequest hg (fun u _ => keeps_pathFloor f u) e
  | stepEnd m => exact acted_calm hg (fun u => Keeps.ite (fun _ => keeps_endStep u) fun _ => .refl u) e
  | clockTick m => exact acted_clockTick hg e
  | replySent m => exact acted_replySent (not_not.mp fun h => hb (Or.inr (Or.inr ⟨h, m, rfl⟩))) e
  | start kept phase => exact absurd (Or.inl ⟨kept, phase, rfl⟩) hb
  | supplyLoss m cut =>
    cases hp : s.powered with
    | false =>
      rw [show exec (.supplyLoss m cut) s = execSupplyLoss m cut s from rfl, execSupplyLoss, hp] at e
      cases e
      exact .refl s
    | true => exact absurd (Or.inr (Or.inl ⟨hp, m, cut, rfl⟩)) hb
  | pageWrite m tag f => exact acted_calmRequest hg (fun u _ => keeps_pageWrite f u) e
  | pageSwap m tag f => exact acted_calmRequest hg (fun u _ => keeps_pageSwap f u) e
  | textLoad m tag f => exact acted_calmRequest hg (fun u _ => keeps_textLoad f u) e
  | gateRaise m tag f => exact acted_calmRequest hg (fun u _ => keeps_gateRaise f u) e
  | gateClear m tag f => exact acted_calmRequest hg (fun u _ => keeps_gateClear f u) e
  | restart m tag f => exact acted_calmRequest hg (fun u _ => keeps_restart f u) e
  | definePath m tag f => exact acted_calmRequest hg (fun u _ => keeps_definePath f u) e
  | defineSegment m tag f => exact acted_calmRequest hg (fun u => keeps_defineSegment f) e
  | defineGate m tag f => exact acted_calmRequest hg (fun u _ => keeps_defineGate f u) e
  | defineSign m tag f => exact acted_calmRequest hg (fun u _ => keeps_defineSign f u) e
  | defineProfile m tag f => exact acted_calmRequest hg (fun u _ => keeps_defineProfile f u) e
  | defineGroup m tag f => exact acted_calmRequest hg (fun u _ => keeps_defineGroup f u) e
  | removePath m tag f => exact acted_removal hg (fun k u _ => keeps_removePath k u) e
  | removeSegment m tag f => exact acted_removal hg (fun k u hu => keeps_removeSegment hu k) e
  | removeGate m tag f => exact acted_removal hg (fun k u hu => keeps_removeGate hu k) e
  | removeSign m tag f => exact acted_removal hg (fun k u _ => keeps_removeSign k u) e
  | removeProfile m tag f => exact acted_removal hg (fun k u _ => keeps_removeProfile k u) e
  | removeGroup m tag f => exact acted_removal hg (fun k u _ => keeps_removeGroup k u) e
  | calibrate m tag f => exact acted_calmRequest hg (fun u _ => keeps_calibrate f u) e
  | linkSet m tag f => exact acted_calmRequest hg (fun u _ => keeps_linkSet f u) e
  | saveSettings m tag f => exact acted_event hg (fun u hu => keeps_savesSettings tag f hu) e
  | queryStatus m tag f => exact acted_calmRequest hg (fun u _ => keeps_queryStatus f u) e
  | queryPath m tag f => exact acted_calmRequest hg (fun u _ => keeps_queryItem f _ _ u) e
  | querySegment m tag f => exact acted_calmRequest hg (fun u _ => keeps_queryItem f _ _ u) e
  | queryGate m tag f => exact acted_calmRequest hg (fun u _ => keeps_queryItem f _ _ u) e
  | querySign m tag f => exact acted_calmRequest hg (fun u _ => keeps_queryItem f _ _ u) e
  | queryNotices m tag f => exact acted_calmRequest hg (fun u _ => keeps_queryNotices f u) e
  | queryStep m tag f => exact acted_calmRequest hg (fun u _ => keeps_queryStep f u) e
  | queryText m tag f => exact acted_calmRequest hg (fun u _ => keeps_queryText f u) e
  | unknownKind m kind body =>
    refine acted_event hg (fun u hu => ?_) e
    split
    · exact acted_carryOut hu fun v _ => .refl v
    · exact .refl u
  | stationFrameReceived m bytes => exact acted_calm hg (fun u => (beside_receiveBytes u bytes).keeps) e
  | badLength m length =>
    exact acted_calm hg (fun u => Beside.keeps (Beside.ite (beside_receiveBytes u [length]) (.refl u))) e
  | missingStopBit m => exact acted_calm hg (fun u => (beside_dropFrame u).keeps) e
  | gapExpiry m => exact acted_calm hg (fun u => Beside.keeps (Beside.ite (beside_dropFrame u) (.refl u))) e
  | reportAgeExpiry m => exact acted_calm hg (fun u => .refl u) e
  | reportFrameSent m =>
    exact acted_calm hg (fun u => Keeps.ite (fun _ => keeps_reportsGone (hs m rfl) u) fun _ => .refl u) e
  | silenceLimitReached m => exact acted_calm hg (fun u => (beside_checkSilence u).keeps) e
  | storeWriteEnd m accepted => exact acted_storeWriteEnd hg e
  | storeWriteTimeout m => exact acted_storeWriteTimeout hg e
  | fieldLineChange m line high => exact acted_pin hg (fun u => beside_lineTransition u line high) e
  | widthEdge m line high => exact acted_pin hg (fun u => Beside.ite (beside_lineTransition u line high) (.refl u)) e
  | changeEvent m line => exact acted_changeEvent hg e
  | vaneSample m => exact acted_calm hg (fun u => Beside.keeps (Beside.ite (beside_sampledOnce u) (.refl u))) e
  | holdDeadline m k => exact acted_calm hg (fun u => keeps_loweringTest u k) e
  | clearZoneExpiry m k =>
    exact acted_calm hg (fun u => Keeps.ite
      (fun _ => (beside_withZone u k .idle).keeps.trans (keeps_loweringTest _ k)) fun _ => .refl u) e
  | travelTimeout m k =>
    exact acted_calm hg (fun u => Keeps.ite (fun _ => keeps_travelExpired u k) fun _ => .refl u) e
  | refreshDue m k => exact acted_calm hg (fun u => (beside_chooseFor u k _).keeps) e
  | retryDue m k => exact acted_calm hg (fun u => (beside_chooseFor u k _).keeps) e
  | imageFrameSent m x => exact acted_calm hg (fun u => (beside_imageSent u x).keeps) e
  | shownFrameReceived m x bytes => exact acted_calm hg (fun u => keeps_stringBytes u (hc m x bytes rfl) x bytes) e
  | replyWindowEnd m x => exact acted_calm hg (fun u => keeps_windowEnds u x) e

end Sys2Proof.Proofs
end

section
/-! SUPPORT. Starts (R104, R133, R162, R198 to R201): gates, segments and images that a start leaves follow their sources,
and every sign is marked. -/

namespace Sys2Proof.Proofs

open Sys2Proof Sys2Proof.Machine Sys2Proof.Laws Sys2Proof.Claims

/-! ## Tables made record by record -/

theorem lookup_map {α β : Type} {n : Nat} (f : α → β) (v : Vector (Option α) n) (k : Nat) :
    lookup (v.map fun o => o.map f) k = (lookup v k).map f := by
  unfold lookup
  rw [itemAt_map]
  cases itemAt v k with
  | none => rfl
  | some o => rfl

theorem lookup_ofFn {α β : Type} {n : Nat} (v : Vector (Option α) n) (f : Nat → α → β) (k : Nat) :
    lookup (Vector.ofFn fun i : Fin n => (v.get i).map (f (i.val + 1))) k = (lookup v k).map (f k) := by
  have place : ∀ i : Fin n, lookup (Vector.ofFn fun i : Fin n => (v.get i).map (f (i.val + 1))) (i.val + 1) =
      (lookup v (i.val + 1)).map (f (i.val + 1)) := fun i => by
    unfold lookup
    rw [itemAt_get v i, itemAt_ofFn.mpr ⟨i, rfl, rfl⟩]
    rfl
  by_cases bounds : 1 ≤ k ∧ k ≤ n
  · obtain ⟨low, high⟩ := bounds
    have own := place ⟨k - 1, by omega⟩
    simpa only [Nat.sub_add_cancel low] using own
  · have outside : ∀ {γ : Type} (w : Vector (Option γ) n), lookup w k = none := fun w =>
      Option.eq_none_iff_forall_ne_some.mpr fun x hx => bounds (lookup_bounds w hx)
    rw [outside, outside]
    rfl

/-! ## Gates at a start (R133) -/

variable {s t u : State}

/-- The gates' derivation at a start: every gate with a record is derived, and no more than gates and outputs change. -/
theorem startGates_gates (s : State) : (∀ k, s.startGates.gate k = (lookup s.settings.gates k).map s.deriveGate) ∧
    s.startGates.store = s.store ∧ s.startGates.segments = s.segments ∧ s.startGates.composer = s.composer := by
  have derived : ∀ k, lookup (s.settings.gates.map fun g => g.map s.deriveGate) k =
      (lookup s.settings.gates k).map s.deriveGate := lookup_map s.deriveGate s.settings.gates
  unfold State.startGates
  refine keep_foldl (P := fun u : State => (∀ k, u.gate k = (lookup s.settings.gates k).map s.deriveGate) ∧
    u.store = s.store ∧ u.segments = s.segments ∧ u.composer = s.composer) (fun u x hu => ?_) _ _ ⟨derived, rfl, rfl, rfl⟩
  split
  · exact hu
  · exact hu

/-- The notices that a start makes or walks touch neither gates nor settings nor readouts (R81, R86). -/
theorem startNotices_gates (s : State) (kind : StartKind) : (s.startNotices kind).gates = s.gates ∧
    (s.startNotices kind).store = s.store ∧ (s.startNotices kind).composer = s.composer := by
  cases kind with
  | cold =>
    refine keep_foldl (P := fun u : State => u.gates = s.gates ∧ u.store = s.store ∧ u.composer = s.composer)
      (fun u k hu => ?_) _ s ⟨rfl, rfl, rfl⟩
    exact hu
  | warm =>
    unfold State.startNotices
    dsimp only
    split
    · unfold State.walkList
      dsimp only
      rw [reports_eq_withLine]
      exact ⟨rfl, rfl, rfl⟩
    · exact ⟨rfl, rfl, rfl⟩

/-! ## Segments at a start (R104) -/

theorem deriveSegments_follow (s : State) : s.deriveSegments.SegmentsFollow :=
  lookup_ofFn s.settings.segments fun k r => s.deriveSegment k r

theorem startWarning_keeps (s : State) (x : Nat × GateRecord) : (s.startWarning x).store = s.store ∧
    (s.startWarning x).segments = s.segments ∧ (s.startWarning x).retained = s.retained ∧
      (s.startWarning x).composer = s.composer ∧
        ∀ j, (s.startWarning x).gate j = s.gate j ∨ j = x.1 ∧ s.cif x.2.segment = true ∧
          (∃ h, s.gate j = some h) ∧ (s.startWarning x).gate j = some (GateState.resting .warning 0) := by
  unfold State.startWarning
  split
  · rename_i h hx
    split
    · rename_i up
      obtain ⟨-, closed⟩ := by simpa only [Bool.and_eq_true, decide_eq_true_eq] using up
      refine ⟨rfl, rfl, rfl, rfl, fun j => ?_⟩
      by_cases hj : j = x.1
      · have bounds := lookup_bounds _ hx
        subst hj
        exact Or.inr ⟨rfl, closed, ⟨h, hx⟩, lookup_putItem_self s.gates _ bounds.1 bounds.2⟩
      · exact Or.inl (lookup_putItem_ne s.gates _ hj)
    · exact ⟨rfl, rfl, rfl, rfl, fun _ => Or.inl rfl⟩
  · exact ⟨rfl, rfl, rfl, rfl, fun _ => Or.inl rfl⟩

/-- A gate whose start tell has been given is not UP under a closure in force. -/
theorem startWarning_answers {x : Nat × GateRecord} {h : GateState} (hh : (s.startWarning x).gate x.1 = some h)
    (hu : h.position = .up) : s.cif x.2.segment = false := by
  unfold State.startWarning at hh
  split at hh
  · rename_i y hy
    split at hh
    · have bounds := lookup_bounds _ hy
      have own : (s.startWarning x).gate x.1 = some (GateState.resting .warning 0) := by
        unfold State.startWarning
        rw [hy]
        dsimp only
        rw [if_pos ‹_›]
        exact lookup_putItem_self s.gates _ bounds.1 bounds.2
      cases (lookup_putItem_self s.gates _ bounds.1 bounds.2).symm.trans hh
      cases hu
    · rename_i away
      obtain rfl := Option.some.inj (hy.symm.trans hh)
      simpa [hu] using away
  · rename_i hy
    cases hy.symm.trans hh

/-- The start tells, given gate by gate, leave each gate with the closure in force of its segment. -/
theorem startWarnings_fit (xs : List (Nat × GateRecord)) (hx : ∀ x ∈ xs, lookup s.settings.gates x.1 = some x.2)
    (hw : ∀ j r h, lookup s.settings.gates j = some r → s.gate j = some h →
      (h.position = .warning → s.cif r.segment = true) ∧
        ((j, r) ∈ xs ∨ (h.position = .up → s.cif r.segment = false))) :
    ∀ j r h, lookup s.settings.gates j = some r → (xs.foldl State.startWarning s).gate j = some h →
      Fits (s.cif r.segment) h.position := by
  induction xs generalizing s with
  | nil => exact fun j r h hr hh => ⟨(hw j r h hr hh).2.resolve_left List.not_mem_nil, (hw j r h hr hh).1⟩
  | cons x xs ih =>
    obtain ⟨store, segments, -, -, gate⟩ := startWarning_keeps s x
    have settings : (s.startWarning x).settings = s.settings := congrArg SettingsStore.working store
    have cif : (s.startWarning x).cif = s.cif := by
      funext k
      unfold State.cif
      rw [segments]
    have told := ih (s := s.startWarning x) (fun y hy => settings ▸ hx y (List.mem_cons_of_mem _ hy))
    rw [settings, cif] at told
    refine told fun j r h hr hh => ?_
    by_cases hj : j = x.1
    · subst hj
      obtain rfl : x.2 = r := Option.some.inj ((hx x List.mem_cons_self).symm.trans hr)
      refine ⟨fun warning => ?_, Or.inr (startWarning_answers hh)⟩
      rcases gate x.1 with same | ⟨-, closed, -⟩
      · exact (hw x.1 x.2 h hr (same ▸ hh)).1 warning
      · exact closed
    · have same := (gate j).resolve_right fun ⟨e, _⟩ => hj e
      obtain ⟨warning, up⟩ := hw j r h hr (same ▸ hh)
      exact ⟨warning, up.imp_left fun hm => (List.mem_cons.mp hm).resolve_left fun e => hj (congrArg Prod.fst e)⟩

/-- The segments are derived, the gates told, and the segments derived again. -/
theorem startSegments_follow (s : State) (hg : s.GatesWhole)
    (hw : ∀ k h, s.gate k = some h → h.position ≠ .warning) :
    s.startSegments.GatesWhole ∧ s.startSegments.SegmentsFollow ∧ s.startSegments.GatesFollow ∧
      s.startSegments.store = s.store ∧ s.startSegments.composer = s.composer := by
  have kept := keep_foldl
    (P := fun u : State => u.store = s.store ∧ u.retained = s.retained ∧ u.composer = s.composer ∧ u.GatesWhole)
    (f := State.startWarning) (fun u x ⟨store, retained, composer, whole⟩ => by
      obtain ⟨hs, -, hr, hc, gate⟩ := startWarning_keeps u x
      have settings : (u.startWarning x).settings = u.settings := congrArg SettingsStore.working hs
      refine ⟨hs.trans store, hr.trans retained, hc.trans composer, fun j => ?_⟩
      rw [settings, ← whole j]
      rcases gate j with same | ⟨-, -, ⟨h, hh⟩, now⟩
      · rw [same]
      · rw [hh, now]
        rfl) (entries s.settings.gates) s.deriveSegments ⟨rfl, rfl, rfl, hg⟩
  have fit := startWarnings_fit (s := s.deriveSegments) (entries s.settings.gates) (fun x hx => mem_entries.mp hx)
    fun j r h hr hh => ⟨fun warning => absurd warning (hw j h hh), Or.inl (mem_entries.mpr hr)⟩
  have final : s.startSegments =
      ((entries s.settings.gates).foldl State.startWarning s.deriveSegments).deriveSegments := rfl
  generalize (entries s.settings.gates).foldl State.startWarning s.deriveSegments = w at kept fit final
  obtain ⟨store, retained, composer, whole⟩ := kept
  have settings : w.deriveSegments.settings = s.settings := congrArg SettingsStore.working store
  have cif : ∀ k, w.deriveSegments.cif k = s.deriveSegments.cif k := fun k => by
    rw [cif_of_follows (deriveSegments_follow w k), cif_of_follows (deriveSegments_follow s k), settings]
    have governing : w.deriveSegments.governing = s.deriveSegments.governing := by
      unfold State.governing
      rw [show w.deriveSegments.retained = s.deriveSegments.retained from retained]
    rw [governing]
    rfl
  rw [final]
  refine ⟨whole, deriveSegments_follow w, fun j r h hr hh => ?_, store, composer⟩
  rw [cif]
  rw [settings] at hr
  exact fit j r h hr hh

/-! ## Signs at a start (R162) -/

theorem sign_startSigns (s : State) (k : Nat) : s.startSigns.sign k = (lookup s.settings.signs k).map fun r =>
    SignState.mk .transparent .transparent (s.compose k r .transparent) true :=
  lookup_ofFn s.settings.signs (fun k r => SignState.mk .transparent .transparent (s.compose k r .transparent) true) k

theorem startSigns_images (s : State) (ht : s.composer.temp = .noStep) (hw : s.composer.wind = none) :
    s.startSigns.ImagesFollow := by
  intro k r c hr hc
  have record : lookup s.settings.signs k = some r := hr
  rw [sign_startSigns, record] at hc
  obtain rfl := Option.some.inj hc
  have text : ∀ src, s.startSigns.sourceText src = s.sourceText src := by
    intro src
    unfold State.sourceText
    rw [ht, hw]
    rfl
  have view : SameView s s.startSigns k r := ⟨rfl, fun _ _ => ⟨rfl, rfl⟩, rfl, rfl, rfl, funext text⟩
  rw [view.compose]
  exact ⟨rfl, rfl, compose_slots s k r _⟩

/-! ## The start as a whole -/

/-- The factory settings name nothing (R198). -/
theorem factory_whole : factorySettings.Whole := by
  have undefined : ∀ {α : Type} {n k : Nat} {r : α}, lookup (Vector.replicate n none) k ≠ some r := fun h => by
    cases (lookup_replicate_none _).symm.trans h
  exact ⟨⟨fun _ _ h => absurd h undefined, fun _ _ h => absurd h undefined⟩, fun _ _ h => absurd h undefined⟩

/-- All follows its sources, and every sign is marked. -/
structure Fresh (s : State) : Prop where
  gates : s.GatesWhole
  segments : s.SegmentsFollow
  told : s.GatesFollow
  images : s.ImagesFollow
  marked : ∀ k d, s.sign k = some d → d.marked = true

theorem Fresh.beside (h : Fresh s) (k : Beside s t) : Fresh t where
  gates := k.keeps.gatesWhole (g := ⟨True, True, True, True⟩) h.gates
  segments := k.keeps.segmentsFollow (g := ⟨True, True, True, True⟩) trivial h.segments
  told := fun j r x hr hx => by
    rw [k.gateRecords] at hr
    rw [k.gate] at hx
    rw [k.cif]
    exact h.told j r x hr hx
  images := fun j => imageFollows_congr (congrArg (lookup · j) k.signRecords) (k.sign j)
    (fun r c _ _ => by rw [k.compose]) (h.images j)
  marked := fun j d hd => h.marked j d (k.sign j ▸ hd)

/-- A gate that is derived with no closure in force is not in WARNING. -/
theorem deriveGate_not_warning {r : GateRecord} (h : s.cif r.segment = false) : (s.deriveGate r).position ≠ .warning := by
  intro warning
  obtain ⟨-, closed⟩ := fits_derivedPosition (s.keyActive r) (s.accepted r.upSwitch) (s.accepted r.downSwitch)
    (s.cif r.segment)
  rw [h] at closed
  exact absurd (closed (h ▸ warning)) nofun

/-- What a part is held in before a start: no segment has a state, and no readout stands. -/
def Held (s : State) : Prop := (∀ k, lookup s.segments k = none) ∧ s.composer.temp = .noStep ∧ s.composer.wind = none

/-- What a start does after the segments have been derived. -/
def started (cause : StartCause) (requested : Bool) (s v : State) : State :=
  let s' := v.startSigns.startStrings
  let s' := s'.report (s'.restartReport (startKind s.retained.checkHolds) cause
    (coldReason s.retained.checkHolds requested))
  s'.withRetained { s'.retained with checkHolds := true }

/-- A start of a held part leaves all with its sources. -/
theorem fresh_startPart (cause : StartCause) (requested : Bool) (h : Held s) : Fresh (s.startPart cause requested) ∧
    (s.TablesWhole → (s.startPart cause requested).TablesWhole) := by
  obtain ⟨blank, temp, wind⟩ := h
  obtain ⟨gate, gstore, gsegments, gcomposer⟩ := startGates_gates s.loaded
  obtain ⟨ngates, nstore, ncomposer⟩ := startNotices_gates s.loaded.startGates (startKind s.retained.checkHolds)
  have cif : ∀ k, s.loaded.cif k = false := fun k => by
    have none : lookup s.loaded.segments k = none := blank k
    unfold State.cif
    rw [none]
  have noticed : ∀ k, (s.loaded.startGates.startNotices (startKind s.retained.checkHolds)).gate k =
      (lookup s.loaded.settings.gates k).map s.loaded.deriveGate := fun k => by
    unfold State.gate
    rw [ngates]
    exact gate k
  have nsettings : (s.loaded.startGates.startNotices (startKind s.retained.checkHolds)).settings = s.loaded.settings :=
    congrArg SettingsStore.working (nstore.trans gstore)
  obtain ⟨whole, follow, told, store, composer⟩ := startSegments_follow
    (s.loaded.startGates.startNotices (startKind s.retained.checkHolds))
    (fun k => by rw [noticed, nsettings, Option.isSome_map])
    fun k x hx => by
      rw [noticed] at hx
      obtain ⟨r, -, rfl⟩ := Option.map_eq_some_iff.mp hx
      exact deriveGate_not_warning (cif r.segment)
  have readouts := composer.trans (ncomposer.trans gcomposer)
  have stored := store.trans (nstore.trans gstore)
  have parts : s.startPart cause requested = started cause requested s
    (s.loaded.startGates.startNotices (startKind s.retained.checkHolds)).startSegments := rfl
  generalize (s.loaded.startGates.startNotices (startKind s.retained.checkHolds)).startSegments = v at *
  have composed : Fresh v.startSigns :=
    ⟨whole, follow, told, startSigns_images v (by rw [readouts]; exact temp) (by rw [readouts]; exact wind),
      fun k d hd => by
        rw [sign_startSigns] at hd
        obtain ⟨r, -, rfl⟩ := Option.map_eq_some_iff.mp hd
        rfl⟩
  have reported := fun b hb => (beside_withStrings v.startSigns
    ⟨v.startSigns.settings.signs.map fun r => r.map fun _ => PanelRecord.fresh, none, none, [.a, .b], []⟩).trans
      ((beside_runArbiters _).trans (beside_report _ b hb))
  have rest : Beside v.startSigns (s.startPart cause requested) := by
    rw [parts]
    exact (reported (_ : ReportBody) id).trans (.of_records rfl rfl id)
  refine ⟨composed.beside rest, fun ⟨_, saved, _⟩ => rest.tables ?_⟩
  refine ⟨?_, ?_, ?_⟩
  · show v.store.working.Whole
    rw [stored]
    show (loadedSettings s.store.saved).Whole
    cases hs : s.store.saved with
    | none => exact factory_whole
    | some c => exact saved c hs
  · show ∀ c, v.store.saved = some c → c.Whole
    rw [stored]
    exact saved
  · show ∀ w, v.store.write = some w → w.copy.Whole
    rw [stored]
    exact fun _ h => nomatch h

end Sys2Proof.Proofs
end

section
/-! SUPPORT. What every command does, put together: it acts, or it leaves the part anew from a start or without supply. -/

namespace Sys2Proof.Proofs

open Sys2Proof Sys2Proof.Machine Sys2Proof.Laws Sys2Proof.Claims

variable {g : Terms} {s t u : State}

/-! ## Commands that begin anew (R199 to R201) -/

/-- The part comes from a start, or has lost its supply, and goes on from there. -/
def Anew (s t : State) : Prop :=
  ∃ u, Fresh u ∧ (s.TablesWhole → u.TablesWhole) ∧ ∀ g : Terms, Keeps g u t

theorem Anew.trans (h : Anew s t) (k : ∀ g : Terms, Keeps g t u) : Anew s u := by
  obtain ⟨v, fresh, tables, keeps⟩ := h
  exact ⟨v, fresh, tables, fun g => (keeps g).trans (k g)⟩

theorem whole_toReset (s : State) (r : Retained) (h : s.TablesWhole) : (s.toReset r).TablesWhole := by
  obtain ⟨-, saved, -⟩ := h
  exact ⟨factory_whole, saved, fun _ h => nomatch h⟩

theorem held_toReset (s : State) (r : Retained) : Held (s.toReset r) :=
  ⟨fun k => lookup_replicate_none k, rfl, rfl⟩

theorem fresh_toReset (s : State) (r : Retained) : Fresh (s.toReset r) where
  gates := fun k => by
    have gate : (s.toReset r).gate k = none := lookup_replicate_none k
    have record : lookup (s.toReset r).settings.gates k = none := lookup_replicate_none k
    rw [gate, record]
    rfl
  segments := fun k => by
    have segment : lookup (s.toReset r).segments k = none := lookup_replicate_none k
    have record : lookup (s.toReset r).settings.segments k = none := lookup_replicate_none k
    rw [segment, record]
    rfl
  told := fun k _ _ h => by cases (lookup_replicate_none k).symm.trans h
  images := fun k _ _ h => by cases (lookup_replicate_none k).symm.trans h
  marked := fun k _ h => by cases (lookup_replicate_none k).symm.trans h

theorem anew_startPart (s : State) (r : Retained) (next : Moment) (cause : StartCause) (requested : Bool) :
    Anew s (State.startPart cause requested { s.toReset r with clockNext := next }) := by
  obtain ⟨fresh, tables⟩ := fresh_startPart (s := { s.toReset r with clockNext := next }) cause requested
    (held_toReset s r)
  exact ⟨_, fresh, fun w => tables (whole_toReset s r w), fun _ => .refl _⟩

theorem anew_released (s : State) (kept : Bool) (phase : Moment) : Anew s (s.released kept phase) :=
  anew_startPart s _ phase .supply false

theorem anew_restarted (s : State) (kind : StartKind) : Anew s (s.restarted kind) :=
  anew_startPart s _ _ .request _

theorem replyGone_cases (s : State) : Beside s s.replyGone ∨
    ∃ x kind, s.replyGone = (s.withLine x).restarted kind := by
  unfold State.replyGone
  split
  · rename_i r rest _ _
    have gone : Beside s (s.withLine { s.line with transmitter := .free, outbox := rest }) := beside_withLine s _ rfl
    dsimp only
    split
    · exact Or.inl gone
    · split
      · exact Or.inl gone
      · exact Or.inr ⟨_, _, rfl⟩
  · exact Or.inl (.refl s)

theorem anew_start {kept : Bool} {phase : Moment} (e : execStart kept phase s = .next t) : Anew s t := by
  unfold execStart at e
  injection e with e
  rw [← e]
  exact (anew_released s kept phase).trans fun g => (keeps_settle _).trans (beside_kick _).keeps

theorem anew_supplyLoss {m : Moment} {cut : Bool} (hp : s.powered = true) (e : execSupplyLoss m cut s = .next t) :
    Anew s t := by
  unfold execSupplyLoss at e
  rw [if_pos hp] at e
  injection e with e
  rw [← e]
  exact ⟨_, fresh_toReset _ _, fun w => whole_toReset (s.elapse m) _ w, fun _ => .refl _⟩

theorem replySent_cases {m : Moment} (e : execReplySent m s = .next t) : Acted g s t ∨ Anew s t := by
  unfold execReplySent at e
  injection e with e
  rw [← e]
  have rest : ∀ (g : Terms) (u : State), Keeps g u u.settle.goOn := fun g u =>
    (keeps_settle u).trans (beside_goOn _).keeps
  split
  · rcases replyGone_cases (s.elapse m) with gone | ⟨x, kind, again⟩
    · exact Or.inl ((quietly_elapse s m).acted (Keeps.acted (gone.keeps.trans (rest g _))))
    · rw [again]
      obtain ⟨v, fresh, tables, keeps⟩ := anew_restarted ((s.elapse m).withLine x) kind
      exact Or.inr ⟨v, fresh, fun w => tables w, fun g => (keeps g).trans (rest g _)⟩
  · exact Or.inl (.refl s)

/-- A command acts, or leaves the part anew. -/
theorem exec_cases {i : Instr} (e : exec i s = .next t) (hg : Given g s)
    (hc : ∀ m x bytes, i = .shownFrameReceived m x bytes → g.confirms) (hs : ∀ m, i = .reportFrameSent m → g.sends) :
    Acted g s t ∨ Anew s t := by
  by_cases hb : Begins i s
  · obtain ⟨kept, phase, rfl⟩ | ⟨hp, m, cut, rfl⟩ | ⟨-, m, rfl⟩ := hb
    · exact Or.inr (anew_start e)
    · exact Or.inr (anew_supplyLoss hp e)
    · exact replySent_cases e
  · exact Or.inl (acted_exec e hg hb hc hs)

/-- A step without commands changes nothing, and one with a command does what the command does. -/
theorem step_acts (e : step s = .next t) (hg : Given g s) (hc : g.confirms) (hs : g.sends) :
    Acted g s t ∨ Anew s t := by
  obtain rfl | ⟨c, rest, -, hx⟩ := step_cases e
  · exact Or.inl (.refl _)
  · have queued := quietly_pending s rest
    refine (exec_cases hx (hg.quietly queued) (fun _ _ _ _ => hc) fun _ _ => hs).imp (queued.acted ·) ?_
    rintro ⟨v, fresh, tables, keeps⟩
    exact ⟨v, fresh, fun w => tables w, keeps⟩

end Sys2Proof.Proofs
end

section
/-! Segments, told gates and reports (O57): every step keeps segments and gates with their sources, and the reports of a
command tell every change (R89 to R96, R111 to R113, R132). -/

namespace Sys2Proof.Proofs

open Sys2Proof Sys2Proof.Machine Sys2Proof.Laws Sys2Proof.Claims

variable {s t : State}

/-- A step at which nothing is asked of the reports and the marks. -/
def stepTerms : Terms := ⟨True, False, True, True⟩

theorem given_step (h : s.NoticesInOrder) : Given stepTerms s := ⟨fun _ => h.2.1, nofun⟩

/-- A command at which the reports tell every change. -/
def tellTerms : Terms := ⟨False, True, True, False⟩

/-- Every step keeps segments and told gates with their sources. -/
theorem step_road (e : step s = .next t) (hn : s.NoticesInOrder) (hw : s.GatesWhole) (hs : s.SegmentsFollow) :
    t.GatesWhole ∧ t.SegmentsFollow ∧ (s.TablesWhole → s.GatesFollow → t.GatesFollow) := by
  rcases step_acts e (given_step hn) trivial trivial with ⟨c, keeps⟩ | ⟨v, fresh, tables, keeps⟩
  · exact ⟨keeps.gatesWhole hw, keeps.segmentsFollow trivial hs, fun w => keeps.gates trivial w hs⟩
  · have after := keeps stepTerms
    exact ⟨after.gatesWhole fresh.gates, after.segmentsFollow trivial fresh.segments,
      fun w _ => after.gates trivial (tables w) fresh.segments fresh.told⟩

/-- Losing its supply a released part is held in reset. -/
theorem supplyLoss_unpowered {m : Moment} {cut : Bool} (hp : s.powered = true) (e : exec (.supplyLoss m cut) s = .next t) :
    t.powered = false := by
  have went : execSupplyLoss m cut s = .next t := e
  unfold execSupplyLoss at went
  rw [if_pos hp] at went
  injection went with went
  rw [← went]
  rfl

/-- The reports of a command tell every change of a segment's and a gate's state. -/
theorem exec_tells {i : Instr} (e : exec i s = .next t) (hb : ¬ Begins i s) (hr : ∀ m, i ≠ .reportFrameSent m)
    (hw : s.GatesWhole) (hs : s.SegmentsFollow) (ht : s.TablesWhole) : Tells (s.withClock t.retained.clock) t := by
  obtain ⟨c, keeps⟩ := acted_exec (g := tellTerms) e ⟨nofun, fun _ => ⟨hw, hs, ht⟩⟩ hb (fun _ _ _ _ => trivial)
    fun m h => absurd h (hr m)
  have tells := keeps.tells trivial nofun
  obtain ⟨clock, -⟩ := id tells
  rw [clock]
  exact tells

/-- Settles O57: segments and gates are kept with their sources by what every operation keeps and by every start, and
each operation's reports lead from the states before it to those after it. -/
theorem segmentsFollowSources : Obligations.SegmentsFollowSources := by
  unfold Obligations.SegmentsFollowSources
  refine ⟨fun s t hn _ hw hs e => step_road e hn hw hs, fun i s t e tp sp hw hs ht hstart hreport hrestart => ?_⟩
  have acts : ¬ Begins i s := by
    rintro (⟨kept, phase, rfl⟩ | ⟨-, m, cut, rfl⟩ | ⟨due, m, rfl⟩)
    · exact hstart kept phase rfl
    · rw [supplyLoss_unpowered sp e] at tp
      cases tp
    · exact due (hrestart m rfl)
  obtain ⟨-, bs, records, leads⟩ := exec_tells e acts hreport hw hs ht
  exact ⟨bs, reported_of_records records, leads⟩

end Sys2Proof.Proofs
end

section
/-! SUPPORT. The one command that takes marks off (R167): of the bytes of a SHOWN frame the one that confirms ends the
transfer, so none follows a confirmation, and it leaves every image. -/

namespace Sys2Proof.Proofs

open Sys2Proof Sys2Proof.Machine Sys2Proof.Laws Sys2Proof.Claims

variable {s t u : State}

/-! ## A string that waits for no byte -/

/-- A string is in a reply window. -/
def Waits (x : StringId) (s : State) : Prop := ∃ a windowEnd received, s.transfer x = some a ∧
  a.phase = .waiting windowEnd received

theorem transfer_withTransfer (s : State) (x : StringId) (a : Option Attempt) : (s.withTransfer x a).transfer x = a := by
  cases x <;> rfl

theorem idle_beginAttempt {x : StringId} (h : ¬ Waits x s) (k n : Nat) : ¬ Waits x (s.beginAttempt x k n) := by
  unfold State.beginAttempt
  split
  · rintro ⟨a, windowEnd, received, ha, hp⟩
    rw [transfer_withTransfer] at ha
    obtain rfl := Option.some.inj ha
    cases hp
  · exact h

theorem idle_grant {x : StringId} (h : ¬ Waits x s) (k : Nat) : ¬ Waits x (s.grant x k) := by
  have delivered : ∀ p, ¬ Waits x ((s.beginDelivery k p).beginAttempt x k 1) := fun p => by
    refine idle_beginAttempt ?_ k 1
    unfold Waits
    rw [transfer_beginDelivery]
    exact h
  unfold State.grant
  split
  · exact h
  · split
    · exact idle_beginAttempt h k 1
    · exact delivered _
    · exact delivered _
    · exact h

theorem idle_arbitrate {x : StringId} (h : ¬ Waits x s) : ¬ Waits x (s.arbitrate x) := by
  unfold State.arbitrate
  split
  · exact h
  · split
    · exact h
    · exact idle_grant h _

theorem idle_endTransfer (s : State) (x : StringId) : ¬ Waits x (s.endTransfer x) := by
  refine idle_arbitrate ?_
  rintro ⟨a, _, _, ha, -⟩
  rw [transfer_withTransfer] at ha
  cases ha

/-- Outside a reply window a byte is discarded (R166). -/
theorem stringByte_of_idle {x : StringId} (h : ¬ Waits x s) (b : Option Byte) : s.stringByte x b = s := by
  unfold State.stringByte
  split
  · rfl
  · split
    · rfl
    · exact absurd ⟨_, _, _, ‹_›, ‹_›⟩ h

/-! ## Bytes that confirm -/

/-- The images stay, and after that a sign is unmarked only with the image it has. -/
def Confirms (s t : State) : Prop :=
  ∃ u, (∀ k c d, s.sign k = some c → u.sign k = some d → d.image = c.image) ∧ Marks u t

/-- A command that confirms no image. -/
def markTerms : Terms := ⟨False, False, False, True⟩

theorem Confirms.of_marks (h : Marks s t) : Confirms s t :=
  ⟨s, fun _ _ _ hc hd => congrArg SignState.image (Option.some.inj (hd.symm.trans hc)), h⟩

theorem Confirms.trans (h : Confirms s t) (k : Keeps markTerms t u) : Confirms s u := by
  obtain ⟨v, same, marks⟩ := h
  exact ⟨v, same, marks.trans (k.marks nofun)⟩

/-- A new identity is marked (R160). -/
theorem Confirms.marked (h : Confirms s t) {k : Nat} {c d : SignState} (hc : s.sign k = some c) (hd : t.sign k = some d)
    (hne : d.image.identity ≠ c.image.identity) : d.marked = true := by
  obtain ⟨u, same, marks⟩ := h
  rcases marks k d hd with marked | ⟨e, he, -, identity⟩
  · exact marked
  · rw [same k c e hc he] at identity
    exact absurd identity hne

theorem succeed_confirms (s : State) (x : StringId) (a : Attempt) :
    Confirms s (s.succeed x a) ∧ ¬ Waits x (s.succeed x a) := by
  have ended : ∀ {v : State}, Confirms s v → Confirms s (v.endTransfer x) ∧ ¬ Waits x (v.endTransfer x) := fun h =>
    ⟨h.trans (beside_endTransfer _ x).keeps, idle_endTransfer _ x⟩
  have still : Confirms s s := .of_marks (.of_signs rfl)
  unfold State.succeed
  split
  · exact ended still
  · split
    · rename_i p c _ hc
      have confirmed : Confirms s
          ((s.withPanel a.sign (some (p.confirm a.sent s.now))).withSign a.sign (some (c.confirm a.sent))) := by
        refine ⟨_, fun k e d he hd => ?_, .of_signs rfl⟩
        rcases sign_withSign_cases _ hd with ⟨rfl, rfl⟩ | same
        · rw [(confirm_image c a.sent).1, Option.some.inj (hc.symm.trans he)]
        · exact congrArg SignState.image (Option.some.inj (same.symm.trans he))
      refine ended ((confirmed.trans ?_).trans (keeps_tellSign _ a.sign))
      exact (Beside.ite (beside_reportSign _ _ _) (.refl _)).keeps
    · exact ended still

/-- A failed attempt leaves the signs, or ends the transfer. -/
theorem failAttempt_cases (s : State) (x : StringId) (a : Attempt) (c : Failure) :
    (s.failAttempt x a c).composer = s.composer ∨ ¬ Waits x (s.failAttempt x a c) := by
  unfold State.failAttempt
  split
  · exact Or.inr (idle_endTransfer _ x)
  · split
    · exact Or.inr (idle_endTransfer _ x)
    · split
      · exact Or.inr (idle_endTransfer _ x)
      · split
        · exact Or.inl (beside_beginAttempt _ x _ _).composer
        · exact Or.inr (idle_endTransfer _ x)

/-- A byte leaves the signs, or it is the last that a string takes. -/
theorem stringByte_cases (s : State) (x : StringId) (b : Option Byte) :
    (s.stringByte x b).composer = s.composer ∨ Confirms s (s.stringByte x b) ∧ ¬ Waits x (s.stringByte x b) := by
  unfold State.stringByte
  split
  · exact Or.inl rfl
  · split
    · exact Or.inl rfl
    · split
      · exact Or.inl rfl
      · unfold State.takeVerdict
        split
        · exact Or.inl (beside_withTransfer s x _).composer
        · exact Or.inr (succeed_confirms s x _)
        · refine (failAttempt_cases s x _ _).imp_right fun idle => ⟨.of_marks ?_, idle⟩
          exact (keeps_failAttempt (g := markTerms) s x _ _).marks nofun

theorem stringBytes_confirms (s : State) (x : StringId) (bytes : List (Option Byte)) :
    Confirms s (s.stringBytes x bytes) := by
  have bytewise := keep_foldl (P := fun u : State => u.composer = s.composer ∨ Confirms s u ∧ ¬ Waits x u)
    (f := fun u b => u.stringByte x b) (fun u b h => by
      rcases h with same | ⟨confirms, idle⟩
      · refine (stringByte_cases u x b).imp (·.trans same) (And.imp_left fun ⟨v, images, marks⟩ => ⟨v, ?_, marks⟩)
        unfold State.sign at images ⊢
        rwa [same] at images
      · rw [stringByte_of_idle idle]
        exact Or.inr ⟨confirms, idle⟩) bytes s (Or.inl rfl)
  rcases bytewise with same | ⟨confirms, -⟩
  · exact .of_marks (.of_signs (congrArg SignComposer.signs same))
  · exact confirms

end Sys2Proof.Proofs
end

section
/-! Images and marks (O58): every step keeps every image what its sources give, and a command that changes an image's
identity leaves its sign marked (R102, R135 to R139, R147, R157 to R160). -/

namespace Sys2Proof.Proofs

open Sys2Proof Sys2Proof.Machine Sys2Proof.Laws Sys2Proof.Claims

variable {s t : State}

/-- Every step keeps the records naming only what is defined, and every image with its sources. -/
theorem step_images (e : step s = .next t) (hn : s.NoticesInOrder) (hw : s.TablesWhole) (hi : s.ImagesFollow) :
    t.TablesWhole ∧ t.ImagesFollow := by
  rcases step_acts e (given_step hn) trivial trivial with ⟨c, keeps⟩ | ⟨v, fresh, tables, keeps⟩
  · exact ⟨keeps.tables hw, fun j => keeps.images trivial hw j List.not_mem_nil (hi j)⟩
  · have after := keeps stepTerms
    exact ⟨after.tables (tables hw), fun j => after.images trivial (tables hw) j List.not_mem_nil (fresh.images j)⟩

theorem shownFrame_confirms {m : Moment} {x : StringId} {bytes : List (Option Byte)}
    (e : execShownFrameReceived m x bytes s = .next t) : Confirms s t := by
  unfold execShownFrameReceived at e
  cases hp : s.powered with
  | false =>
    rw [event_unpowered m _ s hp] at e
    cases e
    exact .of_marks (.of_signs rfl)
  | true =>
    rw [event_powered m _ s hp] at e
    cases e
    have taken : Confirms s ((s.elapse m).stringBytes x bytes) := stringBytes_confirms (s.elapse m) x bytes
    exact (taken.trans (keeps_settle _)).trans (beside_kick _).keeps

/-- Every command confirms the image a sign has at most, and marks every new one; a start marks every sign. -/
theorem exec_marks {i : Instr} {k : Nat} {c d : SignState} (e : exec i s = .next t) (hc : s.sign k = some c)
    (hd : t.sign k = some d) (hne : d.image.identity ≠ c.image.identity) : d.marked = true := by
  by_cases shown : ∃ m x bytes, i = .shownFrameReceived m x bytes
  · obtain ⟨m, x, bytes, rfl⟩ := shown
    exact (shownFrame_confirms e).marked hc hd hne
  · rcases exec_cases (g := markTerms) e ⟨nofun, nofun⟩ (fun m x bytes h => shown ⟨m, x, bytes, h⟩)
      fun _ _ => trivial with ⟨c', keeps⟩ | ⟨v, fresh, -, keeps⟩
    · exact (Confirms.of_marks (s := s) (keeps.marks nofun)).marked hc hd hne
    · rcases (keeps markTerms).marks nofun k d hd with marked | ⟨b, hb, unmarked, -⟩
      · exact marked
      · rw [fresh.marked k b hb] at unmarked
        cases unmarked

/-- Settles O58: images are kept with their sources as segments are, and of the commands the bytes of a SHOWN frame alone
take a mark off, from the identity that is shown. -/
theorem imagesFollowSources : Obligations.ImagesFollowSources := by
  unfold Obligations.ImagesFollowSources
  exact ⟨fun s t hn _ _ _ _ hw hi e => step_images e hn hw hi, fun i s t k c d e hc hd hne => exec_marks e hc hd hne⟩

end Sys2Proof.Proofs
end

section
/-! SUPPORT. Settling leaves the state of a segment that follows its sources (R93, R96, R114 to R117): of its entry gates
none is told, and those that begin to lower count as they did. -/

namespace Sys2Proof.Proofs

open Sys2Proof Sys2Proof.Machine Sys2Proof.Laws Sys2Proof.Claims

/-- A segment that follows its sources follows them as before, and they give what they gave. -/
structure Steady (k : Nat) (s t : State) : Prop where
  follows : SegmentFollows s k → SegmentFollows t k
  derives : SegmentFollows s k → t.deriveSegment k = s.deriveSegment k

variable {k : Nat} {s t u : State}

theorem Steady.refl (s : State) : Steady k s s := ⟨id, fun _ => rfl⟩

theorem Steady.trans (h : Steady k s t) (j : Steady k t u) : Steady k s u :=
  ⟨fun f => j.follows (h.follows f), fun f => (j.derives (h.follows f)).trans (h.derives f)⟩

theorem Steady.foldl {α : Type} {f : State → α → State} (hf : ∀ s x, Steady k s (f s x)) (xs : List α) (s : State) :
    Steady k s (xs.foldl f s) :=
  keep_foldl (P := Steady k s) (fun u x h => h.trans (hf u x)) xs s (.refl s)

theorem Beside.steady (h : Beside s t) : Steady k s t :=
  ⟨h.keeps.derived (g := stepTerms) trivial k List.not_mem_nil, fun _ => by rw [h.deriveSegment]⟩

/-- The state record stays, and the sources give what they gave. -/
theorem SameRoad.steady (h : SameRoad s t k) (hs : t.segments = s.segments) (hr : t.settings = s.settings) :
    Steady k s t :=
  ⟨fun f => f.congr (by rw [hs]) (by rw [hr]) (funext h.deriveSegment), fun _ => funext h.deriveSegment⟩

/-! ## Gates of other segments, and gates of the same class -/

theorem sameRoad_of_sources (h : sources t = sources u) : SameRoad u t k := by
  refine ⟨?_, ?_, ?_, ?_⟩
  · exact (congrArg (fun w : State => w.governing .closure k) h :)
  · exact (congrArg (fun w : State => w.governing .restriction k) h :)
  · exact (congrArg (fun w : State => w.highest [k]) h :)
  · exact (congrArg (fun w : State => (w.entryPositions k).map entryClass) h :)

theorem steady_movedGate {j : Nat} {r : GateRecord} {old new : GateState} (c : GateCause)
    (hr : lookup s.settings.gates j = some r) (ho : s.gate j = some old)
    (h : entryClass old.position = entryClass new.position) : Steady k s (movedGate j c old new s) := by
  have sourced := movedGate_sources j c old new s
  have moved : SameRoad s (s.withGate j (some new)) k := ⟨rfl, rfl, rfl, entryPositions_withGate new hr ho (Or.inr h)⟩
  have road : SameRoad s (movedGate j c old new s) k := by
    obtain ⟨closure, restriction, highest, entries⟩ := sameRoad_of_sources (k := k) sourced
    exact ⟨closure.trans moved.closure, restriction.trans moved.restriction, highest.trans moved.highest,
      entries.trans moved.entries⟩
  exact road.steady (congrArg (fun w : State => w.segments) sourced :)
    (congrArg SettingsStore.working (movedGate_store j c old new s))

/-- A gate of another segment answers its tell. -/
theorem steady_answerTell {x : Nat × Bool} (h : ∀ r, lookup s.settings.gates x.1 = some r → r.segment ≠ k) :
    Steady k s (s.answerTell x) := by
  have reaction : Reaction s (s.answerTell x) := reaction_answerTell s x
  refine ⟨(unsettles_answerTell (g := stepTerms) s x).derived trivial k List.not_mem_nil, fun _ => ?_⟩
  have governing : (s.answerTell x).governing = s.governing :=
    congrArg (fun r : Retained => fun kind k => earliest (r.notices.filter (Notice.covers kind k))) reaction.retained
  have road : SameRoad s (s.answerTell x) k := by
    refine ⟨by rw [governing], by rw [governing], ?_, congrArg (List.map entryClass) ?_⟩
    · unfold State.highest State.figures
      rw [reaction.settings, reaction.retained]
    · unfold State.entryPositions
      rw [reaction.settings]
      refine List.filterMap_congr fun j hj => ?_
      obtain ⟨q, hq, hseg⟩ := mem_entryGates.mp hj
      have same := (answerTell_gate s x j).resolve_right fun ⟨e, _⟩ => h q (e ▸ hq) hseg
      exact congrArg (Option.map GateState.position) same
  exact funext road.deriveSegment

theorem steady_answerTells (xs : List (Nat × Bool)) (s : State)
    (h : ∀ x ∈ xs, ∀ r, lookup s.settings.gates x.1 = some r → r.segment ≠ k) : Steady k s (s.answerTells xs) := by
  induction xs generalizing s with
  | nil => exact .refl s
  | cons x xs ih =>
    refine (steady_answerTell (h x List.mem_cons_self)).trans (ih _ fun y hy r hr => ?_)
    rw [(reaction_answerTell s x).settings] at hr
    exact h y (List.mem_cons_of_mem _ hy) r hr

/-! ## Hand-overs -/

/-- A segment that follows its sources is told no closure in force anew (R96). -/
theorem cifTells_of_follows {ks : List Nat} (h : SegmentFollows s k) :
    ∀ x ∈ (s.rederive ks).flatMap s.settings.cifTells, ∀ r, lookup s.settings.gates x.1 = some r → r.segment ≠ k := by
  intro x hx r hr own
  obtain ⟨d, hd, hx⟩ := List.mem_flatMap.mp hx
  obtain ⟨-, q, hq, before, after⟩ := mem_rederive.mp hd
  unfold Settings.cifTells at hx
  split at hx
  · cases hx
  · rename_i changed
    obtain ⟨i, hi, rfl⟩ := List.mem_map.mp hx
    obtain ⟨p, hp, hseg⟩ := mem_entryGates.mp hi
    obtain rfl : p = r := Option.some.inj (hp.symm.trans hr)
    have ownSegment : d.segment = k := hseg.symm.trans own
    refine changed (congrArg SegmentState.toldCif ?_)
    unfold SegmentFollows at h
    rw [← ownSegment, before, hq] at h
    rw [after]
    exact Option.some.inj h

theorem deriveSegment_recompose (s : State) (js : List Nat) : (s.recompose js).deriveSegment = s.deriveSegment := by
  obtain ⟨x, hx⟩ := recompose_sources s js
  rw [deriveSegment_sources, hx]
  rfl

theorem steady_handOver (s : State) (ks signs : List Nat) : Steady k s (s.handOver ks signs) := by
  have self : Unsettles stepTerms ks signs s s :=
    ⟨fun _ _ => ⟨rfl, rfl⟩, fun _ _ _ h => h, id, id, fun _ _ _ _ h => h, fun _ => .of_signs rfl, nofun⟩
  refine ⟨self.handOver.derived trivial k List.not_mem_nil, fun follows => ?_⟩
  have evaluated : ((s.evaluate ks).1.recompose signs).deriveSegment = s.deriveSegment := by
    rw [deriveSegment_recompose, evaluate_eq]
    exact (deriveSegment_recompose _ _).trans (deriveSegment_derivedAnew ks s)
  have settings : ((s.evaluate ks).1.recompose signs).settings = s.settings := by
    rw [recompose_settings, evaluate_eq]
    exact (recompose_settings _ _).trans (settings_derivedAnew ks s)
  have kept : SegmentFollows ((s.evaluate ks).1.recompose signs) k :=
    (self.evaluate.recompose (rest := []) signs fun _ hj => Or.inr hj).derived trivial k List.not_mem_nil follows
  rw [handOver_eq]
  refine ((steady_answerTells (s.evaluate ks).2 _ ?_).derives kept).trans (congrFun evaluated k)
  rw [settings, evaluate_eq]
  exact cifTells_of_follows follows

/-! ## Settling -/

theorem steady_loweringTest (s : State) (j : Nat) : Steady k s (s.loweringTest j) := by
  unfold State.loweringTest
  split
  · rename_i r x hr hx
    split
    · rename_i lowers
      have warning : x.position = .warning := by
        simp only [State.mayLower, Bool.and_eq_true, beq_iff_eq] at lowers
        tauto
      unfold State.changeGate
      rw [changeGateWith_eq _ _ hr hx]
      have moved : Steady k s
          (movedGate j .hold x { x with position := .lowering, travelExpiry := some (s.travelEnd r) } s) :=
        steady_movedGate _ hr hx (by rw [warning]; rfl)
      split
      · exact moved
      · exact (moved.trans (beside_applyOrder _ _).steady).trans (steady_handOver _ _ _)
    · exact .refl s
  · exact .refl s

theorem steady_reviewHold (s : State) (j : Nat) : Steady k s (s.reviewHold j) := by
  unfold State.reviewHold
  split
  · rename_i r x hr hx
    split
    · have held : Steady k s (movedGate j .hold x { x with holdStart := s.followedHold r x } s) :=
        steady_movedGate _ hr hx rfl
      unfold movedGate at held
      rw [if_pos rfl] at held
      exact held.trans (steady_loweringTest _ j)
    · exact .refl s
  · exact .refl s

theorem steady_settle (s : State) : Steady k s s.settle := by
  have tells : ∀ u : State, Steady k u u.giveTells := fun u =>
    (beside_withStrings u { u.strings with tells := [] }).steady.trans
      (Steady.foldl (fun u x => Steady.foldl steady_reviewHold _ u) u.strings.tells _)
  have round : ∀ u : State, Steady k u u.settleRound := fun u => (tells u).trans (beside_runArbiters _).steady
  exact ((round s).trans (round _)).trans (round _)

/-- What follows the carrying out of a request leaves the state of a segment that follows its sources. -/
theorem steady_request {m : Moment} {kind tag : Byte} {fields : List Byte} {f : State → State × Answer} {s t : State}
    (hr : Ready s kind tag fields) (e : request m kind tag fields f s = .next t) :
    Steady k (f (s.elapse m).popFrame).1 t := by
  rw [request_taken m kind tag fields f s hr.1 (takes_of_ready hr)] at e
  injection e with e
  rw [← e]
  exact (((steady_settle _).trans (beside_placeReply _ _).steady).trans (steady_settle _)).trans (beside_kick _).steady

end Sys2Proof.Proofs
end

section
/-! DEFINE_SEGMENT and REMOVE_SEGMENT (O21): a new segment is reported from UNDEFINED, a redefined one follows its sources
and its reply carries its state, and one that no record names goes (R99 to R102). -/

namespace Sys2Proof.Proofs

open Sys2Proof Sys2Proof.Machine Sys2Proof.Laws Sys2Proof.Claims

variable {m : Moment} {tag : Byte} {f : List Byte} {s t : State} {k : Nat} {r : SegmentRecord}

/-! ## What the requests touch -/

theorem frame_setSegment (s : State) (k : Nat) (r : Option SegmentRecord) :
    Frame [.segmentRecords] s (s.change (Settings.setSegment k r)) := by
  intro p hp
  cases p with
  | segmentRecords => exact absurd (List.mem_singleton_self _) hp
  | memories | readouts | transfers | arbiters | receiver | reports | link | write => exact ⟨rfl, rfl⟩
  | _ => exact rfl

theorem frame_segmentPut (s : State) (k : Nat) (r : Option SegmentRecord) (d : Option SegmentState) :
    Frame [.segmentRecords, .segments] s (segmentPut k r d s) := by
  intro p hp
  cases p with
  | segmentRecords => exact absurd List.mem_cons_self hp
  | segments => exact absurd (List.mem_cons_of_mem _ (List.mem_singleton_self _)) hp
  | memories | readouts | transfers | arbiters | receiver | reports | link | write => exact ⟨rfl, rfl⟩
  | _ => exact rfl

/-- A taken request that changes some parts and queues a report, and leaves nothing to settle. -/
theorem request_reports {kind : Byte} {F : State → State × Answer} {u : State} {a : Answer} {also : List Part}
    (b : ReportBody) (hr : Ready s kind tag f) (hs : s.Settled) (hF : F (s.elapse m).popFrame = (u.report b, a))
    (hu : Frame also (s.elapse m).popFrame u)
    (ha : ∀ p ∈ [Part.arbiters, .moment, .inbound, .outbox, .reports, .clock], p ∉ also) :
    ∃ t, request m kind tag f F s = .next t ∧ Passed m s t ∧ Answered s t kind tag a ∧ Reported [b] s t ∧
      Frame [.transmitter, .outbox, .reports, .choices] u t ∧ Frame (answered ++ also) s t := by
  have toReport : Frame (also ++ [.reports]) (s.elapse m).popFrame (u.report b) := Frame.trans hu (frame_report u b)
  have stays : ∀ p ∈ [Part.arbiters, .moment, .inbound, .outbox], p ∉ also ++ [Part.reports] := by
    intro p hp hm
    rcases List.mem_append.mp hm with hm | hm
    · exact ha p (List.mem_append_left [Part.reports, .clock] hp) hm
    · obtain rfl := List.mem_singleton.mp hm
      simp at hp
  obtain ⟨due, tells⟩ := toReport .arbiters (stays _ (by simp))
  have outbox : (u.report b).line.outbox = s.line.outbox := toReport .outbox (stays _ (by simp))
  obtain ⟨t, e, frame, records, out⟩ := request_plain m kind tag f F s hr (by rw [hF]; exact due.trans hs.1)
    (by rw [hF]; exact tells.trans hs.2)
  rw [hF] at frame records out
  obtain ⟨buffer, sequence⟩ := hu .reports (ha _ (by simp))
  have reported : recordsOf (u.report b).line = recordsOf (s.reports [b]).line :=
    reports_records [b] u s (Prod.ext (congrArg (List.map Buffered.record) buffer) sequence) (hu .clock (ha _ (by simp)))
  refine ⟨t, e, (frame .moment (by decide)).trans (toReport .moment (stays _ (by simp))),
    ⟨(frame .inbound (by decide)).trans (toReport .inbound (stays _ (by simp))), by rw [out, outbox]⟩,
    reported_of_records (records.trans reported), ?_, ?_⟩
  · exact Frame.mono (Frame.trans (frame_report u b) frame) (by decide)
  · refine Frame.mono (Frame.trans (frame_popped m s) (Frame.trans toReport frame)) fun p hp => ?_
    simp only [answered, always, List.mem_append, List.mem_cons, List.not_mem_nil, or_false] at hp ⊢
    tauto

/-! ## DEFINE_SEGMENT of a new segment (R100) -/

theorem carryDefineSegment_accepted (s : State) (hl : f.length = 4) (h1 : 1 ≤ byteAt f 0) (h8 : byteAt f 0 ≤ 8)
    (hc : 1 ≤ (segmentOf f).caution) (hp : (segmentOf f).caution ≤ (segmentOf f).permit)
    (h4 : (segmentOf f).permit ≤ 4) : carryDefineSegment f s = (s.putSegment (byteAt f 0) (segmentOf f),
      .done [byte (byteAt f 0), (s.putSegment (byteAt f 0) (segmentOf f)).segmentCode (byteAt f 0)]) := by
  have accepted : segmentRefusal f = none :=
    none_of_finds (finds_segment f) (Or.inr ⟨hl, Or.inr ⟨⟨h1, h8, hc, hp, h4⟩, rfl⟩⟩)
  unfold carryDefineSegment
  rw [accepted]
  rfl

theorem putSegment_new (h : lookup s.settings.segments k = none) : s.putSegment k r =
    (segmentPut k (some r) (some (s.deriveSegment k r)) s).report (.segment k none (some (s.deriveSegment k r).state)
      (s.deriveSegment k r).hmax (s.deriveSegment k r).closure) := by
  unfold State.putSegment
  rw [h]
  rfl

theorem segmentCode_of_lookup {d : SegmentState} (h : lookup s.segments k = some d) : s.segmentCode k = d.state.code := by
  unfold State.segmentCode
  rw [h]

/-- A new segment has the state its sources give, which the reply carries. -/
theorem defineSegment_new (hr : Ready s kindDefineSegment tag f) (hs : s.Settled) (hl : f.length = 4)
    (h1 : 1 ≤ byteAt f 0) (h8 : byteAt f 0 ≤ 8) (hc : 1 ≤ (segmentOf f).caution)
    (hp : (segmentOf f).caution ≤ (segmentOf f).permit) (h4 : (segmentOf f).permit ≤ 4)
    (hn : lookup s.settings.segments (byteAt f 0) = none) :
    ∃ t, Taken (.defineSegment m tag f) m kindDefineSegment tag
        (.done [byte (byteAt f 0), (s.deriveSegment (byteAt f 0) (segmentOf f)).state.code]) s t ∧
      Put s.settings.segments t.settings.segments (byteAt f 0) (some (segmentOf f)) ∧
      Put s.segments t.segments (byteAt f 0) (some (s.deriveSegment (byteAt f 0) (segmentOf f))) ∧
      Reported [.segment (byteAt f 0) none (some (s.deriveSegment (byteAt f 0) (segmentOf f)).state)
        (s.deriveSegment (byteAt f 0) (segmentOf f)).hmax (s.deriveSegment (byteAt f 0) (segmentOf f)).closure] s t ∧
      Frame (answered ++ [.segmentRecords, .segments]) s t := by
  generalize hd : s.deriveSegment (byteAt f 0) (segmentOf f) = d
  have put := putSegment_new (s := (s.elapse m).popFrame) (k := byteAt f 0) (r := segmentOf f) hn
  rw [show (s.elapse m).popFrame.deriveSegment (byteAt f 0) (segmentOf f) = d from hd] at put
  have state : lookup ((s.elapse m).popFrame.putSegment (byteAt f 0) (segmentOf f)).segments (byteAt f 0) = some d := by
    rw [put]
    exact lookup_putItem_self s.segments _ h1 h8
  have carried := carryDefineSegment_accepted (s.elapse m).popFrame hl h1 h8 hc hp h4
  rw [segmentCode_of_lookup state, put] at carried
  obtain ⟨t, he, hpass, hans, reported, fromPut, frame⟩ := request_reports _ hr hs carried (frame_segmentPut _ _ _ _)
    (by decide)
  refine ⟨t, ⟨he, hpass, hans⟩, ?_, ?_, reported, frame⟩
  · rw [show t.settings.segments = _ from fromPut .segmentRecords (by decide)]
    exact put_putItem s.settings.segments _ h1 h8
  · rw [show t.segments = _ from fromPut .segments (by decide)]
    exact put_putItem s.segments _ h1 h8

/-! ## DEFINE_SEGMENT of a defined segment (R101) -/

theorem putSegment_redefined {old : SegmentRecord} (h : lookup s.settings.segments k = some old) : s.putSegment k r =
    (s.change (Settings.setSegment k (some r))).handOver [k]
      (if old.nameEntry = r.nameEntry then []
        else (s.change (Settings.setSegment k (some r))).settings.announcing [k]) := by
  unfold State.putSegment
  rw [h]
  rfl

/-- A hand-over of a segment that stands leaves it with its sources. -/
theorem handOver_follows (signs : List Nat)
    (hs : (lookup s.segments k).isSome = (lookup s.settings.segments k).isSome) :
    SegmentFollows (s.handOver [k] signs) k := by
  have derived := derivedAnew_follows (ks := [k]) (Or.inl (List.mem_singleton_self k)) hs
  rw [handOver_eq, evaluate_eq]
  refine (unsettles_answerTells (g := stepTerms) _ _).derived trivial k List.not_mem_nil ?_
  refine (unsettles_recompose (g := stepTerms) _ signs).derived trivial k List.not_mem_nil ?_
  exact (unsettles_recompose (g := stepTerms) _ _).derived trivial k List.not_mem_nil derived

theorem defineSegment_redefined (hr : Ready s kindDefineSegment tag f) (hl : f.length = 4)
    (h1 : 1 ≤ byteAt f 0) (h8 : byteAt f 0 ≤ 8) (hc : 1 ≤ (segmentOf f).caution)
    (hp : (segmentOf f).caution ≤ (segmentOf f).permit) (h4 : (segmentOf f).permit ≤ 4)
    (hdef : lookup s.settings.segments (byteAt f 0) ≠ none) (hst : lookup s.segments (byteAt f 0) ≠ none) :
    ∃ t, Taken (.defineSegment m tag f) m kindDefineSegment tag
        (.done [byte (byteAt f 0), (t.deriveSegment (byteAt f 0) (segmentOf f)).state.code]) s t ∧
      Put s.settings.segments t.settings.segments (byteAt f 0) (some (segmentOf f)) ∧
      lookup t.segments (byteAt f 0) = some (t.deriveSegment (byteAt f 0) (segmentOf f)) ∧ RoadReacts s t ∧
      ReportedFirst [] s t ∧ Frame (answered ++ road ++ [.segmentRecords]) s t := by
  obtain ⟨old, hold⟩ := Option.ne_none_iff_exists'.mp hdef
  have put := putSegment_redefined (s := (s.elapse m).popFrame) (r := segmentOf f) hold
  have carried := carryDefineSegment_accepted (s.elapse m).popFrame hl h1 h8 hc hp h4
  rw [put] at carried
  generalize (if old.nameEntry = (segmentOf f).nameEntry then [] else ((s.elapse m).popFrame.change
    (Settings.setSegment (byteAt f 0) (some (segmentOf f)))).settings.announcing [byteAt f 0]) = signs at put carried
  have based := frame_setSegment (s.elapse m).popFrame (byteAt f 0) (some (segmentOf f))
  have record : lookup ((s.elapse m).popFrame.change
      (Settings.setSegment (byteAt f 0) (some (segmentOf f)))).settings.segments (byteAt f 0) = some (segmentOf f) := lookup_putItem_self s.settings.segments _ h1 h8
  have follows : SegmentFollows (((s.elapse m).popFrame.change
      (Settings.setSegment (byteAt f 0) (some (segmentOf f)))).handOver [byteAt f 0] signs) (byteAt f 0) := by
    refine handOver_follows signs ?_
    rw [record]
    exact Option.isSome_iff_ne_none.mpr hst
  obtain ⟨t, he, hpass, hans, hroad, hfol, fromBase, frame⟩ :=
    request_reacts hr carried based (by decide) (settles_of_reaction (reaction_handOver _ _ _) (ripple_handOver _ _ _)
      (reach_handOver _ _ _))
  have steady : Steady (byteAt f 0) _ t := steady_request hr he
  rw [carried] at steady
  have recorded : lookup t.settings.segments (byteAt f 0) = some (segmentOf f) := by
    rw [show t.settings.segments = _ from fromBase .segmentRecords (by decide)]
    exact record
  have settled : lookup t.segments (byteAt f 0) = some (t.deriveSegment (byteAt f 0) (segmentOf f)) := by
    rw [steady.follows follows, recorded]
    rfl
  have replied := steady.derives follows
  unfold SegmentFollows at follows
  rw [(reaction_handOver _ _ _).settings, record, ← replied] at follows
  rw [segmentCode_of_lookup follows] at hans
  refine ⟨t, ⟨he, hpass, hans⟩, ?_, settled, hroad, ?_, frame⟩
  · rw [show t.settings.segments = _ from fromBase .segmentRecords (by decide)]
    exact put_putItem s.settings.segments _ h1 h8
  · refine reportedFirst_of_follows (bs := []) ?_ ?_ hfol
    · rfl
    · rfl

/-! ## REMOVE_SEGMENT (R102) -/

theorem carryRemoval_segment (s : State) (hr : lookup s.settings.segments k = some r) :
    carryRemoval [2, byte k] carryRemoveSegment s =
      if s.segmentNamed k then refuse .conflict s else accept [byte k] (s.dropSegment k) := by
  obtain ⟨h1, h8⟩ := lookup_bounds _ hr
  have item : byteAt [2, byte k] 0 = 2 := rfl
  have number : byteAt [2, byte k] 1 = k := Nat.mod_eq_of_lt (by omega)
  unfold carryRemoval
  rw [if_neg (by simp), if_neg (by rw [item]; decide), number]
  unfold carryRemoveSegment removeItem
  rw [if_neg (by simp [within_iff, h1, h8]), hr]

theorem removeSegment_removes (hr : Ready s kindRemoveItem tag [2, byte k]) (hs : s.Settled)
    (hrec : lookup s.settings.segments k = some r) (hn : s.segmentNamed k = false) :
    ∃ t, Taken (.removeSegment m tag [2, byte k]) m kindRemoveItem tag (.done [byte k]) s t ∧
      Put s.settings.segments t.settings.segments k none ∧ Put s.segments t.segments k none ∧
      Reported [.segment k (some .free) none 0 none] s t ∧ Frame (answered ++ [.segmentRecords, .segments]) s t := by
  obtain ⟨h1, h8⟩ := lookup_bounds _ hrec
  have carried := carryRemoval_segment (s.elapse m).popFrame hrec
  have unnamed : (s.elapse m).popFrame.segmentNamed k = false := hn
  rw [unnamed, if_neg Bool.false_ne_true] at carried
  have dropped : (s.elapse m).popFrame.dropSegment k =
      (segmentPut k none none (s.elapse m).popFrame).report (.segment k (some .free) none 0 none) := rfl
  unfold accept at carried
  rw [dropped] at carried
  obtain ⟨t, he, hpass, hans, reported, fromPut, frame⟩ := request_reports _ hr hs carried (frame_segmentPut _ _ _ _)
    (by decide)
  refine ⟨t, ⟨he, hpass, hans⟩, ?_, ?_, reported, frame⟩
  · rw [show t.settings.segments = _ from fromPut .segmentRecords (by decide)]
    exact put_putItem s.settings.segments _ h1 h8
  · rw [show t.segments = _ from fromPut .segments (by decide)]
    exact put_putItem s.segments _ h1 h8

theorem removeSegment_refused (hr : Ready s kindRemoveItem tag [2, byte k]) (hs : s.Settled)
    (hrec : lookup s.settings.segments k = some r) (hn : s.segmentNamed k = true) :
    Refuses (.removeSegment m tag [2, byte k]) m kindRemoveItem tag .conflict .noReason s := by
  have carried := carryRemoval_segment (s.elapse m).popFrame hrec
  have named : (s.elapse m).popFrame.segmentNamed k = true := hn
  rw [named, if_pos rfl] at carried
  obtain ⟨t, he, hpass, hans, quiet⟩ := request_same m kindRemoveItem tag _ _ s _ hr hs carried
  exact ⟨t, ⟨he, hpass, hans⟩, quiet⟩

/-- Whether any record names a segment (R102). -/
theorem segmentNamed_iff (s : State) (k : Nat) : s.segmentNamed k = true ↔
    (∃ j q, lookup s.settings.paths j = some q ∧ k ∈ q.segments) ∨
      (∃ j q, lookup s.settings.gates j = some q ∧ q.segment = k) ∨
      (∃ j q, lookup s.settings.signs j = some q ∧ k ∈ q.segments) ∨ ∃ n ∈ s.retained.notices, k ∈ n.segments := by
  rw [← Bool.not_eq_false, segmentNamed_eq_false]
  simp only [not_and_or, not_forall, not_not, exists_prop, ne_eq]

/-- Settles O21: a new segment and a removed one put and reported, a redefined one followed through its hand-over. -/
theorem segmentsDefinedAndRemoved : Obligations.SegmentsDefinedAndRemoved := by
  unfold Obligations.SegmentsDefinedAndRemoved
  refine ⟨?_, fun m tag s k r hr hs hrec named hnamed => ⟨fun h => ?_, fun h => ?_⟩⟩
  · rintro m tag f s k r hr hs hl rfl rfl h1 h8 hc hp h4
    exact ⟨defineSegment_new hr hs hl h1 h8 hc hp h4, defineSegment_redefined hr hl h1 h8 hc hp h4⟩
  · exact removeSegment_refused hr hs hrec ((segmentNamed_iff s k).mpr (hnamed.mp h))
  · exact removeSegment_removes hr hs hrec
      (Bool.eq_false_iff.mpr fun n => h (hnamed.mpr ((segmentNamed_iff s k).mp n)))

end Sys2Proof.Proofs
end

section
/-! The derivation of a gate, and the change events of its limit switches (O16, O12). -/

namespace Sys2Proof.Proofs

open Sys2Proof Sys2Proof.Machine Sys2Proof.Laws Sys2Proof.Claims

/-! ## The derivation (R111, R115) -/

/-- A hold starts with the present second, if every approach sign agrees. -/
theorem freshHold_agreeing {s : State} {r : GateRecord} (h : ∀ sign ∈ r.approach, s.Agrees r.segment sign) :
    s.freshHold r = some s.seconds := if_pos ((hold_iff s r).mpr h)

theorem freshHold_differing {s : State} {r : GateRecord} (h : ∃ sign ∈ r.approach, ¬ s.Agrees r.segment sign) :
    s.freshHold r = none := by
  obtain ⟨sign, mem, differs⟩ := h
  exact if_neg fun held => differs ((hold_iff s r).mp held sign mem)

theorem keyActive_eq (s : State) (r : GateRecord) : s.keyActive r = (decide (r.key ≠ 0) && s.accepted r.key) := by
  unfold State.keyActive
  by_cases h : r.key = 0 <;> simp [h]

theorem deriveGate_position (s : State) (r : GateRecord) : (s.deriveGate r).position =
    derivedPosition (decide (r.key ≠ 0) && s.accepted r.key) (s.accepted r.upSwitch) (s.accepted r.downSwitch)
      (s.cif r.segment) := by
  rw [← keyActive_eq]
  rfl

/-- Settles O16: the two tables row by row, the derived hold by whether the derived state is WARNING. -/
theorem gateDerivation : Obligations.GateDerivation := by
  refine ⟨fun up down cif => ?_, fun s r => ⟨deriveGate_position s r, rfl, rfl, fun warned agree => ?_, fun other => ?_⟩, fun kind cause => ?_⟩
  · cases cif <;> exact ⟨rfl, rfl, rfl, rfl, rfl, rfl⟩
  · exact (if_pos warned).trans (freshHold_agreeing agree)
  · by_cases warned : (s.deriveGate r).position = .warning
    · exact (if_pos warned).trans (freshHold_differing (other.resolve_left fun h => h warned))
    · exact if_neg warned
  · exact ⟨rfl, rfl, rfl, rfl, rfl, rfl, rfl⟩

/-! ## Events in which a gate changes and is told more -/

theorem follows_loweringTest (s : State) (k : Nat) : Follows s (s.loweringTest k) :=
  .of_reaction (reaction_loweringTest s k) (ripple_loweringTest s k) (reach_loweringTest s k)

/-- An event whose effect is a change of a gate and a reaction after it. -/
theorem event_moves_then {m : Moment} {f : State → State} {s u : State} {k : Nat} {r : GateRecord} {g new : GateState}
    {cause : GateCause} {also : List Part} (hp : s.powered = true)
    (hF : Follows (u.changeGate k cause new) (f (s.elapse m)))
    (ho : (f (s.elapse m)).line.outbox = (u.changeGate k cause new).line.outbox)
    (hr : lookup s.settings.gates k = some r) (hg : s.gate k = some g) (hset : u.settings = s.settings)
    (hf : Frame also (s.elapse m) u) (hal : ∀ p ∈ also, p ∈ [Part.inputs, .zones]) :
    ∃ t, event m f s = .next t ∧ Passed m s t ∧ Frame (always ++ road) u t ∧ Moves k g new cause also s t := by
  have off : ∀ p, p ∉ [Part.inputs, .zones] → p ∉ also := fun p hp hm => hp (hal p hm)
  have hg' : u.gate k = some g := (congrArg (lookup · k) (hf .gates (off _ (by decide)))).trans hg
  obtain ⟨t, he, hft, hto⟩ := event_reacts m f s hp
  have outbox : t.line.outbox = u.line.outbox :=
    hto.trans (ho.trans (reaction_changeGate u k cause new).outbox)
  have changed := follows_changeGate (s := u) cause new (by rw [hset]; exact hr) hg'
  have follows := changed.trans (hF.trans hft)
  have frame : Frame (always ++ road) u t := by
    refine frame_of_follows (Frame.mono (frame_midGate k r cause g new u) (by decide)) follows (fun p hp => hp)
      (Or.inr ?_)
    rw [outbox, midGate_line, reports_line]
  have now : t.now = u.now := (congrArg Still.now (hF.trans hft).still).trans (reaction_changeGate u k cause new).now
  refine ⟨t, he, now.trans (hf .moment (off _ (by decide))), frame, ?_⟩
  refine moves_of_mid (u := u) hr hg hset ?_ (fun p h => ?_) ?_ follows (Or.inl outbox)
  · refine Frame.mono (Frame.trans (frame_elapse m s) hf) fun p hp => ?_
    simp only [List.mem_append, List.mem_cons, List.not_mem_nil, or_false, always] at hp ⊢
    tauto
  · exact List.mem_of_mem_take (i := 2) (hal p h)
  · have := hf .reports (off _ (by decide))
    exact Prod.ext (congrArg (List.map Buffered.record) this.1) this.2

/-! ## The limit switches (R119, R120, R123 to R126) -/

/-- What a switch event does to a gate, by the outcome the tables give. -/
def switchOutcome (k : Nat) (s : State) (o : Option (GateState × GateCause)) : State :=
  match o with
  | some (new, cause) => s.changeGate k cause new
  | none => s

theorem bothSwitches_eq (s : State) (k : Nat) (g : GateState) :
    s.bothSwitches k g = switchOutcome k s (bothOutcome g) := by
  unfold State.bothSwitches bothOutcome
  cases g.position with
  | stopped cause => cases cause <;> rfl
  | _ => rfl

theorem downSwitchRose_eq {s : State} {k : Nat} {r : GateRecord} {g : GateState}
    (hr : lookup s.settings.gates k = some r) (hg : s.gate k = some g) :
    s.downSwitchRose k =
      switchOutcome k s (if s.accepted r.upSwitch then bothOutcome g else downOutcome g) := by
  unfold State.downSwitchRose
  simp only [hr, hg]
  split
  · exact bothSwitches_eq s k g
  · unfold downOutcome
    cases g.position with
    | stopped cause => cases cause <;> rfl
    | _ => rfl

theorem foundUp_eq (s : State) (k : Nat) (r : GateRecord) (g : GateState) : s.foundUp k r g =
    s.changeGate k .forced (atRest (if s.cif r.segment then .stopped .forced else .up) g.reversals) := by
  unfold State.foundUp
  cases s.cif r.segment <;> rfl

/-- The up limit of a raise, but for the hold: the outcome of the table, and a lowering test where the raise reversed
an obstructed gate under a closure. -/
theorem upLimit_eq (s : State) (k : Nat) (r : GateRecord) (g : GateState) (kind : RaiseKind) :
    ∃ hold, (hold = none ∨ s.cif r.segment = true) ∧
      (s.upLimit k r g kind = s.changeGate k .limit
          { atRest (if s.cif r.segment then .warning else .up) g.reversals with holdStart := hold } ∨
        s.upLimit k r g kind = (s.changeGate k .limit
          { atRest (if s.cif r.segment then .warning else .up) g.reversals with holdStart := hold }).loweringTest k) := by
  unfold State.upLimit
  cases closed : s.cif r.segment with
  | false => exact ⟨none, .inl rfl, .inl rfl⟩
  | true =>
    cases kind with
    | requested => exact ⟨s.freshHold r, .inr rfl, .inl rfl⟩
    | obstruction => exact ⟨g.holdStart, .inr rfl, .inr rfl⟩

/-- Whether a rising up-switch is the up limit of a raise. -/
def atUpLimit (s : State) (r : GateRecord) (g : GateState) : Prop :=
  s.accepted r.downSwitch = false ∧ ∃ kind, g.position = .raising kind

theorem upSwitchRose_eq {s : State} {k : Nat} {r : GateRecord} {g : GateState}
    (hr : lookup s.settings.gates k = some r) (hg : s.gate k = some g) (h : ¬ atUpLimit s r g) :
    s.upSwitchRose k =
      switchOutcome k s (if s.accepted r.downSwitch then bothOutcome g else upOutcome (s.cif r.segment) g) := by
  unfold State.upSwitchRose
  simp only [hr, hg]
  split
  · exact bothSwitches_eq s k g
  · rename_i inactive
    unfold upOutcome
    cases hpos : g.position with
    | raising kind => exact absurd ⟨Bool.eq_false_iff.mpr inactive, kind, hpos⟩ h
    | stopped cause =>
      cases cause with
      | position => exact foundUp_eq s k r g
      | forced => exact foundUp_eq s k r g
      | _ => rfl
    | down => exact foundUp_eq s k r g
    | _ => rfl

theorem upSwitchRose_limit {s : State} {k : Nat} {r : GateRecord} {g : GateState} {kind : RaiseKind}
    (hr : lookup s.settings.gates k = some r) (hg : s.gate k = some g) (hd : s.accepted r.downSwitch = false)
    (hpos : g.position = .raising kind) : s.upSwitchRose k = s.upLimit k r g kind := by
  unfold State.upSwitchRose
  simp only [hr, hg, hd, hpos]
  rfl

/-- What the statement says of the gate after a rising switch event with an outcome. -/
def SwitchMoves (k : Nat) (g : GateState) (o : Option (GateState × GateCause)) (s t : State) : Prop :=
  (o = none → Quiet [.inputs] s t) ∧ ∀ new cause, o = some (new, cause) → Moves k g new cause [.inputs] s t

section
variable {m : Moment} {line : Nat} {s : State} {c : Candidate} {k : Nat} {r : GateRecord} {g : GateState}
  (hp : s.powered = true) (hs : s.Settled) (hc : Claims.Held s m line c)
  (hr : lookup s.settings.gates k = some r) (hg : s.gate k = some g)
include hp hs hc hr hg

/-- A switch event that comes to an outcome of the tables. -/
theorem switch_event {o : Option (GateState × GateCause)}
    (effect : changeEffect line (s.elapse m) = switchOutcome k (acceptedInput line c.level m s) o) :
    ∃ t, exec (.changeEvent m line) s = .next t ∧ Passed m s t ∧ Accepts s t line c.level ∧ SwitchMoves k g o s t := by
  have frame : Frame [.inputs] (s.elapse m) (acceptedInput line c.level m s) := frame_withInput (s.elapse m) line _
  cases o with
  | none =>
    obtain ⟨t, he, hpass, hu, hq⟩ := event_quiet m (changeEffect line) s _ [.inputs] hp hs effect frame (by decide)
    exact ⟨t, he, hpass, accepts_of_inputs hc (hu .inputs (by decide)), fun _ => hq, nofun⟩
  | some x =>
    obtain ⟨new, cause⟩ := x
    obtain ⟨t, he, hpass, hu, hm⟩ := event_moves m (changeEffect line) s _ k r g new cause [.inputs] hp effect hr hg rfl
      frame (by decide)
    refine ⟨t, he, hpass, accepts_of_inputs hc (hu .inputs (by decide)), nofun, fun _ _ e => ?_⟩
    cases e
    exact hm

omit hs in
/-- The up limit of a raise: WARNING under a closure, and else UP. -/
theorem limit_event {kind : RaiseKind}
    (effect : changeEffect line (s.elapse m) = (acceptedInput line c.level m s).upLimit k r g kind) :
    ∃ t, exec (.changeEvent m line) s = .next t ∧ Passed m s t ∧ Accepts s t line c.level ∧
      Moves k g (atRest (if s.cif r.segment then .warning else .up) g.reversals) .limit [.inputs] s t := by
  have frame : Frame [.inputs] (s.elapse m) (acceptedInput line c.level m s) := frame_withInput (s.elapse m) line _
  have cif : (acceptedInput line c.level m s).cif r.segment = s.cif r.segment := rfl
  obtain ⟨hold, fresh, he⟩ := upLimit_eq (acceptedInput line c.level m s) k r g kind
  rw [cif] at fresh he
  have moved : ∃ t, exec (.changeEvent m line) s = .next t ∧ Passed m s t ∧
      Frame (always ++ road) (acceptedInput line c.level m s) t ∧
      Moves k g { atRest (if s.cif r.segment then .warning else .up) g.reversals with holdStart := hold } .limit
        [.inputs] s t := by
    rcases he with he | he
    · exact event_moves m (changeEffect line) s _ k r g _ .limit [.inputs] hp (effect.trans he) hr hg rfl frame
        (by decide)
    · refine event_moves_then (f := changeEffect line) hp ?_ ?_ hr hg rfl frame (by decide)
      · rw [effect, he]
        exact follows_loweringTest _ k
      · rw [effect, he]
        exact (reaction_loweringTest _ k).outbox
  obtain ⟨t, he, hpass, hu, hm⟩ := moved
  refine ⟨t, he, hpass, accepts_of_inputs hc (hu .inputs (by decide)), ?_⟩
  rcases fresh with rfl | closed
  · exact hm
  · exact moves_anyHold hold (by rw [if_pos closed]; rfl) hm

/-- A down-switch coming active. -/
theorem downSwitch_rises (hf : s.settings.functionOf line = .downSwitch k) (ho : r.upSwitch ≠ line)
    (hl : c.level = true) :
    ∃ t, exec (.changeEvent m line) s = .next t ∧ Passed m s t ∧ Accepts s t line c.level ∧
      SwitchMoves k g (if s.accepted r.upSwitch then bothOutcome g else downOutcome g) s t := by
  refine switch_event hp hs hc hr hg ?_
  have other : (acceptedInput line c.level m s).accepted r.upSwitch = s.accepted r.upSwitch :=
    accepted_withInput_ne (s.elapse m) _ ho
  rw [changeEffect_held hc, hf, ← other]
  exact (if_pos hl).trans (downSwitchRose_eq (s := acceptedInput line c.level m s) hr hg)

/-- An up-switch coming active. -/
theorem upSwitch_rises (hf : s.settings.functionOf line = .upSwitch k) (ho : r.downSwitch ≠ line)
    (hl : c.level = true) :
    ∃ t, exec (.changeEvent m line) s = .next t ∧ Passed m s t ∧ Accepts s t line c.level ∧
      SwitchMoves k g (if s.accepted r.downSwitch then bothOutcome g else upOutcome (s.cif r.segment) g) s t := by
  have other : (acceptedInput line c.level m s).accepted r.downSwitch = s.accepted r.downSwitch :=
    accepted_withInput_ne (s.elapse m) _ ho
  have effect : changeEffect line (s.elapse m) = (acceptedInput line c.level m s).upSwitchRose k := by
    rw [changeEffect_held hc, hf]
    exact if_pos hl
  by_cases h : atUpLimit (acceptedInput line c.level m s) r g
  · obtain ⟨inactive, kind, hpos⟩ := h
    obtain ⟨t, he, hpass, ha, hm⟩ := limit_event hp hc hr hg
      (effect.trans (upSwitchRose_limit hr hg inactive hpos))
    refine ⟨t, he, hpass, ha, ?_⟩
    rw [← other, inactive]
    have outcome : upOutcome (s.cif r.segment) g =
        some (atRest (if s.cif r.segment then .warning else .up) g.reversals, .limit) := by
      unfold upOutcome
      rw [hpos]
    refine ⟨fun hn => ?_, fun new cause ho => ?_⟩
    · exact absurd (hn.symm.trans outcome) nofun
    · cases ho.symm.trans outcome
      exact hm
  · refine switch_event hp hs hc hr hg (effect.trans ?_)
    rw [← other]
    exact upSwitchRose_eq (s := acceptedInput line c.level m s) hr hg h

/-- A limit switch going inactive moves nothing. -/
theorem switch_falls (hf : s.settings.functionOf line = .downSwitch k ∨ s.settings.functionOf line = .upSwitch k)
    (hl : c.level = false) :
    ∃ t, exec (.changeEvent m line) s = .next t ∧ Passed m s t ∧ Accepts s t line false ∧ Quiet [.inputs] s t := by
  have effect : changeEffect line (s.elapse m) = switchOutcome k (acceptedInput line c.level m s) none := by
    rw [changeEffect_held hc, hl]
    rcases hf with hf | hf <;> rw [hf] <;> rfl
  obtain ⟨t, he, hpass, ha, hq, -⟩ := switch_event hp hs hc hr hg effect
  exact ⟨t, he, hpass, hl ▸ ha, hq rfl⟩

end

/-- Settles O12: each switch by its level, and its rise by the outcome of the tables. -/
theorem switchEventsMoveGates : Obligations.SwitchEventsMoveGates := by
  refine fun m line s c k r g hp hs hc hr hg apart hf =>
    ⟨switch_falls hp hs hc hr hg (hf.imp And.left And.left), fun hl o ho => ?_⟩
  subst ho
  rcases hf with ⟨hf, rfl⟩ | ⟨hf, rfl⟩
  · obtain ⟨t, he, hpass, ha, hm⟩ := downSwitch_rises hp hs hc hr hg hf apart hl
    rw [if_pos rfl]
    exact ⟨t, he, hpass, hl ▸ ha, hm⟩
  · obtain ⟨t, he, hpass, ha, hm⟩ := upSwitch_rises hp hs hc hr hg hf apart.symm hl
    rw [if_neg apart]
    exact ⟨t, he, hpass, hl ▸ ha, hm⟩

end Sys2Proof.Proofs
end

section
/-! GATE_RAISE and GATE_CLEAR (O17), and REMOVE_GATE (O19). -/

namespace Sys2Proof.Proofs

open Sys2Proof Sys2Proof.Machine Sys2Proof.Laws Sys2Proof.Claims

/-! ## Requests in which a gate changes -/

/-- A taken request whose effect is a change of a gate. -/
theorem request_moves {m : Moment} {kind tag : Byte} {f : List Byte} {F : State → State × Answer} {s : State} {k : Nat}
    {r : GateRecord} {g new : GateState} {cause : GateCause} {a : Answer} (ready : Ready s kind tag f)
    (hF : F (s.elapse m).popFrame = ((s.elapse m).popFrame.changeGate k cause new, a))
    (hr : lookup s.settings.gates k = some r) (hg : s.gate k = some g) :
    ∃ t, request m kind tag f F s = .next t ∧ Passed m s t ∧ Answered s t kind tag a ∧
      Moves k g new cause [.inbound, .outbox] s t := by
  obtain ⟨t, he, hfol, hout⟩ := request_follows m kind tag f F s ready.1 (takes_of_ready ready)
  rw [hF] at hfol hout
  have reaction := reaction_changeGate (s.elapse m).popFrame k cause new
  have changed := (follows_changeGate (s := (s.elapse m).popFrame) cause new hr hg).trans hfol
  refine ⟨t, he, (congrArg Still.now hfol.still).trans reaction.now,
    ⟨hfol.line.inbound.trans reaction.inbound, ?_⟩, moves_of_mid (u := (s.elapse m).popFrame) hr hg rfl
      (Frame.mono (frame_popped m s) (by decide)) (by decide) rfl changed (Or.inr (by decide))⟩
  rw [hout, reaction.outbox]
  rfl

theorem refuses_of_request {m : Moment} {kind tag : Byte} {f : List Byte} {F : State → State × Answer} {s : State}
    {i : Instr} {code : RefusalCode} {sub : SubReason} (ready : Ready s kind tag f) (settled : s.Settled)
    (hi : exec i s = request m kind tag f F s)
    (hF : F (s.elapse m).popFrame = ((s.elapse m).popFrame, .refused code sub)) : Refuses i m kind tag code sub s := by
  obtain ⟨t, he, hpass, hans, quiet⟩ := request_same m kind tag f F s _ ready settled hF
  exact ⟨t, ⟨hi.trans he, hpass, hans⟩, quiet⟩

/-- The request of a gate that is there. -/
theorem gateRequest_defined {f : List Byte} {act : Nat → GateRecord → GateState → State → State × Answer} {s : State}
    {r : GateRecord} {g : GateState} (hl : f.length = 1) (hr : lookup s.settings.gates (byteAt f 0) = some r)
    (hg : s.gate (byteAt f 0) = some g) : gateRequest f act s = act (byteAt f 0) r g s := by
  obtain ⟨h1, h8⟩ := lookup_bounds _ hr
  have range : within 1 8 (byteAt f 0) = true := (within_iff _ _ _).mpr ⟨h1, h8⟩
  unfold gateRequest
  rw [if_neg (by simp [hl]), if_neg (by simp [range])]
  simp only [hr, hg]

/-! ## GATE_RAISE (R129) -/

theorem cif_of_lookup {s : State} {k : Nat} {d : SegmentState} (h : lookup s.segments k = some d) :
    s.cif k = d.closure.isSome := by
  unfold State.cif
  rw [h]

theorem hazardBlocks_of_lookup {s : State} {k : Nat} {q : SegmentRecord} {d : SegmentState}
    (hq : lookup s.settings.segments k = some q) (hd : lookup s.segments k = some d) :
    s.hazardBlocks k = true ↔ q.permit ≤ d.hmax := by
  unfold State.hazardBlocks
  simp only [hq, hd, decide_eq_true_eq]

section
variable {m : Moment} {tag : Byte} {f : List Byte} {s : State} {r : GateRecord} {g : GateState} {q : SegmentRecord}
  {d : SegmentState} (ready : Ready s kindGateRaise tag f) (hl : f.length = 1)
  (hr : lookup s.settings.gates (byteAt f 0) = some r) (hg : s.gate (byteAt f 0) = some g)
include ready hl hr hg

omit ready in
theorem carryGateRaise_eq : carryGateRaise f (s.elapse m).popFrame = raiseGate (byteAt f 0) r g (s.elapse m).popFrame :=
  gateRequest_defined (s := (s.elapse m).popFrame) hl hr hg

theorem gateRaise_wrongState (settled : s.Settled) (h : g.position ≠ .down) :
    Refuses (.gateRaise m tag f) m kindGateRaise tag .wrongState .noReason s :=
  refuses_of_request ready settled rfl ((carryGateRaise_eq hl hr hg).trans (if_pos h))

theorem gateRaise_closed (settled : s.Settled) (h : g.position = .down) (hd : lookup s.segments r.segment = some d)
    (hc : d.closure ≠ none) : Refuses (.gateRaise m tag f) m kindGateRaise tag .interlock .closure s := by
  have closed : (s.elapse m).popFrame.cif r.segment = true :=
    (cif_of_lookup hd).trans (Option.isSome_iff_ne_none.mpr hc)
  refine refuses_of_request ready settled rfl ((carryGateRaise_eq hl hr hg).trans ?_)
  unfold raiseGate
  rw [if_neg (not_not.mpr h), if_pos closed]

theorem gateRaise_hazard (settled : s.Settled) (h : g.position = .down) (hd : lookup s.segments r.segment = some d)
    (hq : lookup s.settings.segments r.segment = some q) (hc : d.closure = none) (hp : q.permit ≤ d.hmax) :
    Refuses (.gateRaise m tag f) m kindGateRaise tag .interlock .hazard s := by
  have opened : (s.elapse m).popFrame.cif r.segment = false := (cif_of_lookup hd).trans (by rw [hc]; rfl)
  have blocked : (s.elapse m).popFrame.hazardBlocks r.segment = true :=
    (hazardBlocks_of_lookup (s := (s.elapse m).popFrame) hq hd).mpr hp
  refine refuses_of_request ready settled rfl ((carryGateRaise_eq hl hr hg).trans ?_)
  unfold raiseGate
  rw [if_neg (not_not.mpr h), opened, if_neg Bool.false_ne_true, if_pos blocked]

theorem gateRaise_raises (h : g.position = .down) (hd : lookup s.segments r.segment = some d)
    (hq : lookup s.settings.segments r.segment = some q) (hc : d.closure = none) (hp : d.hmax < q.permit) :
    ∃ t, Taken (.gateRaise m tag f) m kindGateRaise tag (.done []) s t ∧
      Moves (byteAt f 0) g ⟨.raising .requested, none, 0, some (secondsAt m s + r.travel)⟩ .request
        [.inbound, .outbox] s t := by
  have opened : (s.elapse m).popFrame.cif r.segment = false := (cif_of_lookup hd).trans (by rw [hc]; rfl)
  have free : ¬ (s.elapse m).popFrame.hazardBlocks r.segment = true := fun hb =>
    absurd ((hazardBlocks_of_lookup (s := (s.elapse m).popFrame) hq hd).mp hb) (Nat.not_le.mpr hp)
  have carried := carryGateRaise_eq (m := m) hl hr hg
  unfold raiseGate at carried
  rw [if_neg (not_not.mpr h), opened, if_neg Bool.false_ne_true, if_neg free] at carried
  obtain ⟨t, he, hpass, hans, moved⟩ := request_moves ready carried hr hg
  exact ⟨t, ⟨he, hpass, hans⟩, moved⟩

end

/-! ## GATE_CLEAR (R130) -/

/-- The derived state is at rest, but for the hold of a gate in WARNING. -/
theorem deriveGate_atRest (s : State) (r : GateRecord) : ∃ hold, (hold = none ∨ (s.deriveGate r).position = .warning) ∧
    s.deriveGate r = { atRest (s.deriveGate r).position 0 with holdStart := hold } := by
  refine ⟨_, ?_, rfl⟩
  by_cases warned : (s.deriveGate r).position = .warning
  · exact .inr warned
  · exact .inl (if_neg warned)

section
variable {m : Moment} {tag : Byte} {f : List Byte} {s : State} {r : GateRecord} {g : GateState}
  (ready : Ready s kindGateClear tag f) (hl : f.length = 1)
  (hr : lookup s.settings.gates (byteAt f 0) = some r) (hg : s.gate (byteAt f 0) = some g)
include ready hl hr hg

omit ready in
theorem carryGateClear_eq : carryGateClear f (s.elapse m).popFrame = clearGate (byteAt f 0) r g (s.elapse m).popFrame :=
  gateRequest_defined (s := (s.elapse m).popFrame) hl hr hg

theorem gateClear_wrongState (settled : s.Settled) (h : ∀ cause, g.position ≠ .stopped cause) :
    Refuses (.gateClear m tag f) m kindGateClear tag .wrongState .noReason s := by
  have moves : ¬ g.position.isStopped = true := fun hs => ((isStopped_iff _).mp hs).elim h
  exact refuses_of_request ready settled rfl ((carryGateClear_eq hl hr hg).trans (if_pos (by simp [moves])))

theorem gateClear_derives {cause : StopCause} (h : g.position = .stopped cause) :
    ∃ t, Taken (.gateClear m tag f) m kindGateClear tag
        (.done [(s.deriveGate r).position.code, (s.deriveGate r).position.stopCode]) s t ∧
      Moves (byteAt f 0) g (atRest (s.deriveGate r).position 0) .request [.inbound, .outbox] s t := by
  have stopped : g.position.isStopped = true := (isStopped_iff _).mpr ⟨cause, h⟩
  have carried : carryGateClear f (s.elapse m).popFrame = _ := (carryGateClear_eq hl hr hg).trans (if_neg (by simp [stopped]))
  obtain ⟨t, he, hpass, hans, moved⟩ := request_moves ready carried hr hg
  refine ⟨t, ⟨he, hpass, hans⟩, ?_⟩
  have position : ((s.elapse m).popFrame.deriveGate r).position = (s.deriveGate r).position := rfl
  obtain ⟨hold, fresh, derived⟩ := deriveGate_atRest (s.elapse m).popFrame r
  rw [position] at fresh derived
  rw [derived] at moved
  rcases fresh with rfl | warned
  · exact moved
  · exact moves_anyHold hold warned moved

end

/-- Settles O17: the checks of each request in their order, and the change it is answered with. -/
theorem stationMovesGates : Obligations.StationMovesGates := by
  refine ⟨?_, ?_⟩
  · rintro m tag f s k r g q d ready settled hl rfl hr hg hq hd
    exact ⟨gateRaise_wrongState ready hl hr hg settled, fun h => gateRaise_closed ready hl hr hg settled h hd,
      fun h => gateRaise_hazard ready hl hr hg settled h hd hq, fun h => gateRaise_raises ready hl hr hg h hd hq⟩
  · rintro m tag f s k r g ready settled hl rfl hr hg
    refine ⟨gateClear_wrongState ready hl hr hg settled, fun cause h p hp => ?_⟩
    rw [← deriveGate_position] at hp
    subst hp
    exact gateClear_derives ready hl hr hg h

/-! ## REMOVE_GATE (R20, R108) -/

theorem frame_gateTaken (k : Nat) (r : GateRecord) (s : State) :
    Frame [.gateRecords, .gates, .outputs, .zones] s (gateTaken k r s) := by
  intro p hp
  cases p with
  | gateRecords | gates | outputs | zones => exact absurd hp (by decide)
  | memories | readouts | transfers | arbiters | receiver | reports | link | write => exact ⟨rfl, rfl⟩
  | _ => exact rfl

/-- A line that only a record that goes named is off, once the record's outputs are turned off. -/
theorem gateTaken_outputs_off (k : Nat) {r : GateRecord} (s : State) (hl : ∀ l ∈ r.outputs, 1 ≤ l ∧ l ≤ 16) :
    ∀ l ∈ r.outputs, levelAt (gateTaken k r s).field.outputs l = false := by
  intro l mem
  refine levelAt_order_off s.field.outputs _ l (hl l mem) (List.mem_map_of_mem mem) fun on => ?_
  obtain ⟨x, -, e⟩ := List.mem_map.mp on
  cases (Prod.ext_iff.mp e).2

theorem gateTaken_outputs_other (k : Nat) {r : GateRecord} (s : State) {l : Nat} (h : 1 ≤ l ∧ l ≤ 16)
    (hn : l ∉ r.outputs) : levelAt (gateTaken k r s).field.outputs l = levelAt s.field.outputs l := by
  refine levelAt_order_other s.field.outputs _ l h fun mem => hn ?_
  simpa using mem

/-- A request whose effect changes gate `k` and its record, reports it and hands it on: the base `b` is the state before
the report. -/
theorem request_gateRecord {m : Moment} {kind tag : Byte} {f : List Byte} {F : State → State × Answer} {s b u : State}
    {a : Answer} {k : Nat} {bs : List ReportBody} (ready : Ready s kind tag f) (hF : F (s.elapse m).popFrame = (u, a))
    (hb : Frame [.gateRecords, .gates, .outputs, .zones] (s.elapse m).popFrame b) (hu : Settles (b.reports bs) u)
    (hg : ∀ j, j ≠ k → b.gate j = s.gate j)
    (ho : ∀ l, 1 ≤ l → l ≤ 16 → (∀ j q, lookup s.settings.gates j = some q ∨ lookup b.settings.gates j = some q →
      l ∉ q.outputs) → levelAt b.field.outputs l = levelAt s.field.outputs l) :
    ∃ t, request m kind tag f F s = .next t ∧ Passed m s t ∧ Answered s t kind tag a ∧ ReportedFirst bs s t ∧
      Reacts [k] [] [] [] s t ∧ Follows (b.reports bs) t ∧ Frame (answered ++ road) (b.reports bs) t ∧
      Frame (answered ++ road ++ [.gateRecords, .zones]) s t := by
  obtain ⟨t, he, hfol, hout⟩ := request_follows m kind tag f F s ready.1 (takes_of_ready ready)
  rw [hF] at hfol hout
  have follows : Follows (b.reports bs) t := hu.1.trans hfol
  have told : Frame [.reports] b (b.reports bs) := frame_reports b bs
  have toBase := Frame.trans (frame_popped m s) hb
  have toReport := Frame.trans toBase told
  have fromBase : Frame (answered ++ road) (b.reports bs) t :=
    frame_of_follows (Frame.refl _ _) follows (by decide) (Or.inl (by decide))
  have base : ∀ p, p ∉ [Part.moment, .inbound, .gateRecords, .gates, .outputs, .zones] → Stays s b p :=
    fun p hp => toBase p hp
  have atReport : ∀ p, p ∉ [Part.moment, .inbound, .gateRecords, .gates, .outputs, .zones, .reports] →
      Stays s (b.reports bs) p := fun p hp => toReport p hp
  refine ⟨t, he, ?_, ⟨?_, ?_⟩, ?_, ?_, follows, fromBase, ?_⟩
  · have moment : (b.reports bs).now = (s.elapse m).popFrame.now :=
      (Frame.trans hb told) .moment (by decide)
    exact (congrArg Still.now follows.still).trans moment
  · have inbound : (b.reports bs).line.inbound = (s.elapse m).popFrame.line.inbound :=
      (Frame.trans hb told) .inbound (by decide)
    exact follows.line.inbound.trans inbound
  · have outbox : (b.reports bs).line.outbox = s.line.outbox := atReport .outbox (by decide)
    rw [hout, hu.2, outbox]
  · refine reportedFirst_of_follows (u := b.reports bs) ?_ (atReport .clock (by decide)) follows
    obtain ⟨buffer, sequence⟩ := base .reports (by decide)
    exact reports_records bs b s (Prod.ext (congrArg (List.map Buffered.record) buffer) sequence)
      (base .clock (by decide))
  · have field : (b.reports bs).field = b.field := by rw [reports_eq_withLine]; rfl
    have gates : (b.reports bs).gates = b.gates := by rw [reports_eq_withLine]; rfl
    have settings : (b.reports bs).settings = b.settings := by rw [reports_eq_withLine]; rfl
    refine reacts_of_follows follows (fun j hj => ?_) (fun j _ => ?_) (fun j _ => ?_) (fun x _ => ?_)
      (fun l h1 h16 hl => ?_) (fun j _ => ?_)
    · unfold State.gate
      rw [gates]
      exact hg j (by simpa using hj)
    · exact congrArg (lookup · j) (atReport .panels (by decide))
    · exact congrArg (lookup · j) (atReport .signs (by decide))
    · obtain ⟨ta, tb⟩ := atReport .transfers (by decide)
      cases x
      · exact ta
      · exact tb
    · rw [settings] at hl
      rw [field]
      exact ho l h1 h16 hl
    · exact congrArg (fun v => (lookup v j).isSome) (atReport .segments (by decide))
  · refine Frame.mono (Frame.trans toReport fromBase) fun p hp => ?_
    simp only [answered, always, road, List.mem_append, List.mem_cons, List.not_mem_nil, or_false] at hp ⊢
    tauto

theorem carryRemoval_gate {s : State} {k : Nat} {r : GateRecord} (hr : lookup s.settings.gates k = some r) :
    carryRemoval [3, byte k] carryRemoveGate s =
      if s.gateInMotion k then refuse .inMotion s else accept [byte k] (s.dropGate k r) := by
  obtain ⟨h1, h8⟩ := lookup_bounds _ hr
  have item : byteAt [3, byte k] 0 = 3 := rfl
  have number : byteAt [3, byte k] 1 = k := Nat.mod_eq_of_lt (by omega)
  unfold carryRemoval
  rw [if_neg (by simp), if_neg (by rw [item]; decide), number]
  unfold carryRemoveGate removeItem
  rw [if_neg (by simp [within_iff, h1, h8]), hr]

section
variable {m : Moment} {tag : Byte} {s : State} {k : Nat} {r : GateRecord} {g : GateState}
  (ready : Ready s kindRemoveItem tag [3, byte k]) (hr : lookup s.settings.gates k = some r) (hg : s.gate k = some g)
include ready hr

theorem removeGate_refused (settled : s.Settled) (moving : ¬ GateStill s k) :
    Refuses (.removeGate m tag [3, byte k]) m kindRemoveItem tag .inMotion .noReason s := by
  have motion : (s.elapse m).popFrame.gateInMotion k = true := (gateInMotion_iff (s.elapse m).popFrame k).mpr moving
  exact refuses_of_request ready settled rfl
    ((carryRemoval_gate (s := (s.elapse m).popFrame) hr).trans (if_pos motion))

include hg in
theorem removeGate_turnsOff (owned : s.settings.OutputsOwned) (still : GateStill s k) :
    ∃ t, Taken (.removeGate m tag [3, byte k]) m kindRemoveItem tag (.done [byte k]) s t ∧
      Put s.settings.gates t.settings.gates k none ∧ t.gate k = none ∧
      (∀ l ∈ r.outputs, levelAt t.field.outputs l = false) ∧ itemAt t.field.clearZones k = some .idle ∧
      (∀ j, j ≠ k → itemAt t.field.clearZones j = itemAt s.field.clearZones j) ∧
      ReportedFirst [.gate k (some g.position) none 0 .define] s t ∧ Reacts [k] [] [] [] s t ∧
      Frame (answered ++ road ++ [.gateRecords, .zones]) s t := by
  obtain ⟨h1, h8⟩ := lookup_bounds _ hr
  have resting : ¬ (s.elapse m).popFrame.gateInMotion k = true := fun h =>
    (gateInMotion_iff (s.elapse m).popFrame k).mp h still
  let b := gateTaken k r (s.elapse m).popFrame
  have before : ((s.elapse m).popFrame.gate k).map GateState.position = some g.position :=
    congrArg (Option.map GateState.position) hg
  have dropped : (s.elapse m).popFrame.dropGate k r =
      (b.reports [.gate k (some g.position) none 0 .define]).handOver [r.segment] (ascending 16 r.approach) := by
    rw [← before]
    rfl
  have carried := (carryRemoval_gate (s := (s.elapse m).popFrame) hr).trans (if_neg resting)
  unfold accept at carried
  rw [dropped] at carried
  obtain ⟨t, he, hpass, hans, reported, reacts, follows, fromBase, frame⟩ := request_gateRecord (k := k) ready carried
    (frame_gateTaken k r _) (settles_of_reaction (reaction_handOver _ _ _) (ripple_handOver _ _ _)
      (reach_handOver _ _ _)) (fun j hj => lookup_putItem_ne s.gates none hj)
    (fun l h1 h16 hl => gateTaken_outputs_other k _ ⟨h1, h16⟩ (hl k r (.inl hr)))
  have records : t.settings.gates = b.settings.gates := fromBase .gateRecords (by decide)
  have zones : t.field.clearZones = putItem s.field.clearZones k .idle := fromBase .zones (by decide)
  refine ⟨t, ⟨he, hpass, hans⟩, ?_, ?_, fun l mem => ?_, ?_, fun j hj => ?_, reported, reacts, frame⟩
  · rw [records]
    exact put_putItem s.settings.gates none h1 h8
  · have gone : b.gate k = none := lookup_putItem_self s.gates none h1 h8
    exact (both_spread (follows.ripple.gates k)).1 gone
  · have line := outputs_bounds owned hr l mem
    have off : levelAt b.field.outputs l = false := gateTaken_outputs_off k _ (outputs_bounds owned hr) l mem
    refine (follows.reach.outputs l line fun j q hq => ?_).trans off
    have hq' : lookup (s.settings.setGate k none).gates j = some q := hq
    have other : j ≠ k := by
      rintro rfl
      rw [lookup_setGate_self _ none ⟨h1, h8⟩] at hq'
      cases hq'
    rw [lookup_setGate_ne _ _ other] at hq'
    have free : l ∉ q.outputs := fun hm => outputs_disjoint owned other hr hq' l hm mem
    simpa [GateRecord.outputs] using free
  · rw [zones]
    exact itemAt_putItem_self _ _ h1 h8
  · rw [zones]
    exact itemAt_putItem_ne _ _ hj

end

/-- Settles O19: a gate at rest is taken, reported and handed on; a moving one stays. -/
theorem removeGateTurnsOff : Obligations.RemoveGateTurnsOff := fun _ _ _ _ _ _ ready hr hg =>
  ⟨removeGate_refused ready hr, removeGate_turnsOff ready hr hg⟩

end Sys2Proof.Proofs
end

section
/-! SUPPORT. What the gates see (R110 to R117): the present moment, the gate records, the clear zones and, of each panel,
what its gates are told. An operation that leaves the scene as it was moves no gate. -/

namespace Sys2Proof.Proofs

open Sys2Proof Sys2Proof.Machine Sys2Proof.Laws Sys2Proof.Claims

/-! ## What a gate sees -/

/-- What a gate is told of a panel: whether it is in FAULT, and the image it has confirmed (R114). -/
def sight (p : PanelRecord) : Bool × Option Image := (p.state == .fault, p.confirmed)

/-- What the gates are told of every sign. -/
def sights (s : State) (sign : Nat) : Option (Bool × Option Image) := (s.panel sign).map sight

/-- What holds and the lowering test are read from. -/
def outlook (s : State) : Moment × Vector (Option GateRecord) 8 × Vector ClearZone 8 ×
    (Nat → Option (Bool × Option Image)) := (s.now, s.settings.gates, s.field.clearZones, sights s)

section
variable {s t : State} (h : outlook t = outlook s)
include h

theorem now_of_outlook : t.now = s.now := (Prod.mk.inj h).1
theorem gates_of_outlook : t.settings.gates = s.settings.gates := (Prod.mk.inj (Prod.mk.inj h).2).1
theorem zones_of_outlook : t.field.clearZones = s.field.clearZones := (Prod.mk.inj (Prod.mk.inj (Prod.mk.inj h).2).2).1
theorem sights_of_outlook : sights t = sights s := (Prod.mk.inj (Prod.mk.inj (Prod.mk.inj h).2).2).2

theorem seconds_of_outlook : t.seconds = s.seconds := congrArg (· / usPerSecond) (now_of_outlook h)

end

theorem signAgrees_eq (s : State) (segment sign : Nat) : s.signAgrees segment sign = match sights s sign with
    | none => false
    | some (fault, confirmed) => fault || (match confirmed with
      | some image => image.claims.closureSegment == some segment
      | none => false) := by
  unfold State.signAgrees sights
  cases s.panel sign <;> rfl

theorem panelFaulty_eq (s : State) (sign : Nat) : s.panelFaulty sign = match sights s sign with
    | none => false
    | some (fault, _) => fault := by
  unfold State.panelFaulty sights
  cases s.panel sign <;> rfl

section
variable {s t : State}

theorem holdCondition_of_sights (h : sights t = sights s) : t.holdCondition = s.holdCondition := by
  funext r
  unfold State.holdCondition
  congr 1
  funext sign
  rw [signAgrees_eq, signAgrees_eq, h]

theorem requirement_of_sights (h : sights t = sights s) : t.requirement = s.requirement := by
  have faulty : t.panelFaulty = s.panelFaulty := by
    funext sign
    rw [panelFaulty_eq, panelFaulty_eq, h]
  funext r
  unfold State.requirement
  rw [faulty]

theorem freshHold_of_outlook (h : outlook t = outlook s) : t.freshHold = s.freshHold := by
  funext r
  unfold State.freshHold
  rw [holdCondition_of_sights (sights_of_outlook h), seconds_of_outlook h]

theorem followedHold_of_outlook (h : outlook t = outlook s) : t.followedHold = s.followedHold := by
  funext r g
  unfold State.followedHold
  rw [holdCondition_of_sights (sights_of_outlook h), seconds_of_outlook h]

theorem travelEnd_of_outlook (h : outlook t = outlook s) : t.travelEnd = s.travelEnd := by
  funext r
  unfold State.travelEnd
  rw [seconds_of_outlook h]

theorem mayLower_of_outlook (h : outlook t = outlook s) : t.mayLower = s.mayLower := by
  funext k r g
  unfold State.mayLower State.zoneRunning State.deadlinePassed
  rw [holdCondition_of_sights (sights_of_outlook h), requirement_of_sights (sights_of_outlook h), seconds_of_outlook h,
    zones_of_outlook h]

end

/-! ## Operations beside the gates -/

/-- The gates with what they see, the segments with the notices that close them, and the outputs. -/
def scene (s : State) := (outlook s, s.gates, s.segments, s.retained.notices, s.field.outputs)

/-- A state with everything the gates see as it was, sign by sign. -/
theorem scene_of_sights {s t : State} (h : scene { t with strings := s.strings } = scene s) (hp : sights t = sights s) :
    scene t = scene s := by
  unfold scene outlook at h ⊢
  rw [hp]
  exact h

section
variable (s : State)

theorem scene_withStrings (x : StringController) (h : x.panels = s.strings.panels) : scene (s.withStrings x) = scene s := by
  refine scene_of_sights rfl ?_
  funext k
  exact congrArg (fun v => (lookup v k).map sight) h

theorem scene_withPanel {k : Nat} {p q : PanelRecord} (hp : s.panel k = some p) (hq : sight q = sight p) :
    scene (s.withPanel k (some q)) = scene s := by
  refine scene_of_sights rfl ?_
  funext j
  unfold sights
  rw [panel_withPanel s k j (some q) (lookup_bounds _ hp)]
  by_cases hj : j = k
  · rw [if_pos hj, hj, hp]
    exact congrArg some hq
  · rw [if_neg hj]

theorem scene_withTransfer (x : StringId) (a : Option Attempt) : scene (s.withTransfer x a) = scene s := by
  cases x <;> rfl

theorem scene_beginAttempt (x : StringId) (k n : Nat) : scene (s.beginAttempt x k n) = scene s := by
  unfold State.beginAttempt
  split
  · exact scene_withTransfer s x _
  · rfl

/-- A delivery begins from a panel that is not in FAULT, and the image it has confirmed stays. -/
theorem scene_beginDelivery {k : Nat} {p : PanelRecord} (hp : s.panel k = some p) (hf : p.state ≠ .fault) :
    scene (s.beginDelivery k p) = scene s := by
  have sent : scene (s.withPanel k (some { p with state := .sending, attempts := 0 })) = scene s :=
    scene_withPanel s hp (Prod.ext (by simp [sight, hf]) rfl)
  exact (scene_withStrings _ _ rfl).trans sent

theorem scene_grant (x : StringId) (k : Nat) : scene (s.grant x k) = scene s := by
  have delivered : ∀ {p}, s.panel k = some p → p.state ≠ .fault →
      scene ((s.beginDelivery k p).beginAttempt x k 1) = scene s := fun hp hf =>
    (scene_beginAttempt _ x k 1).trans (scene_beginDelivery s hp hf)
  unfold State.grant
  split
  · rfl
  · rename_i p hp
    split
    · exact scene_beginAttempt s x k 1
    · rename_i hs
      exact delivered hp (by rw [hs]; nofun)
    · rename_i hs
      exact delivered hp (by rw [hs]; nofun)
    · rfl

theorem scene_arbitrate (x : StringId) : scene (s.arbitrate x) = scene s := by
  unfold State.arbitrate
  split
  · rfl
  · split
    · rfl
    · exact scene_grant s x _

theorem scene_chooseNow (x : StringId) : scene (s.chooseNow x) = scene s :=
  (scene_arbitrate _ x).trans (scene_withStrings s _ rfl)

theorem scene_ite {c : Prop} [Decidable c] {s t u : State} (ht : scene t = scene s) (hu : scene u = scene s) :
    scene (if c then t else u) = scene s := by
  split
  · exact ht
  · exact hu

theorem scene_foldl {α : Type} {f : State → α → State} (hf : ∀ s x, scene (f s x) = scene s) (xs : List α) (s : State) :
    scene (xs.foldl f s) = scene s :=
  keep_foldl (P := fun u => scene u = scene s) (fun u x h => (hf u x).trans h) xs s rfl

theorem scene_runArbiters : scene s.runArbiters = scene s := by
  have arbiter : ∀ (u : State) (x : StringId) (c : Bool), scene (if c then u.arbitrate x else u) = scene u := fun u x _ =>
    scene_ite (scene_arbitrate u x) rfl
  exact (arbiter _ .b _).trans ((arbiter _ .a _).trans (scene_withStrings s _ rfl))

theorem scene_mayChoose (x : StringId) : scene (s.mayChoose x) = scene s :=
  scene_ite (scene_ite rfl (scene_chooseNow s.choiceTaken x)) rfl

theorem scene_handMarks (ks : List Nat) : scene (s.handMarks ks) = scene s := by
  have called : ∀ xs : List StringId, scene (xs.foldl (fun u x => u.callArbiter x) s) = scene s := fun xs =>
    scene_foldl (f := fun u x => u.callArbiter x) (fun u _ => scene_withStrings u _ rfl) xs s
  unfold State.handMarks
  split
  · rfl
  · exact (scene_mayChoose _ .b).trans ((scene_mayChoose _ .a).trans (called _))

theorem scene_recomposeSign (k : Nat) : scene (s.recomposeSign k).1 = scene s := by
  unfold State.recomposeSign
  split
  · dsimp only
    split <;> rfl
  · rfl

theorem scene_recomposeAll (ks marked : List Nat) : scene (State.recomposeAll ks marked s).1 = scene s := by
  induction ks generalizing s marked with
  | nil => rfl
  | cons k ks ih =>
    unfold State.recomposeAll
    exact (ih _ _).trans (scene_recomposeSign s k)

theorem scene_recompose (ks : List Nat) : scene (s.recompose ks) = scene s :=
  (scene_handMarks _ _).trans (scene_recomposeAll s ks [])

theorem scene_reports (bs : List ReportBody) : scene (s.reports bs) = scene s := by
  rw [reports_eq_withLine]
  rfl

theorem scene_kick : scene s.kick = scene s := by
  obtain ⟨tr, buf, h, -⟩ := kick_transmits s
  rw [h]
  rfl

theorem scene_goOn : scene s.goOn = scene s := by
  unfold State.goOn
  exact scene_ite (scene_ite rfl (scene_kick s.choiceTaken)) (scene_kick s)

theorem scene_placeReply (r : Reply) : scene (s.placeReply r) = scene s := by
  obtain ⟨tr, buf, sch, h, -⟩ := placeReply_eq s r
  rw [h]
  rfl

end

/-! ## Closures in force (R89) -/

/-- Whether a closure is in force for a segment, by the Notice List (R89). -/
def inForce (s : State) (segment : Nat) : Bool := (s.governing .closure segment).isSome

theorem inForce_congr {s t : State} (h : t.retained.notices = s.retained.notices) : inForce t = inForce s := by
  funext x
  exact congrArg (fun l => (earliest (l.filter (Notice.covers .closure x))).isSome) h

theorem inForce_iff {s : State} {x : Nat} : inForce s x = true ↔ ∃ n ∈ s.retained.notices, n.covers .closure x = true := by
  unfold inForce State.governing
  rw [Option.isSome_iff_ne_none, ne_eq, earliest_eq_none_iff]
  simp

theorem inForce_insertNotice (s : State) (n : Notice) {x : Nat} (h : inForce s x = true) :
    inForce (s.withNotices (insertNotice n s.retained.notices)) x = true := by
  obtain ⟨m, hm, covers⟩ := inForce_iff.mp h
  exact inForce_iff.mpr ⟨m, mem_insertNotice.mpr (Or.inr hm), covers⟩

end Sys2Proof.Proofs
end

section
/-! SUPPORT. How the gates turn while the blocks react (R111 to R117, R132): `Turn` lists what a reaction can do to a gate, as
seen from the state the reaction begins in; `Turns` says of an operation that it does nothing else. -/

namespace Sys2Proof.Proofs

open Sys2Proof Sys2Proof.Machine Sys2Proof.Laws Sys2Proof.Claims

/-! ## A turn of a gate -/

/-- What a reaction can do to gate `k` of record `r`, seen from `u`: it is told of a closure in force or of its end, where
`T` lets its segment tell so; it begins to lower; or it reviews its hold (R112, R113, R115, R117). -/
inductive Turn (T : Nat → Bool → Prop) (u : State) (k : Nat) (r : GateRecord) : GateState → GateState → Prop
  | warned {g : GateState} (hp : g.position = .up) (told : T r.segment true) :
      Turn T u k r g { GateState.resting .warning g.reversals with holdStart := u.freshHold r }
  | released {g : GateState} (hp : g.position = .warning) (told : T r.segment false) :
      Turn T u k r g (GateState.resting .up g.reversals)
  | lowered {g : GateState} (may : u.mayLower k r g = true) :
      Turn T u k r g { g with position := .lowering, travelExpiry := some (u.travelEnd r) }
  | reviewed {g : GateState} (follows : g.position.followsSigns = true) :
      Turn T u k r g { g with holdStart := u.followedHold r g }

theorem Turn.of_outlook {T : Nat → Bool → Prop} {s t : State} {k : Nat} {r : GateRecord} {g h : GateState}
    (ho : outlook t = outlook s) (turn : Turn T t k r g h) : Turn T s k r g h := by
  cases turn with
  | warned hp told =>
    rw [freshHold_of_outlook ho]
    exact .warned hp told
  | released hp told => exact .released hp told
  | lowered may =>
    rw [travelEnd_of_outlook ho]
    exact .lowered (mayLower_of_outlook ho ▸ may)
  | reviewed follows =>
    rw [followedHold_of_outlook ho]
    exact .reviewed follows

/-- A gate's state is as it was, or has turned, once or more. -/
def Turned (T : Nat → Bool → Prop) (u : State) (k : Nat) (a b : Option GateState) : Prop :=
  b = a ∨ ∃ r g h, lookup u.settings.gates k = some r ∧ a = some g ∧ b = some h ∧
    Relation.ReflTransGen (Turn T u k r) g h

section
variable {T : Nat → Bool → Prop} {s t u : State} {k : Nat} {a b c : Option GateState}

theorem Turned.of_outlook (ho : outlook t = outlook s) (h : Turned T t k a b) : Turned T s k a b := by
  refine h.imp_right ?_
  rintro ⟨r, g, x, hr, ha, hb, turns⟩
  exact ⟨r, g, x, by rwa [← gates_of_outlook ho], ha, hb, turns.lift id fun _ _ => Turn.of_outlook ho⟩

theorem Turned.trans (h : Turned T u k a b) (k' : Turned T u k b c) : Turned T u k a c := by
  rcases h with rfl | ⟨r, g, x, hr, ha, hb, first⟩
  · exact k'
  · rcases k' with rfl | ⟨q, y, z, hq, hb', hc, second⟩
    · exact Or.inr ⟨r, g, x, hr, ha, hb, first⟩
    · obtain rfl := Option.some.inj (hr.symm.trans hq)
      obtain rfl := Option.some.inj (hb.symm.trans hb')
      exact Or.inr ⟨r, g, z, hr, ha, hc, first.trans second⟩

/-- What is kept by every turn is kept. -/
theorem Turned.keeps {P : GateState → Prop} (h : Turned T u k a b)
    (hP : ∀ r g x, lookup u.settings.gates k = some r → Turn T u k r g x → P g → P x) (ha : ∀ g, a = some g → P g) :
    ∀ x, b = some x → P x := by
  rcases h with rfl | ⟨r, g, x, hr, rfl, rfl, turns⟩
  · exact ha
  · rintro _ ⟨⟩
    induction turns with
    | refl => exact ha g rfl
    | tail _ turn ih => exact hP r _ _ hr turn ih

/-- A turned gate is there as it was. -/
theorem Turned.isSome (h : Turned T u k a b) : b.isSome = a.isSome := by
  rcases h with rfl | ⟨r, g, x, hr, rfl, rfl, turns⟩
  · rfl
  · rfl

end

/-! ## Operations that turn gates -/

/-- The closures in force are those that `T` lets the segments tell, or have been told. -/
def Permits (T : Nat → Bool → Prop) (s : State) : Prop :=
  ∀ x d, lookup s.segments x = some d → T x (inForce s x) ∨ d.toldCif = inForce s x

/-- A gate's outputs are lines, distinct, and no other gate's, by the gate records. -/
def OutputsApart (gates : Vector (Option GateRecord) 8) (k : Nat) (r : GateRecord) : Prop :=
  (∀ l ∈ r.outputs, 1 ≤ l ∧ l ≤ 16) ∧ r.outputs.Nodup ∧
    ∀ j q, j ≠ k → lookup gates j = some q → ∀ l ∈ r.outputs, l ∉ q.outputs

/-- A gate's outputs stand at the setting of its state. -/
def AtSetting (s : State) (k : Nat) (r : GateRecord) : Prop :=
  ∀ g, s.gate k = some g → OutputsAt s.field.outputs r g.position

/-- An operation in which the gates see one scene and do no more than turn. Closures can come in force in it, where `T` lets
their segments tell so; and outputs that belong to one gate follow it. -/
structure Turns (T : Nat → Bool → Prop) (s t : State) : Prop where
  sees : outlook t = outlook s
  closures : ∀ x, inForce s x = true → inForce t x = true
  turned : Permits T s → (∀ x, inForce t x = true → inForce s x = false → T x true) →
    (∀ k, Turned T s k (s.gate k) (t.gate k)) ∧ Permits T t
  outputs : ∀ k r, lookup s.settings.gates k = some r → OutputsApart s.settings.gates k r → AtSetting s k r →
    AtSetting t k r

section
variable {T : Nat → Bool → Prop} {s t u : State}

/-- An operation that moves no gate: a segment's state record stays, or has told the closure in force. -/
theorem Turns.calm (ho : outlook t = outlook s) (hg : t.gates = s.gates) (hf : t.field.outputs = s.field.outputs)
    (hn : ∀ x, inForce s x = true → inForce t x = true)
    (hs : ∀ x d, lookup t.segments x = some d → lookup s.segments x = some d ∨ d.toldCif = inForce t x) :
    Turns T s t where
  sees := ho
  closures := hn
  turned := fun permits grows => by
    refine ⟨fun k => Or.inl (congrArg (lookup · k) hg), fun x d hd => ?_⟩
    rcases hs x d hd with before | told
    · cases hx : inForce t x with
      | true =>
        cases hy : inForce s x with
        | true => exact hy ▸ permits x d before
        | false => exact Or.inl (grows x hx hy)
      | false =>
        have out : inForce s x = false := Bool.eq_false_iff.mpr fun h => Bool.false_ne_true (hx.symm.trans (hn x h))
        exact out ▸ permits x d before
    · exact Or.inr told
  outputs := fun k r _ _ h g hg' => by
    rw [hf]
    exact h g (by rwa [← show t.gate k = s.gate k from congrArg (lookup · k) hg])

theorem Turns.of_scene (h : scene t = scene s) : Turns T s t := by
  obtain ⟨ho, rest⟩ := Prod.mk.inj h
  obtain ⟨hg, rest⟩ := Prod.mk.inj rest
  obtain ⟨hs, rest⟩ := Prod.mk.inj rest
  obtain ⟨hn, hf⟩ := Prod.mk.inj rest
  have closures := inForce_congr hn
  exact .calm ho hg hf (fun x hx => by rwa [closures]) fun x d hd => Or.inl (hs ▸ hd)

theorem Turns.refl (s : State) : Turns T s s := .of_scene rfl

theorem Turns.trans (h : Turns T s t) (k : Turns T t u) : Turns T s u where
  sees := k.sees.trans h.sees
  closures := fun x hx => k.closures x (h.closures x hx)
  turned := fun permits grows => by
    have early : ∀ x, inForce t x = true → inForce s x = false → T x true := fun x hx => grows x (k.closures x hx)
    obtain ⟨first, permitted⟩ := h.turned permits early
    have late : ∀ x, inForce u x = true → inForce t x = false → T x true := fun x hx hn =>
      grows x hx (Bool.eq_false_iff.mpr fun hs => Bool.false_ne_true (hn.symm.trans (h.closures x hs)))
    obtain ⟨second, last⟩ := k.turned permitted late
    exact ⟨fun j => (first j).trans ((second j).of_outlook h.sees), last⟩
  outputs := fun j r hr ha hs => by
    have gates := gates_of_outlook h.sees
    exact k.outputs j r (by rwa [gates]) (by rwa [gates]) (h.outputs j r hr ha hs)

theorem Turns.scene (h : Turns T s t) (k : Proofs.scene u = Proofs.scene t) : Turns T s u := h.trans (.of_scene k)

theorem Turns.foldl {α : Type} {f : State → α → State} (hf : ∀ s x, Turns T s (f s x)) (xs : List α) (s : State) :
    Turns T s (xs.foldl f s) :=
  keep_foldl (P := Turns T s) (fun u x h => h.trans (hf u x)) xs s (.refl s)

theorem Turns.ite {c : Prop} [Decidable c] (ht : c → Turns T s t) (hu : ¬ c → Turns T s u) :
    Turns T s (if c then t else u) := by
  split
  · exact ht ‹_›
  · exact hu ‹_›

/-! ## One gate takes a turn (R132) -/

/-- The state in which gate `k` has taken its new state, and what it leaves to the hand-over. -/
theorem Turns.put {w : State} {k : Nat} {r : GateRecord} {g new : GateState} (hr : lookup s.settings.gates k = some r)
    (ho : s.gate k = some g) (sees : outlook w = outlook s) (gates : w.gates = putItem s.gates k (some new))
    (segments : w.segments = s.segments) (notices : w.retained.notices = s.retained.notices)
    (step : Turn T s k r g new)
    (outputs : ∀ j q, lookup s.settings.gates j = some q → OutputsApart s.settings.gates j q → AtSetting s j q →
      AtSetting w j q) : Turns T s w where
  sees := sees
  closures := fun x hx => by rwa [inForce_congr notices]
  turned := fun permits _ => by
    refine ⟨fun j => ?_, fun x d hd => ?_⟩
    · unfold State.gate
      rw [gates]
      by_cases hj : j = k
      · subst hj
        have bounds := lookup_bounds _ ho
        exact Or.inr ⟨r, g, new, hr, ho, lookup_putItem_self s.gates _ bounds.1 bounds.2, .single step⟩
      · exact Or.inl (lookup_putItem_ne s.gates _ hj)
    · rw [inForce_congr notices]
      exact permits x d (segments ▸ hd)
  outputs := outputs

theorem movedGate_scene (k : Nat) (c : GateCause) (g new : GateState) (s : State) :
    scene (movedGate k c g new s) = scene (s.withGate k (some new)) := by
  unfold movedGate
  split <;> rfl

theorem gate_movedGate {k : Nat} (c : GateCause) {g : GateState} (new : GateState) (ho : s.gate k = some g) (j : Nat) :
    (movedGate k c g new s).gate j = if j = k then some new else s.gate j := by
  have gates : (movedGate k c g new s).gates = (s.withGate k (some new)).gates :=
    congrArg (fun x => x.2.1) (movedGate_scene k c g new s)
  rw [← gate_withGate s k j (some new) (lookup_bounds _ ho)]
  exact congrArg (lookup · j) gates

theorem outputs_movedGate (k : Nat) (c : GateCause) (g new : GateState) :
    (movedGate k c g new s).field.outputs = s.field.outputs :=
  congrArg (fun x => x.2.2.2.2) (movedGate_scene k c g new s)

/-- A gate that turns within one state. -/
theorem turns_movedGate {k : Nat} {r : GateRecord} {g new : GateState} (c : GateCause)
    (hr : lookup s.settings.gates k = some r) (ho : s.gate k = some g) (same : g.position.sameState new.position = true)
    (step : Turn T s k r g new) : Turns T s (movedGate k c g new s) := by
  have moved := movedGate_scene k c g new s
  refine .put hr ho (congrArg Prod.fst moved) (congrArg (fun x => x.2.1) moved) (congrArg (fun x => x.2.2.1) moved)
    (congrArg (fun x => x.2.2.2.1) moved) step fun j q hq _ hs x hx => ?_
  rw [gate_movedGate c new ho] at hx
  rw [outputs_movedGate]
  by_cases hj : j = k
  · rw [if_pos hj] at hx
    cases hx
    unfold OutputsAt
    rw [← setting_of_sameState same]
    exact hs g (hj ▸ ho)
  · rw [if_neg hj] at hx
    exact hs x hx

/-- A gate that turns into another state, with the order for it (R110). -/
theorem turns_orderedGate {k : Nat} {r : GateRecord} {g new : GateState} (c : GateCause)
    (hr : lookup s.settings.gates k = some r) (ho : s.gate k = some g) (step : Turn T s k r g new) :
    Turns T s ((movedGate k c g new s).applyOrder (r.order new.position)) := by
  have moved := movedGate_scene k c g new s
  refine .put hr ho (congrArg Prod.fst moved) (congrArg (fun x => x.2.1) moved) (congrArg (fun x => x.2.2.1) moved)
    (congrArg (fun x => x.2.2.2.1) moved) step fun j q hq ⟨lines, distinct, apart⟩ hs x hx => ?_
  have hx' : (movedGate k c g new s).gate j = some x := hx
  have outputs : ((movedGate k c g new s).applyOrder (r.order new.position)).field.outputs =
      orderOutputs s.field.outputs (r.order new.position) :=
    congrArg (orderOutputs · (r.order new.position)) (outputs_movedGate k c g new)
  rw [gate_movedGate c new ho] at hx'
  rw [outputs]
  by_cases hj : j = k
  · rw [if_pos hj] at hx'
    cases hx'
    obtain rfl := Option.some.inj (hr.symm.trans (hj ▸ hq))
    exact outputsAt_order_self _ _ _ lines distinct
  · rw [if_neg hj] at hx'
    exact outputsAt_order_other lines (apart k r (Ne.symm hj) hr) (hs x hx')

/-- A gate that turns, reported and handed on. -/
theorem turns_changeGateWith {f : GateRecord → State → State} (hf : ∀ r w, Turns T w (f r w)) {k : Nat} {c : GateCause}
    {new : GateState}
    (step : ∀ r g, lookup s.settings.gates k = some r → s.gate k = some g → Turn T s k r g new) :
    Turns T s (s.changeGateWith f k c new) := by
  cases hr : lookup s.settings.gates k with
  | none =>
    unfold State.changeGateWith
    rw [hr]
    exact .refl s
  | some r =>
    cases ho : s.gate k with
    | none =>
      unfold State.changeGateWith
      rw [hr, ho]
      exact .refl s
    | some g =>
      rw [changeGateWith_eq c new hr ho]
      exact Turns.ite (fun same => turns_movedGate c hr ho same (step r g hr ho))
        fun _ => (turns_orderedGate c hr ho (step r g hr ho)).trans (hf r _)

end

/-! ## Segments derived and gates told (R94 to R97, R112, R113) -/

section
variable {T : Nat → Bool → Prop} (s : State)

theorem turns_evaluate (ks : List Nat) : Turns T s (s.evaluate ks).1 := by
  have notices : (derivedAnew ks s).retained.notices = s.retained.notices :=
    congrArg (fun x => x.2.2.2.1) (scene_reports (s.withSegments _) _)
  have closures := inForce_congr notices
  rw [evaluate_eq]
  refine Turns.scene (t := derivedAnew ks s) (.calm ?_ (gates_derivedAnew ks s) ?_ (fun x hx => by rwa [closures])
    fun x d hd => ?_) (scene_recompose _ _)
  · exact congrArg Prod.fst (scene_reports (s.withSegments _) _)
  · exact congrArg (fun x => x.2.2.2.2) (scene_reports (s.withSegments _) _)
  · rcases derivedAnew_segment ks s x with ⟨-, same⟩ | ⟨-, -, -, -, r, -, -, after⟩
    · exact Or.inl (same ▸ hd)
    · obtain rfl := Option.some.inj (after.symm.trans hd)
      rw [closures]
      exact Or.inr Option.isSome_map

variable {s}

/-- A re-derivation tells the closures in force. -/
theorem tell_of_evaluate {ks : List Nat} {x : Nat × Bool} (hx : x ∈ (s.evaluate ks).2) :
    ∃ d, d ∈ s.rederive (ascending 8 ks) ∧ x.1 ∈ s.settings.entryGates d.segment ∧ x.2 = inForce s d.segment ∧
      d.before.toldCif ≠ inForce s d.segment := by
  rw [evaluate_eq] at hx
  obtain ⟨d, hd, hx⟩ := List.mem_flatMap.mp hx
  obtain ⟨-, r, -, -, ha⟩ := mem_rederive.mp hd
  have told : d.after.toldCif = inForce s d.segment := by
    rw [ha]
    exact Option.isSome_map
  unfold Settings.cifTells at hx
  split at hx
  · cases hx
  · rename_i differ
    obtain ⟨j, hj, rfl⟩ := List.mem_map.mp hx
    exact ⟨d, hd, hj, told, told ▸ differ⟩

theorem tell_permitted {ks : List Nat} (permits : Permits T s) {x : Nat × Bool} (hx : x ∈ (s.evaluate ks).2)
    {r : GateRecord} (hr : lookup s.settings.gates x.1 = some r) : T r.segment x.2 := by
  obtain ⟨d, hd, entry, told, differ⟩ := tell_of_evaluate hx
  obtain ⟨-, -, -, before, -⟩ := mem_rederive.mp hd
  obtain ⟨q, hq, hseg⟩ := mem_entryGates.mp entry
  obtain rfl := Option.some.inj (hr.symm.trans hq)
  rw [hseg, told]
  exact (permits d.segment d.before before).resolve_right differ

theorem turns_handOnQuiet (r : GateRecord) (s : State) : Turns T s (handOnQuiet r s) :=
  (turns_evaluate s _).scene (scene_recompose _ _)

/-- A gate answers a tell that `T` allows. -/
theorem turns_answerTell {x : Nat × Bool}
    (allowed : ∀ r, lookup s.settings.gates x.1 = some r → T r.segment x.2) : Turns T s (s.answerTell x) := by
  unfold State.answerTell
  split
  · rename_i r g hr hg
    have told := allowed r hr
    split
    · rename_i hp hb
      refine turns_changeGateWith turns_handOnQuiet fun q y hq hy => ?_
      obtain rfl := Option.some.inj (hr.symm.trans hq)
      obtain rfl := Option.some.inj (hg.symm.trans hy)
      exact .warned hp (hb ▸ told)
    · rename_i hp hb
      refine turns_changeGateWith turns_handOnQuiet fun q y hq hy => ?_
      obtain rfl := Option.some.inj (hr.symm.trans hq)
      obtain rfl := Option.some.inj (hg.symm.trans hy)
      exact .released hp (hb ▸ told)
    · exact .refl s
  · exact .refl s

theorem turns_answerTells (xs : List (Nat × Bool)) (s : State)
    (allowed : ∀ x ∈ xs, ∀ r, lookup s.settings.gates x.1 = some r → T r.segment x.2) :
    Turns T s (s.answerTells xs) := by
  induction xs generalizing s with
  | nil => exact .refl s
  | cons x xs ih =>
    have first : Turns T s (s.answerTell x) := turns_answerTell (allowed x List.mem_cons_self)
    refine first.trans (ih _ fun y hy r hr => allowed y (List.mem_cons_of_mem x hy) r ?_)
    rwa [← gates_of_outlook first.sees]

/-- A hand-over whose tells `T` allows. -/
theorem turns_handOver_allowed (s : State) (ks signs : List Nat)
    (allowed : ∀ x ∈ (s.evaluate ks).2, ∀ r, lookup s.settings.gates x.1 = some r → T r.segment x.2) :
    Turns T s (s.handOver ks signs) := by
  have derived : Turns T s ((s.evaluate ks).1.recompose signs) := (turns_evaluate s ks).scene (scene_recompose _ _)
  rw [handOver_eq]
  refine derived.trans (turns_answerTells _ _ fun x hx r hr => allowed x hx r ?_)
  rwa [← gates_of_outlook derived.sees]

/-- A hand-over: what its tells need is that the closures in force are permitted where it begins. -/
theorem turns_handOver (s : State) (ks signs : List Nat) : Turns T s (s.handOver ks signs) where
  sees := (turns_handOver_allowed (T := fun _ _ => True) s ks signs fun _ _ _ _ => trivial).sees
  closures := (turns_handOver_allowed (T := fun _ _ => True) s ks signs fun _ _ _ _ => trivial).closures
  outputs := (turns_handOver_allowed (T := fun _ _ => True) s ks signs fun _ _ _ _ => trivial).outputs
  turned := fun permits =>
    (turns_handOver_allowed s ks signs fun _ hx _ hr => tell_permitted permits hx hr).turned permits

theorem turns_handTouched (s : State) (ks : List Nat) : Turns T s (s.handTouched ks) := by
  rw [handTouched_eq]
  exact turns_handOver s _ _

theorem turns_handSegments (s : State) (ks : List Nat) : Turns T s (s.handSegments ks) := by
  rw [handSegments_eq]
  exact turns_handOver s _ _

theorem turns_changeGate {k : Nat} {c : GateCause} {new : GateState}
    (step : ∀ r g, lookup s.settings.gates k = some r → s.gate k = some g → Turn T s k r g new) :
    Turns T s (s.changeGate k c new) := turns_changeGateWith (fun _ w => turns_handOver w _ _) step

end

/-! ## Holds and settling (R114 to R117, R173) -/

section
variable {T : Nat → Bool → Prop} (s : State)

theorem turns_loweringTest (k : Nat) : Turns T s (s.loweringTest k) := by
  unfold State.loweringTest
  split
  · rename_i r g hr hg
    refine Turns.ite (fun may => turns_changeGate fun q y hq hy => ?_) fun _ => .refl s
    obtain rfl := Option.some.inj (hr.symm.trans hq)
    obtain rfl := Option.some.inj (hg.symm.trans hy)
    exact .lowered may
  · exact .refl s

theorem turns_reviewHold (k : Nat) : Turns T s (s.reviewHold k) := by
  unfold State.reviewHold
  split
  · rename_i r g hr hg
    refine Turns.ite (fun follows => ?_) fun _ => .refl s
    have held : Turns T s (movedGate k .hold g { g with holdStart := s.followedHold r g } s) :=
      turns_movedGate .hold hr hg (beq_self_eq_true _) (.reviewed follows)
    unfold movedGate at held
    rw [if_pos rfl] at held
    exact held.trans (turns_loweringTest _ k)
  · exact .refl s

theorem turns_tellSign (k : Nat) : Turns T s (s.tellSign k) := Turns.foldl turns_reviewHold _ s

theorem turns_settle : Turns T s s.settle := by
  have tells : ∀ u : State, Turns T u u.giveTells := fun u =>
    (Turns.of_scene (scene_withStrings u { u.strings with tells := [] } rfl)).trans
      (Turns.foldl turns_tellSign u.strings.tells _)
  have round : ∀ u : State, Turns T u u.settleRound := fun u => (tells u).scene (scene_runArbiters _)
  exact ((round s).trans (round _)).trans (round _)

theorem turns_react {f : State → State} (hf : Turns T s (f s)) : Turns T s (s.react f) :=
  (hf.trans (turns_settle _)).scene (scene_kick _)

/-! ## Autonomous closures and levels (R61 to R63, R82, R83) -/

theorem turns_askClosure (k : Nat) : Turns T s (s.askClosure k) := by
  refine Turns.ite (fun _ => ?_) fun _ => .refl s
  have asked : Turns T s (s.withNotices (insertNotice (autonomousNotice k s.retained.clock) s.retained.notices)) :=
    .calm rfl rfl rfl (fun _ => inForce_insertNotice s _) fun _ _ hd => Or.inl hd
  exact asked.trans ((Turns.of_scene (scene_reports _ [_])).trans (turns_handTouched _ _))

theorem turns_handLevels (rises : List Rise) : Turns T s (s.handLevels rises) := by
  have trigger : ∀ (u : State) k, Turns T u (u.trigger k) := fun u k => Turns.foldl turns_askClosure _ u
  rw [handLevels_eq]
  exact ((Turns.of_scene (scene_reports s _)).trans (turns_handOver _ _ _)).trans (Turns.foldl trigger _ _)

end

end Sys2Proof.Proofs
end

section
/-! DEFINE_GATE (O18): the record put, the gate derived and handed on; and the gate that comes of it stays as the reply says
it is, however the blocks settle. -/

namespace Sys2Proof.Proofs

open Sys2Proof Sys2Proof.Machine Sys2Proof.Laws Sys2Proof.Claims

/-! ## The checks (R106) -/

section
variable {f : List Byte} {s : State} (hl : f.length = 17) (h1 : 1 ≤ byteAt f 13) (h3 : byteAt f 13 ≤ 3)
  (range : GateInRange (byteAt f 0) (gateOf f)) (names : GateNamesDefined s.settings (gateOf f))
  (announces : ApproachAnnounces s.settings (gateOf f))
  (free : GateLinesFree s.settings (byteAt f 0) (gateOf f))
include hl h1 h3 range names announces free

theorem carryDefineGate_accepted (still : GateStill s (byteAt f 0)) : carryDefineGate f s =
    accept (byte (byteAt f 0) :: (s.putGate (byteAt f 0) (gateOf f)).gateStateBytes (byteAt f 0))
      (s.putGate (byteAt f 0) (gateOf f)) := by
  have resting : ¬ ((lookup s.settings.gates (byteAt f 0)).isSome && s.gateInMotion (byteAt f 0)) = true := fun h =>
    (gateInMotion_iff s _).mp (Bool.and_eq_true_iff.mp h).2 still
  have accepted : s.gateRefusal f = none := none_of_finds (finds_gate s f not_not.symm)
    (.inr ⟨hl, .inr ⟨⟨range, h1, h3⟩, .inr ⟨names, .inr ⟨announces, .inr ⟨free, .inr ⟨resting, rfl⟩⟩⟩⟩⟩⟩)
  unfold carryDefineGate
  rw [accepted]

theorem carryDefineGate_inMotion (defined : (lookup s.settings.gates (byteAt f 0)).isSome = true)
    (moving : ¬ GateStill s (byteAt f 0)) : carryDefineGate f s = (s, .refused .inMotion .noReason) := by
  have motion : ((lookup s.settings.gates (byteAt f 0)).isSome && s.gateInMotion (byteAt f 0)) = true :=
    Bool.and_eq_true_iff.mpr ⟨defined, (gateInMotion_iff s _).mpr moving⟩
  exact (decides_defineGate f s not_not.symm).1 .inMotion .noReason
    (.inr ⟨hl, .inr ⟨⟨range, h1, h3⟩, .inr ⟨names, .inr ⟨announces, .inr ⟨free, .inl ⟨not_not.mpr motion, rfl⟩⟩⟩⟩⟩⟩)

end

/-! ## The record put (R17, R20, R107, R110) -/

section
variable {s : State} {k : Nat} {r : GateRecord}

theorem putGate_placed (s : State) (k : Nat) (r : GateRecord) : s.putGate k r =
    handGateRecord (lookup s.settings.gates k) r
      ((gatePlaced k r s).reports (gateDefined k ((s.gate k).map GateState.position) (s.deriveGate r))) := rfl

/-- The guarded segment of the new record is handed on. -/
theorem handGateRecord_eq (old : Option GateRecord) (new : GateRecord) : ∃ ks signs,
    (1 ≤ new.segment ∧ new.segment ≤ 8 → new.segment ∈ ks) ∧ ∀ s, handGateRecord old new s = s.handOver ks signs := by
  cases old with
  | none => exact ⟨_, _, fun _ => List.mem_singleton_self _, fun _ => rfl⟩
  | some q =>
    refine ⟨ascending 8 [q.segment, new.segment], _, fun bounds => ?_, fun _ => rfl⟩
    exact mem_ascending.mpr ⟨bounds, List.mem_cons_of_mem _ (List.mem_singleton_self _)⟩

theorem frame_gatePlaced (k : Nat) (r : GateRecord) (s : State) :
    Frame [.gateRecords, .gates, .outputs, .zones] s (gatePlaced k r s) := by
  intro p hp
  cases p with
  | gateRecords | gates | outputs | zones => exact absurd hp (by decide)
  | memories | readouts | transfers | arbiters | receiver | reports | link | write => exact ⟨rfl, rfl⟩
  | _ => exact rfl

theorem gate_gatePlaced_self (hk : 1 ≤ k ∧ k ≤ 8) : (gatePlaced k r s).gate k = some (s.deriveGate r) :=
  lookup_putItem_self s.gates _ hk.1 hk.2

theorem gate_gatePlaced_ne {j : Nat} (hj : j ≠ k) : (gatePlaced k r s).gate j = s.gate j :=
  lookup_putItem_ne s.gates _ hj

theorem record_gatePlaced (hk : 1 ≤ k ∧ k ≤ 8) : lookup (gatePlaced k r s).settings.gates k = some r :=
  lookup_setGate_self s.settings _ hk

theorem outputs_gatePlaced (s : State) (k : Nat) (r : GateRecord) : (gatePlaced k r s).field.outputs =
    orderOutputs (orderOutputs s.field.outputs (droppedOutputs (lookup s.settings.gates k) r))
      (r.order (s.deriveGate r).position) := rfl

/-- A line that neither the old nor the new record names is left alone. -/
theorem outputs_gatePlaced_other {l : Nat} (h : 1 ≤ l ∧ l ≤ 16) (hr : l ∉ r.outputs)
    (hq : ∀ q, lookup s.settings.gates k = some q → l ∉ q.outputs) :
    levelAt (gatePlaced k r s).field.outputs l = levelAt s.field.outputs l := by
  rw [outputs_gatePlaced, levelAt_order_other _ _ l h (by rwa [order_lines])]
  refine levelAt_order_other _ _ l h fun mem => ?_
  obtain ⟨q, old, named⟩ := droppedOutputs_lines mem
  exact hq q old named

/-- A line that the old record names, and the new one does not, is turned off. -/
theorem mem_droppedOutputs {q : GateRecord} {l : Nat} (hq : l ∈ q.outputs) (hr : l ∉ r.outputs) :
    (l, false) ∈ droppedOutputs (some q) r := by
  simp only [GateRecord.outputs, List.mem_cons, List.not_mem_nil, or_false, not_or] at hq hr
  obtain ⟨notLower, notRaise, notFlasher⟩ := hr
  unfold droppedOutputs
  simp only [List.mem_append]
  rcases hq with rfl | rfl | rfl
  · exact .inl (.inl (by rw [if_neg notLower]; exact List.mem_singleton_self _))
  · exact .inl (.inr (by rw [if_neg notRaise]; exact List.mem_singleton_self _))
  · exact .inr (by rw [if_neg notFlasher]; exact List.mem_singleton_self _)

theorem droppedOutputs_off (old : Option GateRecord) (new : GateRecord) (l : Nat) :
    (l, true) ∉ droppedOutputs old new := by
  cases old with
  | none => exact List.not_mem_nil
  | some q =>
    have one : ∀ a b : Nat, (l, true) ∉ (if a = b then [] else [(a, false)]) := fun a b => by
      split <;> simp
    unfold droppedOutputs
    simp only [List.mem_append, not_or]
    exact ⟨⟨one _ _, one _ _⟩, one _ _⟩

theorem outputs_gatePlaced_dropped {q : GateRecord} {l : Nat} (h : 1 ≤ l ∧ l ≤ 16)
    (old : lookup s.settings.gates k = some q) (hq : l ∈ q.outputs) (hr : l ∉ r.outputs) :
    levelAt (gatePlaced k r s).field.outputs l = false := by
  rw [outputs_gatePlaced, levelAt_order_other _ _ l h (by rwa [order_lines]), old]
  exact levelAt_order_off _ _ l h (mem_droppedOutputs hq hr) (droppedOutputs_off _ r l)

theorem zones_gatePlaced (s : State) (k : Nat) (r : GateRecord) : (gatePlaced k r s).field.clearZones =
    putItem s.field.clearZones k (s.zoneAfter k (lookup s.settings.gates k) r) := rfl

/-- The clear-zone timer is observed anew where the presence line is new (R17). -/
theorem zoneAfter_eq {z : ClearZone} (hz : itemAt s.field.clearZones k = some z) (old : Option GateRecord) :
    s.zoneAfter k old r = if old.map GateRecord.presence = some r.presence then z
      else if r.presence ≠ 0 ∧ s.accepted r.presence = true then .occupied else .idle := by
  have anew : zoneFrom r.presence (s.accepted r.presence) =
      if r.presence ≠ 0 ∧ s.accepted r.presence = true then .occupied else .idle := by
    unfold zoneFrom
    simp
  unfold State.zoneAfter
  cases old with
  | none => simpa using anew
  | some q =>
    by_cases same : q.presence = r.presence
    · simp [same, hz]
    · simp [same, anew]

/-- The outputs of the new record stand at the setting of the derived state. -/
theorem atSetting_gatePlaced (hk : 1 ≤ k ∧ k ≤ 8) (lines : ∀ l ∈ r.outputs, 1 ≤ l ∧ l ≤ 16)
    (distinct : r.outputs.Nodup) : AtSetting (gatePlaced k r s) k r := by
  intro g hg
  obtain rfl := Option.some.inj ((gate_gatePlaced_self hk).symm.trans hg)
  exact outputsAt_order_self _ r _ lines distinct

end

/-! ## The gate stays as the reply says -/

/-- A hand-over leaves each of its segments with its sources. -/
theorem handOver_follows_of_mem {s : State} {ks : List Nat} (signs : List Nat) {x : Nat} (hx : x ∈ ks)
    (stands : (lookup s.segments x).isSome = (lookup s.settings.segments x).isSome) :
    SegmentFollows (s.handOver ks signs) x := by
  rw [handOver_eq, evaluate_eq]
  refine (unsettles_answerTells (g := stepTerms) _ _).derived trivial x List.not_mem_nil ?_
  refine (unsettles_recompose (g := stepTerms) _ signs).derived trivial x List.not_mem_nil ?_
  exact (unsettles_recompose (g := stepTerms) _ _).derived trivial x List.not_mem_nil
    (derivedAnew_follows (Or.inl hx) stands)

/-- A segment that follows its sources has told the closure in force. -/
theorem told_of_follows {s : State} {x : Nat} {d : SegmentState} (h : SegmentFollows s x)
    (hd : lookup s.segments x = some d) : d.toldCif = inForce s x ∧ s.cif x = inForce s x := by
  unfold State.cif
  rw [hd]
  rw [h] at hd
  obtain ⟨r, -, rfl⟩ := Option.map_eq_some_iff.mp hd
  exact ⟨Option.isSome_map, Option.isSome_map⟩

/-- After a hand-over its segments have nothing more to tell. -/
theorem handOver_permits {s : State} {ks : List Nat} (signs : List Nat) {x : Nat} (hx : x ∈ ks)
    (defined : (lookup s.settings.segments x).isSome = true) :
    Permits (fun y _ => y ≠ x) (s.handOver ks signs) := by
  intro y d hd
  by_cases hy : y = x
  · subst hy
    have reach : (lookup (s.handOver ks signs).segments y).isSome = (lookup s.segments y).isSome :=
      (reach_handOver s ks signs).segments y
    have stands : (lookup s.segments y).isSome = (lookup s.settings.segments y).isSome := by
      rw [← reach, hd, defined]
      rfl
    exact .inr (told_of_follows (handOver_follows_of_mem signs hx stands) hd).1
  · exact .inl hy

/-- A hold that began this second has not been served. -/
theorem not_mayLower_of_fresh {s : State} {k : Nat} {r : GateRecord} {g : GateState} (hw : 1 ≤ r.warnHold)
    (fresh : g.holdStart = none ∨ g.holdStart = some s.seconds) : ¬ s.mayLower k r g = true := by
  have required : 1 ≤ s.requirement r := by
    unfold State.requirement
    split <;> omega
  have unserved : s.deadlinePassed r g = false := by
    unfold State.deadlinePassed
    rcases fresh with h | h
    · rw [h]
    · rw [h]
      simp only [decide_eq_false_iff_not]
      omega
  unfold State.mayLower
  rw [unserved, Bool.and_false]
  exact Bool.false_ne_true

/-- A hold that a review or an entry into WARNING leaves is the one there was, or begins now. -/
theorem freshHold_cases (s : State) (r : GateRecord) : s.freshHold r = none ∨ s.freshHold r = some s.seconds := by
  unfold State.freshHold
  split
  · exact .inr rfl
  · exact .inl rfl

theorem followedHold_cases (s : State) (r : GateRecord) (g : GateState) :
    s.followedHold r g = none ∨ s.followedHold r g = g.holdStart ∨
      (g.holdStart = none ∧ s.followedHold r g = some s.seconds) := by
  unfold State.followedHold
  split
  · cases g.holdStart with
    | none => exact .inr (.inr ⟨rfl, rfl⟩)
    | some start => exact .inr (.inl rfl)
  · exact .inl rfl

/-- A gate with a fresh hold, or none. -/
def FreshHeld (s : State) (g : GateState) : Prop := g.holdStart = none ∨ g.holdStart = some s.seconds

theorem FreshHeld.turn {T : Nat → Bool → Prop} {s : State} {k : Nat} {r : GateRecord} {g h : GateState}
    (turn : Turn T s k r g h) (fresh : FreshHeld s g) : FreshHeld s h := by
  cases turn with
  | warned _ _ => exact freshHold_cases s r
  | released _ _ => exact .inl rfl
  | lowered _ => exact fresh
  | reviewed _ =>
    rcases followedHold_cases s r g with none | same | ⟨-, now⟩
    · exact .inl none
    · exact fresh.imp same.trans same.trans
    · exact .inr now

theorem deriveGate_fresh (s : State) (r : GateRecord) : FreshHeld s (s.deriveGate r) := by
  unfold FreshHeld State.deriveGate
  dsimp only
  split
  · exact freshHold_cases s r
  · exact .inl rfl

/-- A gate whose segment has nothing to tell keeps its state while its hold is fresh. -/
theorem position_turned {s t : State} {k : Nat} {r : GateRecord} {g h : GateState}
    (turned : Turned (fun x _ => x ≠ r.segment) s k (s.gate k) (t.gate k)) (hr : lookup s.settings.gates k = some r)
    (hw : 1 ≤ r.warnHold) (hg : s.gate k = some g) (fresh : FreshHeld s g) (hh : t.gate k = some h) :
    h.position = g.position := by
  refine (turned.keeps (P := fun x => x.position = g.position ∧ FreshHeld s x) (fun q x y hq turn hx => ?_)
    (fun x hx => ?_) h hh).1
  · obtain rfl := Option.some.inj (hr.symm.trans hq)
    refine ⟨?_, hx.2.turn turn⟩
    cases turn with
    | warned _ told => exact absurd rfl told
    | released _ told => exact absurd rfl told
    | lowered may => exact absurd may (not_mayLower_of_fresh hw hx.2)
    | reviewed _ => exact hx.1
  · obtain rfl := Option.some.inj (hg.symm.trans hx)
    exact ⟨rfl, fresh⟩

/-- What follows the carrying out of a request turns gates. -/
theorem turns_request {T : Nat → Bool → Prop} {m : Moment} {kind tag : Byte} {fields : List Byte}
    {F : State → State × Answer} {s t : State} (ready : Ready s kind tag fields)
    (e : request m kind tag fields F s = .next t) : Turns T (F (s.elapse m).popFrame).1 t := by
  rw [request_taken m kind tag fields F s ready.1 (takes_of_ready ready)] at e
  injection e with e
  rw [← e]
  exact (((turns_settle _).scene (scene_placeReply _ _)).trans (turns_settle _)).scene (scene_kick _)

theorem gateStateBytes_of_gate {s : State} {k : Nat} {g : GateState} (h : s.gate k = some g) :
    s.gateStateBytes k = [g.position.code, g.position.stopCode] := by
  unfold State.gateStateBytes
  rw [h]

/-- The gate of an accepted DEFINE GATE: as the reply carries it, and with its outputs at its setting. -/
theorem putGate_stays {m : Moment} {tag : Byte} {f : List Byte} {s t : State} {F : State → State × Answer} {k : Nat}
    {r : GateRecord} (ready : Ready s kindDefineGate tag f) (e : request m kindDefineGate tag f F s = .next t)
    (hF : (F (s.elapse m).popFrame).1 = (s.elapse m).popFrame.putGate k r) (range : GateInRange k r)
    (names : GateNamesDefined s.settings r) (free : GateLinesFree s.settings k r) {h : GateState}
    (hh : ((s.elapse m).popFrame.putGate k r).gate k = some h) {g : GateState} (hg : t.gate k = some g) :
    g.position = h.position ∧ OutputsAt t.field.outputs r g.position := by
  obtain ⟨k1, k8, x1, x8, w30, -, -, -, -, -, lines, -⟩ := range
  obtain ⟨-, distinct, apart, -⟩ := free
  obtain ⟨ks, signs, mem, hand⟩ := handGateRecord_eq (lookup (s.elapse m).popFrame.settings.gates k) r
  have put := putGate_placed (s.elapse m).popFrame k r
  rw [hand] at put
  have told : ∀ T bs, Turns T (gatePlaced k r (s.elapse m).popFrame) ((gatePlaced k r (s.elapse m).popFrame).reports bs) :=
    fun _ _ => .of_scene (scene_reports _ _)
  have after : ∀ T, Turns T ((s.elapse m).popFrame.putGate k r) t := fun T => hF ▸ turns_request ready e
  have toPut : ∀ T, Turns T (gatePlaced k r (s.elapse m).popFrame) ((s.elapse m).popFrame.putGate k r) := fun T => by
    rw [put]
    exact (told T _).trans (turns_handOver _ ks signs)
  have record : lookup (gatePlaced k r (s.elapse m).popFrame).settings.gates k = some r := record_gatePlaced ⟨k1, k8⟩
  have record' : lookup ((s.elapse m).popFrame.putGate k r).settings.gates k = some r := by
    rw [gates_of_outlook (toPut fun _ _ => True).sees]
    exact record
  have outputs : OutputsApart (gatePlaced k r (s.elapse m).popFrame).settings.gates k r := by
    refine ⟨fun l hl => lines l ?_, distinct, fun j q hj hq => ?_⟩
    · exact List.mem_cons_of_mem _ (List.mem_cons_of_mem _ hl)
    · exact (apart j q hj ((lookup_setGate_ne s.settings (some r) hj).symm.trans hq)).2
  constructor
  · have fresh : FreshHeld ((s.elapse m).popFrame.putGate k r) h := by
      have turned := ((toPut fun _ _ => True).turned (fun _ _ _ => .inl trivial) fun _ _ _ => trivial).1 k
      have seconds := seconds_of_outlook (toPut fun _ _ => True).sees
      unfold FreshHeld
      rw [seconds]
      refine turned.keeps (P := FreshHeld (gatePlaced k r (s.elapse m).popFrame)) (fun q x y _ turn hx => hx.turn turn)
        (fun x hx => ?_) h hh
      obtain rfl := Option.some.inj ((gate_gatePlaced_self ⟨k1, k8⟩).symm.trans hx)
      exact deriveGate_fresh _ r
    have permits : Permits (fun x _ => x ≠ r.segment) ((s.elapse m).popFrame.putGate k r) := by
      rw [put]
      refine handOver_permits signs (mem ⟨x1, x8⟩) ?_
      rw [(reaction_reports _ _).settings]
      exact names.1
    have notices : inForce t = inForce ((s.elapse m).popFrame.putGate k r) := by
      obtain ⟨v, hv, follows, -⟩ := request_follows m kindDefineGate tag f F s ready.1 (takes_of_ready ready)
      rw [e] at hv
      cases hv
      rw [← hF]
      exact inForce_congr (congrArg (fun x : Still => x.retained.notices) follows.still)
    have turned := ((after fun x _ => x ≠ r.segment).turned permits fun x hx hn =>
      absurd (notices ▸ hx) (Bool.eq_false_iff.mp hn)).1 k
    exact position_turned turned record' (Nat.le_trans (by decide) w30) hh fresh hg
  · have whole := (toPut fun _ _ => True).trans (after _)
    have distinctLines : ∀ l ∈ r.outputs, 1 ≤ l ∧ l ≤ 16 := outputs.1
    exact whole.outputs k r record outputs (atSetting_gatePlaced ⟨k1, k8⟩ distinctLines distinct) g hg

/-- The derived gate is at rest but for its hold. -/
theorem gateMay_deriveGate {s : State} {r : GateRecord} {g : GateState} (h : GateRipple (s.deriveGate r) g) :
    GateMay (atRest (s.deriveGate r).position 0) g := by
  obtain ⟨hold, fresh, derived⟩ := deriveGate_atRest s r
  rw [derived] at h
  obtain ⟨reversals, moves, stays⟩ := gateMay_of_ripple h
  rcases fresh with rfl | warned
  · exact ⟨reversals, moves, stays⟩
  · exact ⟨reversals, moves, fun _ hn => absurd warned hn⟩

theorem gateDefined_eq (s : State) (k : Nat) (before : Option GatePosition) (r : GateRecord) :
    gateDefined k before (s.deriveGate r) = if before = some (s.deriveGate r).position then []
      else [.gate k before (some (s.deriveGate r).position) 0 .define] := rfl

section
variable {m : Moment} {tag : Byte} {f : List Byte} {s : State} {k : Nat} {r : GateRecord}
  (ready : Ready s kindDefineGate tag f) (hl : f.length = 17) (hk : byteAt f 0 = k) (hr : gateOf f = r)
  (h1 : 1 ≤ byteAt f 13) (h3 : byteAt f 13 ≤ 3) (range : GateInRange k r) (names : GateNamesDefined s.settings r)
  (announces : ApproachAnnounces s.settings r) (free : GateLinesFree s.settings k r)
include ready hl hk hr h1 h3 range names announces free

theorem defineGate_refused (settled : s.Settled) (defined : (lookup s.settings.gates k).isSome = true)
    (moving : ¬ GateStill s k) : Refuses (.defineGate m tag f) m kindDefineGate tag .inMotion .noReason s := by
  subst hk hr
  exact refuses_of_request ready settled rfl
    (carryDefineGate_inMotion (s := (s.elapse m).popFrame) hl h1 h3 range names announces free defined moving)

/-- What an accepted DEFINE GATE comes to: the record and the derived gate put, and the reactions to them. -/
theorem defineGate_reacts (still : GateStill s k) :
    ∃ t g h, exec (.defineGate m tag f) s = .next t ∧ Passed m s t ∧
      Answered s t kindDefineGate tag (.done [byte k, h.position.code, h.position.stopCode]) ∧
      ((s.elapse m).popFrame.putGate k r).gate k = some h ∧ t.gate k = some g ∧ GateRipple ((s.elapse m).popFrame.deriveGate r) g ∧
      g.position = h.position ∧ OutputsAt t.field.outputs r g.position ∧
      ReportedFirst (gateDefined k ((s.gate k).map GateState.position) (s.deriveGate r)) s t ∧
      Reacts [k] [] [] [] s t ∧ Follows (gatePlaced k r (s.elapse m).popFrame) t ∧
      Frame (answered ++ road) (gatePlaced k r (s.elapse m).popFrame) t ∧
      Frame (answered ++ road ++ [.gateRecords, .zones]) s t := by
  have bounds : 1 ≤ k ∧ k ≤ 8 := ⟨range.1, range.2.1⟩
  obtain ⟨ks, signs, -, hand⟩ := handGateRecord_eq (lookup s.settings.gates k) r
  have put : (s.elapse m).popFrame.putGate k r = ((gatePlaced k r (s.elapse m).popFrame).reports
      (gateDefined k ((s.gate k).map GateState.position) (s.deriveGate r))).handOver ks signs := hand _
  have settles : Settles ((gatePlaced k r (s.elapse m).popFrame).reports
      (gateDefined k ((s.gate k).map GateState.position) (s.deriveGate r))) ((s.elapse m).popFrame.putGate k r) := by
    rw [put]
    exact settles_of_reaction (reaction_handOver _ ks signs) (ripple_handOver _ ks signs) (reach_handOver _ ks signs)
  have told : Follows (gatePlaced k r (s.elapse m).popFrame) ((gatePlaced k r (s.elapse m).popFrame).reports
      (gateDefined k ((s.gate k).map GateState.position) (s.deriveGate r))) :=
    .of_reaction (reaction_reports _ _) (ripple_reports _ _) (reach_reports _ _)
  have derived : (gatePlaced k r (s.elapse m).popFrame).gate k =
      some ((s.elapse m).popFrame.deriveGate r) := gate_gatePlaced_self bounds
  obtain ⟨h, hh, -⟩ := (both_spread ((told.trans settles.1).ripple.gates k)).2 _ derived
  have carried : carryDefineGate f (s.elapse m).popFrame = ((s.elapse m).popFrame.putGate k r,
      .done [byte k, h.position.code, h.position.stopCode]) := by
    rw [← gateStateBytes_of_gate hh]
    subst hk hr
    exact carryDefineGate_accepted (s := (s.elapse m).popFrame) hl h1 h3 range names announces free still
  obtain ⟨t, he, hpass, hans, reported, reacts, follows, fromBase, frame⟩ := request_gateRecord (k := k) ready carried
    (frame_gatePlaced k r _) settles (fun j hj => gate_gatePlaced_ne hj) fun l l1 l16 named => outputs_gatePlaced_other
      ⟨l1, l16⟩ (named k r (.inr (record_gatePlaced bounds))) fun q hq => named k q (.inl hq)
  have whole := told.trans follows
  obtain ⟨g, hg, -⟩ := (both_spread (whole.ripple.gates k)).2 _ derived
  obtain ⟨stays, outputs⟩ := putGate_stays ready he (congrArg Prod.fst carried) range names free hh hg
  have ripple : GateRipple ((s.elapse m).popFrame.deriveGate r) g := by
    have both := whole.ripple.gates k
    rw [derived, hg] at both
    exact both
  exact ⟨t, g, h, he, hpass, hans, hh, hg, ripple, stays, outputs, reported, reacts, whole,
    Frame.mono (Frame.trans (frame_reports _ _) fromBase) (by decide), frame⟩

end

/-- Settles O18: the record is put and the gate derived, and what follows turns the gate no further than to UP or WARNING,
before the reply is made. -/
theorem defineGateDerives : Obligations.DefineGateDerives := by
  intro m tag f s k r ready hl hk hr h1 h3 range names announces free
  refine ⟨defineGate_refused ready hl hk hr h1 h3 range names announces free, fun still p hp => ?_⟩
  rw [← deriveGate_position] at hp
  subst hp
  obtain ⟨t, g, h, he, hpass, hans, -, hg, ripple, stays, outputs, reported, reacts, follows, fromBase, frame⟩ :=
    defineGate_reacts (m := m) ready hl hk hr h1 h3 range names announces free still
  have bounds : 1 ≤ k ∧ k ≤ 8 := ⟨range.1, range.2.1⟩
  have records : t.settings.gates = (gatePlaced k r (s.elapse m).popFrame).settings.gates :=
    fromBase .gateRecords (by decide)
  have zones : t.field.clearZones = putItem s.field.clearZones k (s.zoneAfter k (lookup s.settings.gates k) r) :=
    fromBase .zones (by decide)
  obtain ⟨lower, raise, flasher⟩ := outputs
  refine ⟨t, g, hg, ⟨he, hpass, stays ▸ hans⟩, ?_, gateMay_deriveGate (s := (s.elapse m).popFrame) ripple,
    Prod.ext lower (Prod.ext raise flasher), fun q hq l mem l1 l16 unnamed => ?_, reported, fun z hz => ?_, fun j hj => ?_,
    reacts, frame⟩
  · rw [records]
    exact put_putItem s.settings.gates (some r) bounds.1 bounds.2
  · have fresh : l ∉ r.outputs := unnamed k r (by rw [records]; exact record_gatePlaced bounds)
    refine (follows.reach.outputs l ⟨l1, l16⟩ fun j x hx => ?_).trans
      (outputs_gatePlaced_dropped (s := (s.elapse m).popFrame) ⟨l1, l16⟩ hq mem fresh)
    have away : l ∉ x.outputs := unnamed j x (by rw [records]; exact hx)
    simpa [GateRecord.outputs] using away
  · rw [zones, ← zoneAfter_eq hz]
    exact itemAt_putItem_self _ _ bounds.1 bounds.2
  · rw [zones]
    exact itemAt_putItem_ne _ _ hj

end Sys2Proof.Proofs
end

section
/-! The holds of the gates (O59): a state whose tables are whole, but in which the Sign Composer holds nothing for a sign
that has a record and a panel. DEFINE_SIGN takes such a sign for a new one and makes its panel record afresh, of which no
gate is told while the sign's string is busy: a gate in WARNING keeps its hold though its approach sign agrees no more
(R114, R115, R135, R136). -/

namespace Sys2Proof.Proofs

open Sys2Proof Sys2Proof.Machine Sys2Proof.Laws Sys2Proof.Claims

/-! ## The state -/

def loneGate : GateRecord := ⟨1, 30, 5, 2, 1, 2, 0, 0, 1, 2, 3, [1]⟩
def loneSign : SignRecord := ⟨.a, 1, 1, 1, 8, 1, [1]⟩
def warnedGate : GateState := ⟨.warning, some 0, 0, none⟩
def faultyPanel : PanelRecord := { PanelRecord.fresh with state := .fault, attempts := 3 }

/-- One segment, guarded by one gate, whose approach sign announces it. -/
def loneSettings : Settings :=
  { factorySettings with
    segments := putItem factorySettings.segments 1 (some ⟨0, 1, 1⟩)
    gates := putItem factorySettings.gates 1 (some loneGate)
    signs := putItem factorySettings.signs 1 (some loneSign)
    profiles := putItem factorySettings.profiles 1 (some ⟨true, 1, true, true, true, .both, .full⟩) }

/-- The gate in WARNING with its hold, its sign's panel in FAULT and nothing composed for the sign, the sign's string busy;
and a DEFINE SIGN that repeats the sign's record. -/
def unheldSign : State :=
  { State.reset with
    schedule := 0
    pending := [.defineSign 0 7 (signBytes 1 loneSign)]
    gates := putItem State.reset.gates 1 (some warnedGate)
    strings := ⟨putItem State.reset.strings.panels 1 (some faultyPanel),
      some ⟨2, 2, ⟨[], [], ⟨[], [], none⟩, 0⟩, 1, .sendingFrame, true⟩, none, [], []⟩
    line := { State.reset.line with inbound := [⟨kindDefineSign, 7 :: signBytes 1 loneSign⟩] }
    store := ⟨loneSettings, none, none, 0⟩ }

/-! ## What it satisfies -/

/-- The only record of a table that one was put into. -/
theorem eq_of_lookup_single {α : Type} {n k j : Nat} {a b : α}
    (h : lookup (putItem (Vector.replicate n none) j (some a)) k = some b) : k = j ∧ b = a := by
  rcases lookup_putItem_cases _ _ _ _ _ h with ⟨hk, hb⟩ | none
  · exact ⟨hk, (Option.some.inj hb).symm⟩
  · cases (lookup_replicate_none k).symm.trans none

theorem loneSettings_whole : loneSettings.Whole := by
  refine ⟨⟨fun k r hr => ?_, fun k r hr => ?_⟩, fun k r hr => ?_⟩
  · obtain ⟨-, rfl⟩ := eq_of_lookup_single hr
    refine ⟨rfl, List.cons_ne_nil _ _, fun x hx => ⟨loneSign, ?_, List.mem_singleton_self _⟩⟩
    obtain rfl := List.mem_singleton.mp hx
    rfl
  · obtain ⟨-, rfl⟩ := eq_of_lookup_single hr
    refine ⟨rfl, fun x hx => ?_⟩
    obtain rfl := List.mem_singleton.mp hx
    rfl
  · obtain ⟨-, rfl⟩ := eq_of_lookup_single hr
    decide

theorem unheldSign_tables : unheldSign.TablesWhole := ⟨loneSettings_whole, nofun, nofun⟩

theorem unheldSign_gates : unheldSign.GatesWhole := by
  intro k
  by_cases hk : k = 1
  · subst hk
    rfl
  · have gate : unheldSign.gate k = none :=
      (lookup_putItem_ne State.reset.gates _ hk).trans (lookup_replicate_none k)
    have record : lookup unheldSign.settings.gates k = none :=
      (lookup_putItem_ne factorySettings.gates _ hk).trans (lookup_replicate_none k)
    rw [gate, record]
    rfl

theorem unheldSign_holds : unheldSign.HoldsFollow := by
  intro k r g hr hg
  obtain ⟨-, rfl⟩ := eq_of_lookup_single hr
  obtain ⟨-, rfl⟩ := eq_of_lookup_single hg
  refine iff_of_true nofun ⟨.inl rfl, fun sign hs => ?_⟩
  obtain rfl := List.mem_singleton.mp hs
  exact ⟨faultyPanel, rfl, .inl rfl⟩

/-! ## What a step makes of it -/

/-- The state after a step. -/
def nextOf : Host.Outcome State Fault Refusal → Option State
  | .next t => some t
  | .fault _ => none
  | .refused _ => none

/-- The gate keeps its hold, and the panel of its sign is new. -/
theorem unheldSign_steps : (nextOf (step unheldSign)).map (fun t => (lookup t.settings.gates 1, t.gate 1, t.panel 1)) =
    some (some loneGate, some warnedGate, some PanelRecord.fresh) := by
  decide +kernel

/-- Refutes O59: the step takes the agreement of the approach sign away and leaves the gate its hold. The statement does
not ask that the Sign Composer holds something for every sign. -/
theorem not_holdsFollowAgreement : ¬ Obligations.HoldsFollowAgreement := by
  rintro ⟨steps, -⟩
  obtain ⟨t, next, parts⟩ := Option.map_eq_some_iff.mp unheldSign_steps
  have stepped : step unheldSign = .next t := by
    unfold nextOf at next
    split at next
    · rename_i u hu
      exact hu.trans (congrArg _ (Option.some.inj next))
    · cases next
    · cases next
  obtain ⟨record, rest⟩ := Prod.mk.inj parts
  obtain ⟨gate, panel⟩ := Prod.mk.inj rest
  have follow := steps _ _ unheldSign_gates unheldSign_tables unheldSign_holds stepped 1 loneGate warnedGate record gate
  obtain ⟨-, agree⟩ := follow.mp nofun
  obtain ⟨p, hp, differs⟩ := agree 1 (List.mem_singleton_self _)
  obtain rfl := Option.some.inj (panel.symm.trans hp)
  rcases differs with fault | ⟨image, confirmed, -⟩
  · cases fault
  · cases confirmed

end Sys2Proof.Proofs
end

section
/-! SUPPORT. The gates in the course of a command (R110 to R133): a command brings the gates to states of their own, as
`Brings` lists them, and what follows in it only turns them. -/

namespace Sys2Proof.Proofs

open Sys2Proof Sys2Proof.Machine Sys2Proof.Laws Sys2Proof.Claims

/-- The gate states `A` that a command may bring a gate into from `s`, before anything is told: the state it has, a state
at rest, and the reversal of a lowering gate (R122). -/
structure Brings (A : Nat → GateState → Prop) (s : State) : Prop where
  same : ∀ k g, s.gate k = some g → A k g
  rest : ∀ k h, h.position.inMotion = false → A k h
  reversed : ∀ k g h, s.gate k = some g → g.position = .lowering → g.reversals < 3 →
    h.position = .raising .obstruction → h.reversals = g.reversals + 1 → A k h

/-- The gates were brought to states of `A`, and have turned since. -/
def Course (A : Nat → GateState → Prop) (t : State) : Prop :=
  ∃ u : State, (∀ k g, u.gate k = some g → A k g) ∧ Turns (fun _ _ => True) u t

section
variable {A : Nat → GateState → Prop} {s t u : State}

theorem Brings.of_gates (h : Brings A s) (e : t.gates = s.gates) : Brings A t := by
  have gate : t.gate = s.gate := funext fun k => congrArg (lookup · k) e
  refine ⟨?_, h.rest, ?_⟩
  · rw [gate]
    exact h.same
  · rw [gate]
    exact h.reversed

theorem Course.turns (h : Course A s) (k : Turns (fun _ _ => True) s t) : Course A t := by
  obtain ⟨u, gates, turned⟩ := h
  exact ⟨u, gates, turned.trans k⟩

theorem Course.scene (h : Course A s) (e : Proofs.scene t = Proofs.scene s) : Course A t := h.turns (.of_scene e)

theorem Course.ite {c : Prop} [Decidable c] (hs : c → Course A s) (ht : ¬ c → Course A t) : Course A (if c then s else t) := by
  split
  · exact hs ‹_›
  · exact ht ‹_›

theorem Course.of_gates (h : ∀ k g, s.gate k = some g → A k g) : Course A s := ⟨s, h, .refl s⟩

/-- An operation that leaves the gates. -/
theorem Brings.course (h : Brings A s) (e : t.gates = s.gates) : Course A t := .of_gates (h.of_gates e).same

theorem gates_of_scene (h : Proofs.scene t = Proofs.scene s) : t.gates = s.gates := congrArg (fun x => x.2.1) h

/-! ## Events and requests -/

theorem course_event {m : Moment} {f : State → State} (h : Brings A s) (hf : Course A (f (s.elapse m)))
    (e : event m f s = .next t) : Course A t := by
  cases hp : s.powered with
  | false =>
    rw [event_unpowered m f s hp] at e
    cases e
    exact h.course rfl
  | true =>
    rw [event_powered m f s hp] at e
    cases e
    exact (hf.turns (turns_settle _)).scene (scene_kick _)

theorem course_carryOut {kind tag : Byte} {f : State → State × Answer} (hf : Course A (f s.popFrame).1) :
    Course A (s.carryOut kind tag f) := (hf.turns (turns_settle _)).scene (scene_placeReply _ _)

theorem course_request {m : Moment} {kind tag : Byte} {fields : List Byte} {f : State → State × Answer} (h : Brings A s)
    (hf : Course A (f (s.elapse m).popFrame).1) (e : request m kind tag fields f s = .next t) : Course A t :=
  course_event h (Course.ite (fun _ => course_carryOut hf) fun _ => h.course rfl) e

/-- An effect that takes no more of the state it begins in than its gates. -/
def Steers (A : Nat → GateState → Prop) (f : State → State) : Prop := ∀ u, Brings A u → Course A (f u)

theorem Steers.of_gates {f : State → State} (h : ∀ u, (f u).gates = u.gates) : Steers A f := fun u a => a.course (h u)

theorem steers_event {m : Moment} {f : State → State} (h : Brings A s) (hf : Steers A f) (e : event m f s = .next t) :
    Course A t := course_event h (hf _ (h.of_gates rfl)) e

theorem steers_request {m : Moment} {kind tag : Byte} {fields : List Byte} {f : State → State × Answer} (h : Brings A s)
    (hf : Steers A fun u => (f u).1) (e : request m kind tag fields f s = .next t) : Course A t :=
  course_request h (hf _ (h.of_gates rfl)) e

theorem steers_removal {m : Moment} {item : Nat} {tag : Byte} {fields : List Byte} {f : Nat → State → State × Answer}
    (h : Brings A s) (hf : ∀ k, Steers A fun u => (f k u).1) (e : removal m item tag fields f s = .next t) : Course A t := by
  unfold removal at e
  split at e
  · refine steers_request h (fun u a => ?_) e
    dsimp only
    unfold carryRemoval
    split
    · exact a.course rfl
    · split
      · exact a.course rfl
      · exact hf _ u a
  · exact steers_event h (.of_gates fun _ => rfl) e

theorem steers_removeItem {α : Type} {n : Nat} {table : State → Vector (Option α) n} {act : α → State → State × Answer}
    {k : Nat} (h : ∀ r, Steers A fun u => (act r u).1) : Steers A fun u => (removeItem k (table u) act u).1 := fun u a =>
  keep_removeItem (fun r _ => h r u a) (a.course rfl)

/-! ## A gate brought to a state (R132) -/

theorem course_changeGate (h : Brings A s) {k : Nat} (c : GateCause) {new : GateState} (hn : A k new) :
    Course A (s.changeGate k c new) := by
  unfold State.changeGate
  cases hr : lookup s.settings.gates k with
  | none =>
    unfold State.changeGateWith
    rw [hr]
    exact h.course rfl
  | some r =>
    cases ho : s.gate k with
    | none =>
      unfold State.changeGateWith
      rw [hr, ho]
      exact h.course rfl
    | some g =>
      have moved : ∀ j x, (movedGate k c g new s).gate j = some x → A j x := fun j x hx => by
        rw [gate_movedGate c new ho] at hx
        split at hx
        · cases hx
          exact ‹j = k› ▸ hn
        · exact h.same j x hx
      rw [changeGateWith_eq c new hr ho]
      exact Course.ite (fun _ => .of_gates moved) fun _ =>
        (Course.of_gates (s := (movedGate k c g new s).applyOrder _) moved).turns (turns_handOver _ _ _)

theorem course_rests (h : Brings A s) (k : Nat) (c : GateCause) {new : GateState} (hn : new.position.inMotion = false) :
    Course A (s.changeGate k c new) := course_changeGate h c (h.rest k new hn)

theorem deriveGate_rests (s : State) (r : GateRecord) : (s.deriveGate r).position.inMotion = false := by
  have rests : ∀ key up down cif, (derivedPosition key up down cif).inMotion = false := by decide
  exact rests _ _ _ _

/-! ## Change events (R119 to R128) -/

/-- An outcome of a switch event is a state at rest. -/
theorem bothOutcome_rests {g new : GateState} {c : GateCause} (h : bothOutcome g = some (new, c)) :
    new.position.inMotion = false := by
  unfold bothOutcome at h
  split at h <;> cases h
  rfl

theorem downOutcome_rests {g new : GateState} {c : GateCause} (h : downOutcome g = some (new, c)) :
    new.position.inMotion = false := by
  unfold downOutcome at h
  split at h <;> cases h <;> rfl

theorem upOutcome_rests {cif : Bool} {g new : GateState} {c : GateCause} (h : upOutcome cif g = some (new, c)) :
    new.position.inMotion = false := by
  unfold upOutcome at h
  split at h <;> cases h <;> cases cif <;> rfl

theorem course_switchOutcome (h : Brings A s) (k : Nat) {o : Option (GateState × GateCause)}
    (rests : ∀ new c, o = some (new, c) → new.position.inMotion = false) : Course A (switchOutcome k s o) := by
  unfold switchOutcome
  split
  · exact course_rests h k _ (rests _ _ rfl)
  · exact h.course rfl

theorem steers_downSwitchRose (k : Nat) : Steers A (State.downSwitchRose k) := by
  intro s h
  cases hr : lookup s.settings.gates k with
  | none =>
    unfold State.downSwitchRose
    rw [hr]
    exact h.course rfl
  | some r =>
    cases hg : s.gate k with
    | none =>
      unfold State.downSwitchRose
      rw [hr, hg]
      exact h.course rfl
    | some g =>
      rw [downSwitchRose_eq hr hg]
      refine course_switchOutcome h k fun new c ho => ?_
      split at ho
      · exact bothOutcome_rests ho
      · exact downOutcome_rests ho

theorem course_upLimit (h : Brings A s) (k : Nat) (r : GateRecord) (g : GateState) (kind : RaiseKind) :
    Course A (s.upLimit k r g kind) := by
  obtain ⟨hold, -, limit⟩ := upLimit_eq s k r g kind
  have limited : Course A (s.changeGate k .limit
      { atRest (if s.cif r.segment then .warning else .up) g.reversals with holdStart := hold }) := by
    refine course_rests h k _ ?_
    cases s.cif r.segment <;> rfl
  rcases limit with limit | limit <;> rw [limit]
  · exact limited
  · exact limited.turns (turns_loweringTest _ k)

theorem steers_upSwitchRose (k : Nat) : Steers A (State.upSwitchRose k) := by
  intro s h
  cases hr : lookup s.settings.gates k with
  | none =>
    unfold State.upSwitchRose
    rw [hr]
    exact h.course rfl
  | some r =>
    cases hg : s.gate k with
    | none =>
      unfold State.upSwitchRose
      rw [hr, hg]
      exact h.course rfl
    | some g =>
      by_cases limit : atUpLimit s r g
      · obtain ⟨inactive, kind, raising⟩ := limit
        rw [upSwitchRose_limit hr hg inactive raising]
        exact course_upLimit h k r g kind
      · rw [upSwitchRose_eq hr hg limit]
        refine course_switchOutcome h k fun new c ho => ?_
        split at ho
        · exact bothOutcome_rests ho
        · exact upOutcome_rests ho

theorem steers_presenceRose (k : Nat) : Steers A (State.presenceRose k) := by
  intro s h
  unfold State.presenceRose
  split
  · rename_i r g hr hg
    refine Course.ite (fun lowering => ?_) fun _ => h.course rfl
    exact Course.ite (fun few => course_changeGate h _ (h.reversed k g _ hg lowering few rfl rfl)) fun _ =>
      course_rests h k _ rfl
  · exact h.course rfl

theorem steers_presenceChanged (k : Nat) (high : Bool) : Steers A (State.presenceChanged k high) := by
  intro s h
  unfold State.presenceChanged
  have timed : Brings A (match lookup s.settings.gates k, itemAt s.field.clearZones k with
      | some r, some z => s.withZone k (z.presence s.now r.clearHold high)
      | _, _ => s) := by
    split
    · exact h.of_gates rfl
    · exact h
  exact Course.ite (fun _ => steers_presenceRose k _ timed) fun _ => timed.course rfl

theorem steers_keyFell (k : Nat) : Steers A (State.keyFell k) := by
  intro s h
  unfold State.keyFell
  split
  · exact Course.ite (fun _ => course_rests h k _ (deriveGate_rests s _)) fun _ => h.course rfl
  · exact h.course rfl

theorem steers_deliverChange (f : InputFunction) (high : Bool) : Steers A (State.deliverChange f high) := by
  intro s h
  have stays : Course A s := h.course rfl
  unfold State.deliverChange
  split
  · exact stays
  · exact Course.ite (fun _ => steers_upSwitchRose _ s h) fun _ => stays
  · exact Course.ite (fun _ => steers_downSwitchRose _ s h) fun _ => stays
  · exact steers_presenceChanged _ high s h
  · exact Course.ite (fun _ => course_rests h _ _ rfl) fun _ => steers_keyFell _ s h
  · split
    · exact Course.ite (fun _ => h.course rfl) fun _ => stays
    · exact stays
  · exact stays
  · exact stays

theorem steers_travelExpired (k : Nat) : Steers A (State.travelExpired k) := by
  intro s h
  unfold State.travelExpired
  split
  · exact course_rests h k _ rfl
  · exact h.course rfl

/-! ## The gate requests (R107, R108, R129, R130) -/

theorem steers_putGate (k : Nat) (r : GateRecord) : Steers A (State.putGate k r) := by
  intro s h
  obtain ⟨ks, signs, -, hand⟩ := handGateRecord_eq (lookup s.settings.gates k) r
  have placed : Course A (gatePlaced k r s) := .of_gates fun j g hg => by
    rcases lookup_putItem_cases s.gates k j (some (s.deriveGate r)) g hg with ⟨-, derived⟩ | before
    · cases derived
      exact h.rest j _ (deriveGate_rests s r)
    · exact h.same j g before
  rw [putGate_placed, hand]
  exact (placed.scene (scene_reports _ _)).turns (turns_handOver _ ks signs)

theorem steers_defineGate (f : List Byte) : Steers A fun u => (carryDefineGate f u).1 := by
  intro s h
  dsimp only
  unfold carryDefineGate
  split
  · exact h.course rfl
  · exact steers_putGate _ _ s h

theorem steers_dropGate (k : Nat) (r : GateRecord) : Steers A (State.dropGate k r) := by
  intro s h
  have taken : Course A (gateTaken k r s) := .of_gates fun j g hg => by
    rcases lookup_putItem_cases s.gates k j none g hg with ⟨-, none⟩ | before
    · cases none
    · exact h.same j g before
  exact (taken.scene (scene_reports _ [_])).turns (turns_handOver _ _ _)

theorem steers_removeGate (k : Nat) : Steers A fun u => (carryRemoveGate k u).1 :=
  steers_removeItem fun r s h => by
    dsimp only
    split
    · exact h.course rfl
    · exact steers_dropGate k r s h

theorem course_gateRequest {f : List Byte} {act : Nat → GateRecord → GateState → State → State × Answer} (h : Brings A s)
    (hf : ∀ r g, lookup s.settings.gates (byteAt f 0) = some r → s.gate (byteAt f 0) = some g →
      Course A (act (byteAt f 0) r g s).1) : Course A (gateRequest f act s).1 := by
  unfold gateRequest
  split
  · exact h.course rfl
  · split
    · exact h.course rfl
    · split
      · exact hf _ _ ‹_› ‹_›
      · exact h.course rfl

theorem steers_gateClear (f : List Byte) : Steers A fun u => (carryGateClear f u).1 := by
  refine fun s h => course_gateRequest h fun r g _ _ => ?_
  unfold clearGate
  split
  · exact h.course rfl
  · exact course_rests h _ _ (deriveGate_rests s r)

/-- GATE RAISE brings a gate into RAISING where no closure is in force and Hmax is below the permit level (R129). -/
theorem course_gateRaise (f : List Byte) (h : Brings A s)
    (raised : ∀ r x, lookup s.settings.gates (byteAt f 0) = some r → s.cif r.segment = false →
      ¬ s.hazardBlocks r.segment = true → x.position = .raising .requested → A (byteAt f 0) x) :
    Course A (carryGateRaise f s).1 := by
  refine course_gateRequest h fun r g hr _ => ?_
  unfold raiseGate
  split
  · exact h.course rfl
  · split
    · exact h.course rfl
    · split
      · exact h.course rfl
      · exact course_changeGate h _ (raised r _ hr (Bool.eq_false_iff.mpr ‹_›) ‹_› rfl)

end

end Sys2Proof.Proofs
end

section
/-! SUPPORT. The commands in which gates only turn: those of the clock and the notices, the paths, the segments, the signs
and the strings (R51 to R54, R58, R69 to R78, R100 to R102, R136 to R146, R167 to R169, R175, R176). -/

namespace Sys2Proof.Proofs

open Sys2Proof Sys2Proof.Machine Sys2Proof.Laws Sys2Proof.Claims

variable {A : Nat → GateState → Prop}

theorem Steers.of_scene {f : State → State} (h : ∀ u, scene (f u) = scene u) : Steers A f :=
  .of_gates fun u => gates_of_scene (h u)

theorem Steers.of_beside {f : State → State} (h : ∀ u, Beside u (f u)) : Steers A f := .of_gates fun u => (h u).gates

theorem Steers.of_turns {f : State → State} (h : ∀ u, Turns (fun _ _ => True) u (f u)) : Steers A f := fun u a =>
  (a.course rfl).turns (h u)

/-- An effect taken on a condition, and else none. -/
theorem Steers.cond {f : State → State} {c : State → Prop} [DecidablePred c] (h : Steers A f) :
    Steers A fun u => if c u then f u else u := fun u a => Course.ite (fun _ => h u a) fun _ => a.course rfl

/-! ## The clock and the notices (R69 to R78) -/

/-- A change of the list, reported and handed on. -/
theorem course_listed {s : State} (h : Brings A s) (l : List Notice) (bs : List ReportBody) (touched : List Nat) :
    Course A (((s.withNotices l).reports bs).handTouched touched) :=
  ((h.course (t := s.withNotices l) rfl).scene (scene_reports _ bs)).turns (turns_handTouched _ touched)

theorem steers_clockWalk (now : Nat) : Steers A (State.clockWalk now) := fun _ a => course_listed a _ _ _

theorem steers_setClock (new : Nat) : Steers A (State.setClock new) := fun u a =>
  Course.ite (fun _ => steers_clockWalk new _ (a.of_gates (s := u) rfl)) fun _ => a.course rfl

theorem steers_timeSet (f : List Byte) : Steers A fun u => (carryTimeSet f u).1 := by
  intro u a
  dsimp only
  unfold carryTimeSet
  split
  · exact a.course rfl
  · split
    · exact a.course rfl
    · exact steers_setClock _ u a

theorem steers_tick : Steers A State.tick := by
  intro u a
  unfold State.tick
  split
  · exact a.course rfl
  · dsimp only
    exact Course.ite (fun _ => steers_clockWalk _ _ (a.of_gates rfl)) fun _ => a.course rfl

theorem steers_post (n : Notice) : Steers A (State.post n) := fun _ a => course_listed a _ _ _

theorem steers_withdraw (n : Notice) : Steers A (State.withdraw n) := fun _ a => course_listed a _ [n.report .withdrawn] _

theorem steers_noticePost (f : List Byte) : Steers A fun u => (carryNoticePost f u).1 := by
  intro u a
  dsimp only
  unfold carryNoticePost
  split
  · exact a.course rfl
  · split
    · exact a.course rfl
    · exact steers_post _ u a

theorem steers_noticeWithdraw (f : List Byte) : Steers A fun u => (carryNoticeWithdraw f u).1 := by
  intro u a
  dsimp only
  unfold carryNoticeWithdraw
  split
  · exact a.course rfl
  · split
    · exact a.course rfl
    · exact steers_withdraw _ u a

/-! ## Paths and the step end (R23, R51 to R54, R58) -/

theorem steers_pathFloor (f : List Byte) : Steers A fun u => (carryPathFloor f u).1 := by
  intro u a
  dsimp only
  unfold carryPathFloor
  split
  · exact a.course rfl
  · exact (a.course (t := u.withFigures _ _) rfl).turns (turns_handLevels _ _)

theorem steers_putPath (k : Nat) (r : PathRecord) : Steers A (State.putPath k r) := by
  intro u a
  refine Course.turns (Course.ite (fun _ => ?_) fun _ => ?_) (turns_handSegments _ _)
  · exact a.course rfl
  · exact a.course rfl

theorem steers_definePath (f : List Byte) : Steers A fun u => (carryDefinePath f u).1 := by
  intro u a
  dsimp only
  unfold carryDefinePath
  split
  · exact a.course rfl
  · exact steers_putPath _ _ u a

theorem steers_removePath (k : Nat) : Steers A fun u => (carryRemovePath k u).1 :=
  steers_removeItem fun _ u a =>
    (a.course (t := (u.change (Settings.setPath k none)).withFigures k PathFigures.cleared) rfl).turns
      (turns_handSegments _ _)

theorem steers_takeIndices (es : List PathEntry) : Steers A (State.takeIndices es) := by
  intro u a
  have figures : ∀ xs : List (Nat × PathFigures × PathFigures),
      (xs.foldl (fun s x => s.withFigures x.1 x.2.2) u).gates = u.gates := fun xs =>
    keep_foldl (P := fun w : State => w.gates = u.gates) (f := fun s x => s.withFigures x.1 x.2.2) (fun _ _ h => h) xs u
      rfl
  exact (a.course (figures _)).turns (turns_handLevels _ _)

theorem scene_takeReadouts (r : StepRecord) (s : State) : scene (s.takeReadouts r) = scene s :=
  scene_recompose (s.withComposer { s.composer with temp := tempReadout r.t r.tState, wind := some r.u }) _

theorem steers_endStep : Steers A State.endStep := fun u a => by
  have closed : Brings A ((u.closeStep u.stepRecord).emptyChannels.report u.stepRecord.report) :=
    (a.of_gates (t := (u.closeStep u.stepRecord).emptyChannels) rfl).of_gates (beside_report _ _ id).gates
  exact (steers_takeIndices _ _ closed).scene (scene_takeReadouts _ _)

/-! ## Segments (R100 to R102) -/

theorem steers_putSegment (k : Nat) (r : SegmentRecord) : Steers A (State.putSegment k r) := by
  intro u a
  unfold State.putSegment
  split
  · exact a.course rfl
  · exact (a.course (t := u.change (Settings.setSegment k (some r))) rfl).turns (turns_handOver _ _ _)

theorem steers_defineSegment (f : List Byte) : Steers A fun u => (carryDefineSegment f u).1 := by
  intro u a
  dsimp only
  unfold carryDefineSegment
  split
  · exact a.course rfl
  · exact steers_putSegment _ _ u a

theorem steers_removeSegment (k : Nat) : Steers A fun u => (carryRemoveSegment k u).1 :=
  steers_removeItem fun _ _ a => by
    dsimp only
    split <;> exact a.course rfl

/-! ## Signs (R136, R137, R175, R176) -/

theorem steers_movePanel (k : Nat) : Steers A (State.movePanel k) := fun u a => by
  have fresh := (beside_orphan u k).trans (beside_withPanel (u.orphan k) k (some PanelRecord.fresh))
  have reported := fresh.trans (Beside.ite (c := u.inFault k = true) (beside_reportSign _ k .moved) (.refl _))
  exact (a.course reported.gates).turns (turns_tellSign _ k)

theorem steers_redefineSign (k : Nat) (old r : SignRecord) (c : SignState) : Steers A (State.redefineSign k old r c) := by
  intro u a
  refine Course.scene (Course.ite (fun _ => steers_movePanel k _ (a.of_gates ?_)) fun _ => a.course ?_)
    (scene_handMarks _ _)
  · exact gates_of_scene (scene_recomposeSign _ k)
  · exact gates_of_scene (scene_recomposeSign _ k)

theorem steers_defineSign (f : List Byte) : Steers A fun u => (carryDefineSign f u).1 := by
  intro u a
  dsimp only
  unfold carryDefineSign
  split
  · exact a.course rfl
  · dsimp only [accept]
    unfold State.putSign
    split
    · exact steers_redefineSign _ _ _ _ u a
    · exact a.course (beside_handMarks _ _).gates

theorem gates_signTaken (k : Nat) (v : State) :
    (((v.change (Settings.withoutSign k)).withSign k none).withPanel k none).gates = v.gates := rfl

theorem steers_dropSign (k : Nat) : Steers A (State.dropSign k) := fun u a => by
  have reported : Beside u (if u.inFault k then u.reportSign k .removed else u) :=
    Beside.ite (beside_reportSign u k .removed) (.refl u)
  exact a.course ((gates_signTaken k _).trans (reported.trans (beside_orphan _ k)).gates)

theorem steers_removeSign (k : Nat) : Steers A fun u => (carryRemoveSign k u).1 :=
  steers_removeItem fun _ u a => by
    dsimp only
    split
    · exact steers_dropSign k u a
    · exact a.course rfl

/-! ## Profiles, groups, pages and texts (R138 to R146) -/

theorem steers_defineProfile (f : List Byte) : Steers A fun u => (carryDefineProfile f u).1 := by
  intro u a
  dsimp only
  unfold carryDefineProfile
  split
  · exact a.course rfl
  · split
    · exact a.course rfl
    · split
      · exact a.course rfl
      · exact (a.course (t := u.change _) rfl).scene (scene_recompose _ _)

theorem steers_removeProfile (k : Nat) : Steers A fun u => (carryRemoveProfile k u).1 :=
  steers_removeItem fun _ _ a => by
    dsimp only
    split <;> exact a.course rfl

theorem steers_defineGroup (f : List Byte) : Steers A fun u => (carryDefineGroup f u).1 := by
  intro u a
  dsimp only
  unfold carryDefineGroup
  split <;> exact a.course rfl

theorem steers_removeGroup (k : Nat) : Steers A fun u => (carryRemoveGroup k u).1 :=
  steers_removeItem fun _ _ a => a.course rfl

theorem gates_changePages (g : SignRecord → SignState → SignState) (ks : List Nat) (s : State) :
    (ks.foldl (State.changePages g) s).gates = s.gates := by
  refine keep_foldl (P := fun u : State => u.gates = s.gates) (fun u k h => ?_) ks s rfl
  unfold State.changePages
  split
  · exact h
  · exact h

theorem steers_pageWrite (f : List Byte) : Steers A fun u => (carryPageWrite f u).1 := by
  intro u a
  dsimp only
  unfold carryPageWrite
  split
  · exact a.course rfl
  · split
    · split
      · exact a.course rfl
      · exact a.course (gates_changePages _ _ u)
    · exact a.course rfl

theorem steers_pageSwap (f : List Byte) : Steers A fun u => (carryPageSwap f u).1 := by
  intro u a
  dsimp only
  unfold carryPageSwap
  split
  · exact a.course rfl
  · split
    · exact a.course rfl
    · split
      · exact a.course rfl
      · exact a.course ((gates_of_scene (scene_recompose _ _)).trans (gates_changePages _ _ u))

theorem steers_loadTexts (entry : Nat) (ts : List (List Code)) : Steers A (State.loadTexts entry ts) := fun u a =>
  (a.course (t := u.change fun c => { c with texts := storeTexts u.settings.texts entry ts }) rfl).scene
    (scene_recompose _ _)

theorem steers_textLoad (f : List Byte) : Steers A fun u => (carryTextLoad f u).1 := by
  intro u a
  dsimp only
  unfold carryTextLoad
  split
  · exact a.course rfl
  · split
    · exact a.course rfl
    · exact steers_loadTexts _ _ u a

/-! ## Calibration, link and restart (R18, R193, R201) -/

theorem gates_calibrate (s : State) (new : Calibration) : (s.calibrate new).gates = s.gates :=
  withField_gates (s.change fun c => { c with calibration := new }) _

theorem steers_calibrate (f : List Byte) : Steers A fun u => (carryCalibrate f u).1 := by
  intro u a
  dsimp only
  unfold carryCalibrate
  split
  · exact a.course rfl
  · exact a.course (gates_calibrate u _)

theorem steers_linkSet (f : List Byte) : Steers A fun u => (carryLinkSet f u).1 := by
  intro u a
  dsimp only
  unfold carryLinkSet
  split
  · exact a.course rfl
  · split
    · exact a.course rfl
    · split
      · exact a.course rfl
      · exact a.course (beside_setLink u _ _).gates

theorem steers_restart (f : List Byte) : Steers A fun u => (carryRestart f u).1 := by
  intro u a
  dsimp only
  unfold carryRestart
  split
  · exact a.course rfl
  · split <;> exact a.course rfl

/-! ## Strings (R165 to R169) -/

section
variable {s t : State}

/-- A string event so far: the gates as they were, or the gates told of the sign, and no byte awaited any more. -/
def Judged (A : Nat → GateState → Prop) (x : StringId) (s t : State) : Prop :=
  t.gates = s.gates ∨ Course A t ∧ ¬ Waits x t

theorem scene_endTransfer (s : State) (x : StringId) : scene (s.endTransfer x) = scene s :=
  (scene_arbitrate _ x).trans (scene_withTransfer s x none)

theorem judged_succeed (h : Brings A s) (x : StringId) (a : Attempt) : Judged A x s (s.succeed x a) := by
  unfold State.succeed
  split
  · exact .inl (beside_endTransfer s x).gates
  · split
    · rename_i p c _ _
      have reported := Beside.ite (c := p.state = .fault)
        (beside_reportSign ((s.withPanel a.sign (some (p.confirm a.sent s.now))).withSign a.sign (some (c.confirm a.sent)))
          a.sign (.confirmed a.sent.identity a.sent.claims.closureSegment)) (.refl _)
      exact .inr ⟨((h.course reported.gates).turns (turns_tellSign _ _)).scene (scene_endTransfer _ x),
        idle_endTransfer _ x⟩
    · exact .inl (beside_endTransfer s x).gates

theorem judged_failAttempt (h : Brings A s) (x : StringId) (a : Attempt) (c : Failure) :
    Judged A x s (s.failAttempt x a c) := by
  unfold State.failAttempt
  split
  · exact .inl (beside_endTransfer s x).gates
  · split
    · exact .inl (beside_endTransfer s x).gates
    · rename_i p _
      split
      · exact .inl (beside_endTransfer _ x).gates
      · split
        · exact .inl (beside_beginAttempt _ x _ _).gates
        · have reported := (beside_withPanel s a.sign (some (p.fail c s.now))).trans
            (beside_reportSign _ a.sign (.enteredFault (some c) p.confirmed.isSome))
          exact .inr ⟨((h.course reported.gates).turns (turns_tellSign _ _)).scene (scene_endTransfer _ x),
            idle_endTransfer _ x⟩

theorem judged_stringByte (h : Brings A s) (x : StringId) (b : Option Byte) : Judged A x s (s.stringByte x b) := by
  unfold State.stringByte
  split
  · exact .inl rfl
  · split
    · exact .inl rfl
    · split
      · exact .inl rfl
      · unfold State.takeVerdict
        split
        · exact .inl (beside_withTransfer s x _).gates
        · exact judged_succeed h x _
        · exact judged_failAttempt h x _ _

theorem Judged.course (h : Brings A s) {x : StringId} (k : Judged A x s t) : Course A t :=
  k.elim h.course And.left

/-- The gates are told at most once: the byte of the verdict is the last that the string takes. -/
theorem steers_stringBytes (x : StringId) (bytes : List (Option Byte)) : Steers A (State.stringBytes x bytes) := by
  intro s h
  refine Judged.course h (x := x) (keep_foldl (P := Judged A x s) (f := fun u b => u.stringByte x b) (fun u b k => ?_) bytes s
    (.inl rfl))
  rcases k with same | ⟨told, idle⟩
  · exact (judged_stringByte (h.of_gates same) x b).imp_left (·.trans same)
  · rw [stringByte_of_idle idle]
    exact .inr ⟨told, idle⟩

theorem steers_windowEnds (x : StringId) : Steers A (State.windowEnds x) := by
  intro s h
  unfold State.windowEnds
  split
  · exact h.course rfl
  · split
    · exact h.course rfl
    · exact Course.ite (fun _ => (judged_failAttempt h x _ _).course h) fun _ => h.course rfl

end

end Sys2Proof.Proofs
end

section
/-! The moves of the booms (O60): every command brings gates to states that `Brings` allows and turns them from there, and
a turn begins no raising, and a lowering only when the hold has been served (R110, R117, R122, R129). -/

namespace Sys2Proof.Proofs

open Sys2Proof Sys2Proof.Machine Sys2Proof.Laws Sys2Proof.Claims

variable {A : Nat → GateState → Prop} {s t : State}

/-! ## Starts (R133, R199 to R201) -/

/-- Every gate is at rest. -/
def GatesRest (s : State) : Prop := ∀ k g, s.gate k = some g → g.position.inMotion = false

theorem GatesRest.of_gates (h : GatesRest s) (e : t.gates = s.gates) : GatesRest t := fun k g hg =>
  h k g ((congrArg (lookup · k) e).symm.trans hg)

theorem rest_startGates (s : State) : GatesRest s.startGates := by
  intro k g hg
  obtain ⟨gate, -⟩ := startGates_gates s
  rw [gate] at hg
  obtain ⟨r, -, rfl⟩ := Option.map_eq_some_iff.mp hg
  exact deriveGate_rests s r

theorem rest_startWarning (h : GatesRest s) (x : Nat × GateRecord) : GatesRest (s.startWarning x) := by
  intro j g hg
  obtain ⟨-, -, -, -, gate⟩ := startWarning_keeps s x
  rcases gate j with same | ⟨-, -, -, warned⟩
  · exact h j g (same ▸ hg)
  · rw [warned] at hg
    cases hg
    rfl

theorem rest_startSegments (h : GatesRest s) : GatesRest s.startSegments :=
  (keep_foldl (P := GatesRest) (fun _ x hu => rest_startWarning hu x) (entries s.settings.gates) s.deriveSegments
    (h.of_gates rfl)).of_gates rfl

theorem gates_started (cause : StartCause) (requested : Bool) (s v : State) :
    (started cause requested s v).gates = v.gates := by
  have told : ∀ (w : State) b, (w.report b).gates = w.gates := fun w b => gates_of_scene (scene_reports w [b])
  have strings : ∀ w : State, w.startStrings.gates = w.gates := fun w => (beside_runArbiters (w.withStrings _)).gates
  unfold started
  dsimp only
  rw [withRetained_gates, told, strings]
  rfl

theorem rest_startPart (cause : StartCause) (requested : Bool) (s : State) : GatesRest (s.startPart cause requested) := by
  obtain ⟨noticed, -⟩ := startNotices_gates s.loaded.startGates (startKind s.retained.checkHolds)
  have parts : s.startPart cause requested = started cause requested s
    (s.loaded.startGates.startNotices (startKind s.retained.checkHolds)).startSegments := rfl
  rw [parts]
  exact (rest_startSegments ((rest_startGates s.loaded).of_gates noticed)).of_gates (gates_started _ _ _ _)

/-- What a start or a loss of the supply leaves, and what goes on from there. -/
theorem Brings.anew (h : Brings A s) {u : State} (rest : GatesRest u) (k : Turns (fun _ _ => True) u t) : Course A t :=
  (Course.of_gates fun j g hg => h.rest j g (rest j g hg)).turns k

theorem course_start {kept : Bool} {phase : Moment} (h : Brings A s) (e : execStart kept phase s = .next t) :
    Course A t := by
  unfold execStart at e
  injection e with e
  rw [← e]
  exact h.anew (rest_startPart _ _ _) ((turns_settle _).scene (scene_kick _))

theorem rest_toReset (r : Retained) (s : State) : GatesRest (s.toReset r) := fun k _ hg => by
  cases (lookup_replicate_none k).symm.trans hg

theorem course_supplyLoss {m : Moment} {cut : Bool} (h : Brings A s) (e : execSupplyLoss m cut s = .next t) :
    Course A t := by
  unfold execSupplyLoss at e
  injection e with e
  rw [← e]
  exact Course.ite (fun _ => h.anew (rest_toReset _ _) (.refl _)) fun _ => h.course rfl

theorem course_replySent {m : Moment} (h : Brings A s) (e : execReplySent m s = .next t) : Course A t := by
  unfold execReplySent at e
  injection e with e
  rw [← e]
  refine Course.ite (fun _ => ?_) fun _ => h.course rfl
  have goes : ∀ u : State, Turns (fun _ _ => True) u u.settle.goOn := fun u => (turns_settle u).scene (scene_goOn _)
  rcases replyGone_cases (s.elapse m) with gone | ⟨x, kind, again⟩
  · exact (h.course (gone.gates.trans rfl)).turns (goes _)
  · rw [again]
    exact h.anew (rest_startPart _ _ _) (goes _)

/-! ## The line, the store and the field -/

theorem course_pin {m : Moment} {f : State → State} {line : Nat} {high : Bool} (h : Brings A s) (hf : Steers A f)
    (e : (if s.powered then event m f s else .next (s.withPin line high)) = .next t) : Course A t := by
  split at e
  · exact steers_event h hf e
  · cases e
    exact h.course rfl

theorem course_clockTick {m : Moment} (h : Brings A s) (e : execClockTick m s = .next t) : Course A t := by
  unfold execClockTick at e
  split at e
  · exact steers_event h (Steers.cond steers_tick) e
  · cases e
    exact h.course rfl

theorem steers_saveSettings (tag : Byte) (fields : List Byte) : Steers A fun u =>
    if u.takes ⟨kindSaveSettings, tag :: fields⟩ then
      if fields.isEmpty then u.popFrame.beginSave tag else u.carryOut kindSaveSettings tag (refuse .malformed)
    else u := by
  intro u a
  refine Course.ite (fun _ => Course.ite (fun _ => ?_) fun _ => ?_) fun _ => a.course rfl
  · exact a.course ((beside_popFrame u).trans (beside_beginSave _ tag)).gates
  · exact course_carryOut (a.course rfl)

theorem course_storeWriteEnd {m : Moment} {accepted : Bool} (h : Brings A s)
    (e : execStoreWriteEnd m accepted s = .next t) : Course A t := by
  refine steers_event h (Steers.of_beside fun u => ?_) e
  split
  · exact .refl u
  · exact (beside_saveDone u _ ‹_›).ite (beside_saveFailed u)

theorem course_storeWriteTimeout {m : Moment} (h : Brings A s) (e : execStoreWriteTimeout m s = .next t) :
    Course A t := by
  refine steers_event h (Steers.of_beside fun u => ?_) e
  split
  · exact .refl u
  · exact (beside_saveFailed u).ite (.refl u)

theorem course_changeEvent {m : Moment} {line : Nat} (h : Brings A s) (e : execChangeEvent m line s = .next t) :
    Course A t := by
  refine steers_event h (fun u a => ?_) e
  split
  · exact steers_deliverChange _ _ _ (a.of_gates rfl)
  · exact a.course rfl

theorem gates_reportsGone (s : State) : s.reportsGone.gates = s.gates := withLine_gates _ _

theorem course_unknownKind {m : Moment} {kind : Byte} {body : List Byte} (h : Brings A s)
    (e : exec (.unknownKind m kind body) s = .next t) : Course A t := by
  refine steers_event h (fun u a => ?_) e
  split
  · exact course_carryOut (a.course rfl)
  · exact a.course rfl

/-! ## Every command -/

/-- The walk through the commands. -/
theorem course_exec {i : Instr} (e : exec i s = .next t) (h : Brings A s)
    (raised : ∀ m tag f, i = .gateRaise m tag f → ∀ r x, lookup s.settings.gates (byteAt f 0) = some r →
      s.cif r.segment = false → ¬ s.hazardBlocks r.segment = true → x.position = .raising .requested →
        A (byteAt f 0) x) : Course A t := by
  cases i with
  | timeSet m tag f => exact steers_request h (steers_timeSet f) e
  | noticePost m tag f => exact steers_request h (steers_noticePost f) e
  | noticeWithdraw m tag f => exact steers_request h (steers_noticeWithdraw f) e
  | pathFloor m tag f => exact steers_request h (steers_pathFloor f) e
  | stepEnd m => exact steers_event h (Steers.cond steers_endStep) e
  | clockTick m => exact course_clockTick h e
  | replySent m => exact course_replySent h e
  | start kept phase => exact course_start h e
  | supplyLoss m cut => exact course_supplyLoss h e
  | pageWrite m tag f => exact steers_request h (steers_pageWrite f) e
  | pageSwap m tag f => exact steers_request h (steers_pageSwap f) e
  | textLoad m tag f => exact steers_request h (steers_textLoad f) e
  | gateRaise m tag f => exact course_request h (course_gateRaise f (h.of_gates rfl) (raised m tag f rfl)) e
  | gateClear m tag f => exact steers_request h (steers_gateClear f) e
  | restart m tag f => exact steers_request h (steers_restart f) e
  | definePath m tag f => exact steers_request h (steers_definePath f) e
  | defineSegment m tag f => exact steers_request h (steers_defineSegment f) e
  | defineGate m tag f => exact steers_request h (steers_defineGate f) e
  | defineSign m tag f => exact steers_request h (steers_defineSign f) e
  | defineProfile m tag f => exact steers_request h (steers_defineProfile f) e
  | defineGroup m tag f => exact steers_request h (steers_defineGroup f) e
  | removePath m tag f => exact steers_removal h steers_removePath e
  | removeSegment m tag f => exact steers_removal h steers_removeSegment e
  | removeGate m tag f => exact steers_removal h steers_removeGate e
  | removeSign m tag f => exact steers_removal h steers_removeSign e
  | removeProfile m tag f => exact steers_removal h steers_removeProfile e
  | removeGroup m tag f => exact steers_removal h steers_removeGroup e
  | calibrate m tag f => exact steers_request h (steers_calibrate f) e
  | linkSet m tag f => exact steers_request h (steers_linkSet f) e
  | saveSettings m tag f => exact steers_event h (steers_saveSettings tag f) e
  | queryStatus m tag f => exact steers_request h (fun u a => keep_carryQueryStatus (P := Course A) f u (a.course rfl)) e
  | queryPath m tag f => exact steers_request h (fun u a => keep_queryItem (P := Course A) (a.course rfl)) e
  | querySegment m tag f => exact steers_request h (fun u a => keep_queryItem (P := Course A) (a.course rfl)) e
  | queryGate m tag f => exact steers_request h (fun u a => keep_queryItem (P := Course A) (a.course rfl)) e
  | querySign m tag f => exact steers_request h (fun u a => keep_queryItem (P := Course A) (a.course rfl)) e
  | queryNotices m tag f => exact steers_request h (fun u a => keep_carryQueryNotices (P := Course A) f u (a.course rfl)) e
  | queryStep m tag f => exact steers_request h (fun u a => keep_carryQueryStep (P := Course A) f u (a.course rfl)) e
  | queryText m tag f => exact steers_request h (fun u a => keep_carryQueryText (P := Course A) f u (a.course rfl)) e
  | unknownKind m kind body => exact course_unknownKind h e
  | stationFrameReceived m bytes => exact steers_event h (Steers.of_beside fun u => beside_receiveBytes u bytes) e
  | badLength m length =>
    exact steers_event h (Steers.cond (.of_beside fun u => beside_receiveBytes u [length])) e
  | missingStopBit m => exact steers_event h (.of_beside beside_dropFrame) e
  | gapExpiry m => exact steers_event h (Steers.cond (.of_beside beside_dropFrame)) e
  | reportAgeExpiry m => exact steers_event h (.of_gates fun _ => rfl) e
  | reportFrameSent m => exact steers_event h (Steers.cond (.of_gates gates_reportsGone)) e
  | silenceLimitReached m => exact steers_event h (.of_beside beside_checkSilence) e
  | storeWriteEnd m accepted => exact course_storeWriteEnd h e
  | storeWriteTimeout m => exact course_storeWriteTimeout h e
  | fieldLineChange m line high => exact course_pin h (.of_beside fun u => beside_lineTransition u line high) e
  | widthEdge m line high =>
    exact course_pin h (Steers.cond (.of_beside fun u => beside_lineTransition u line high)) e
  | changeEvent m line => exact course_changeEvent h e
  | vaneSample m => exact steers_event h (Steers.cond (.of_beside beside_sampledOnce)) e
  | holdDeadline m k => exact steers_event h (.of_turns fun u => turns_loweringTest u k) e
  | clearZoneExpiry m k =>
    refine steers_event h (Steers.cond (f := fun u => (u.withZone k .idle).loweringTest k) fun u a => ?_) e
    exact (a.course (t := u.withZone k .idle) rfl).turns (turns_loweringTest _ k)
  | travelTimeout m k => exact steers_event h (Steers.cond (steers_travelExpired k)) e
  | refreshDue m k => exact steers_event h (.of_beside fun u => beside_chooseFor u k _) e
  | retryDue m k => exact steers_event h (.of_beside fun u => beside_chooseFor u k _) e
  | imageFrameSent m x => exact steers_event h (.of_beside fun u => beside_imageSent u x) e
  | shownFrameReceived m x bytes => exact steers_event h (steers_stringBytes x bytes) e
  | replyWindowEnd m x => exact steers_event h (steers_windowEnds x) e

/-! ## What turning keeps -/

/-- A gate lowers as it did, or begins to where its clear zone is not running and its hold has been served. -/
def LowersFrom (u : State) (k : Nat) (h : GateState) : Prop :=
  h.position = .lowering → (∃ g, u.gate k = some g ∧ g.position = .lowering) ∨
    ∃ r, lookup u.settings.gates k = some r ∧ u.mayLower k r { h with position := .warning } = true

/-- A raising gate raises as it did. -/
def RaisesFrom (u : State) (k : Nat) (h : GateState) : Prop :=
  ∀ kind, h.position = .raising kind → ∃ g, u.gate k = some g ∧ g.position = .raising kind ∧ g.reversals = h.reversals

/-- A hold that has been served stays when it is reviewed. -/
theorem followedHold_of_mayLower {u : State} {k : Nat} {r : GateRecord} {g x : GateState} (may : u.mayLower k r x = true)
    (hold : x.holdStart = g.holdStart) : u.followedHold r g = g.holdStart := by
  unfold State.mayLower at may
  obtain ⟨⟨-, agrees⟩, passed⟩ := by simpa only [Bool.and_eq_true] using may
  unfold State.followedHold
  rw [if_pos agrees]
  cases start : g.holdStart with
  | some time => rfl
  | none =>
    unfold State.deadlinePassed at passed
    rw [hold, start] at passed
    cases passed

theorem LowersFrom.turn {T : Nat → Bool → Prop} {u : State} {k : Nat} {r : GateRecord} {g h : GateState}
    (hr : lookup u.settings.gates k = some r) (turn : Turn T u k r g h) (before : LowersFrom u k g) :
    LowersFrom u k h := by
  intro lowering
  cases turn with
  | warned _ _ => cases lowering
  | released _ _ => cases lowering
  | lowered may =>
    refine .inr ⟨r, hr, ?_⟩
    unfold State.mayLower at may ⊢
    obtain ⟨⟨⟨-, clear⟩, agrees⟩, passed⟩ := by simpa only [Bool.and_eq_true] using may
    exact Bool.and_eq_true_iff.mpr ⟨Bool.and_eq_true_iff.mpr ⟨clear, agrees⟩, passed⟩
  | reviewed _ =>
    refine (before lowering).imp_right ?_
    rintro ⟨q, hq, may⟩
    obtain rfl := Option.some.inj (hr.symm.trans hq)
    refine ⟨r, hr, ?_⟩
    have kept := followedHold_of_mayLower (g := g) may rfl
    simpa only [kept] using may

theorem RaisesFrom.turn {T : Nat → Bool → Prop} {u : State} {k : Nat} {r : GateRecord} {g h : GateState}
    (turn : Turn T u k r g h) (before : RaisesFrom u k g) : RaisesFrom u k h := by
  intro kind raising
  cases turn with
  | warned _ _ => cases raising
  | released _ _ => cases raising
  | lowered _ => cases raising
  | reviewed _ => exact before kind raising

/-- How a gate that moves after some turns came to. -/
theorem Turns.moves {u : State} (turns : Turns (fun _ _ => True) u t) {k : Nat} {h : GateState} (hh : t.gate k = some h) :
    LowersFrom u k h ∧ RaisesFrom u k h := by
  obtain ⟨turned, -⟩ := turns.turned (fun _ _ _ => .inl trivial) fun _ _ _ => trivial
  refine (turned k).keeps (P := fun x => LowersFrom u k x ∧ RaisesFrom u k x) (fun r x y hr turn before => ?_)
    (fun g hg => ?_) h hh
  · exact ⟨before.1.turn hr turn, before.2.turn turn⟩
  · exact ⟨fun lowering => .inl ⟨g, hg, lowering⟩, fun kind raising => ⟨g, hg, raising, rfl⟩⟩

/-- A lowering that began is begun as the state after the command shows it. -/
theorem served_of_mayLower {u : State} (sees : outlook t = outlook u) {k : Nat} {r : GateRecord} {h : GateState}
    (hh : t.gate k = some h) (may : u.mayLower k r { h with position := .warning } = true) :
    itemAt t.field.clearZones k = some .idle ∧ Served t (t.now / usPerSecond) r h := by
  rw [← mayLower_of_outlook sees] at may
  obtain ⟨-, clear, agrees, start, required, began, requires, passed⟩ := (mayLower_iff t k r _ (lookup_bounds _ hh)).mp may
  exact ⟨clear, agrees, start, required, began, requires, passed⟩

/-! ## The moves allowed -/

/-- The conditions of a raising at request (R129). -/
def RaiseAllowed (i : Instr) (s : State) (k : Nat) : Prop :=
  ∃ m tag f r, i = .gateRaise m tag f ∧ byteAt f 0 = k ∧ lookup s.settings.gates k = some r ∧
    s.cif r.segment = false ∧
    ∀ q d, lookup s.settings.segments r.segment = some q → lookup s.segments r.segment = some d → d.hmax < q.permit

/-- The states that a command brings gate `k` into, before anything is told. -/
structure Allowed (i : Instr) (s : State) (k : Nat) (h : GateState) : Prop where
  lowering : h.position = .lowering → ∃ g, s.gate k = some g ∧ g.position = .lowering
  requested : h.position = .raising .requested →
    (∃ g, s.gate k = some g ∧ g.position = .raising .requested) ∨ RaiseAllowed i s k
  obstruction : h.position = .raising .obstruction →
    (∃ g, s.gate k = some g ∧ g.position = .raising .obstruction) ∨
      ∃ g, s.gate k = some g ∧ g.position = .lowering ∧ g.reversals < 3 ∧ h.reversals = g.reversals + 1

theorem brings_allowed (i : Instr) (s : State) : Brings (Allowed i s) s where
  same := fun _ g hg => ⟨fun p => ⟨g, hg, p⟩, fun p => .inl ⟨g, hg, p⟩, fun p => .inl ⟨g, hg, p⟩⟩
  rest := fun _ h still => by
    refine ⟨fun p => ?_, fun p => ?_, fun p => ?_⟩ <;> rw [p] at still <;> cases still
  reversed := fun k g h hg lowering few p more => by
    refine ⟨fun q => ?_, fun q => ?_, fun _ => .inr ⟨g, hg, lowering, few, more⟩⟩
    · cases p.symm.trans q
    · cases p.symm.trans q

/-- The states that every command brings the gates into are allowed. -/
theorem allowed_exec {i : Instr} (e : exec i s = .next t) : Course (Allowed i s) t := by
  refine course_exec e (brings_allowed i s) fun m tag f hi r x hr opened free raising => ?_
  refine ⟨fun p => ?_, fun _ => .inr ⟨m, tag, f, r, hi, rfl, hr, opened, fun q d hq hd => ?_⟩, fun p => ?_⟩
  · cases raising.symm.trans p
  · exact Nat.lt_of_not_le fun blocked => free ((hazardBlocks_of_lookup hq hd).mpr blocked)
  · cases raising.symm.trans p

/-- Settles O60: the state a command brings a gate into is allowed, and it turns from there. -/
theorem boomMovesOnlyWhenAllowed : Obligations.BoomMovesOnlyWhenAllowed := by
  intro i s t k h e hh
  obtain ⟨u, allowed, turns⟩ := allowed_exec e
  obtain ⟨lowers, raises⟩ := turns.moves hh
  refine ⟨fun lowering anew => ?_, fun raising anew => ?_, fun raising anew => ?_⟩
  · rcases lowers lowering with ⟨g, hg, before⟩ | ⟨r, hr, may⟩
    · obtain ⟨x, hx, already⟩ := (allowed k g hg).lowering before
      exact absurd already (anew x hx)
    · exact ⟨r, by rwa [gates_of_outlook turns.sees], served_of_mayLower turns.sees hh may⟩
  · obtain ⟨g, hg, before, -⟩ := raises _ raising
    refine ((allowed k g hg).requested before).resolve_left ?_
    rintro ⟨x, hx, already⟩
    exact anew x hx already
  · obtain ⟨g, hg, before, same⟩ := raises _ raising
    rw [← same]
    refine ((allowed k g hg).obstruction before).resolve_left ?_
    rintro ⟨x, hx, already⟩
    exact anew x hx already

end Sys2Proof.Proofs
end
